-- ==== Sys2Proof/Word.lean ====
section
/-! DEFINITION. The words of the part (bytes, 32-bit and 64-bit words) and the type of exact rational
numbers in which the motion and heater formulas of spec/14 are evaluated. -/

namespace Sys2Proof

abbrev Byte := BitVec 8
abbrev Word := BitVec 32
abbrev DWord := BitVec 64

/-- An exact rational number `n / d`; the operations of Machine/Bits.lean keep it in lowest terms with
`d` positive. -/
structure Q where
  n : Int
  d : Nat
deriving DecidableEq, Repr, Inhabited

end Sys2Proof
end

