-- ==== Sys2Proof/Syntax.lean ====
section
/-! DEFINITION. The commands of the part: one constructor for every row of spec/opcode_table.json, with the
operands the row's rule gives it. What lies outside the part (a packet's bytes, a signature's verdict, a
measured temperature) arrives as an operand. -/

namespace Sys2Proof

/-- The verdicts of checks whose inputs the model does not hold: a signature (R361, R372, R374), the OAEP
unwrap of R361, the digest of a firmware body (R374), the BiSS-C frames measured at
enable against the 19.0 µs limit (R427). (DESIGN CHOICE: log entry 5). -/
structure Verdict where
  bissOk : Bool
  sigOk : Bool
  unwrapOk : Bool
  imageOk : Bool
deriving DecidableEq, Repr, Inhabited

/-- A request as Newel takes it: request mailbox, staging entry, REQ_SEQ, the reserved bits [23:11] of the
payload, LEN_W, the opened parameter block, COLLISION at the take, and the verdicts (R273, R524). -/
structure ReqIn where
  mbox : Nat
  stage : Nat
  seq : Nat
  rsv : Nat
  lenW : Nat
  block : List Word
  coll : Bool
  ver : Verdict
deriving DecidableEq, Repr, Inhabited

/-- Names one command of a queue: context, queue, entry count, command index. -/
structure CmdRef where
  ctx : Nat
  queue : Nat
  entry : Nat
  cmd : Nat
deriving DecidableEq, Repr, Inhabited

/-- A fault message (R448), with the first object handle the command index that Newel finds for its
error queue entry (R461), and what the raising unit holds for a context's fault record (R80, R126, R150). -/
structure FaultMsg where
  source : Nat
  kind : Nat
  unit : Nat
  ctx : Nat
  queue : Nat
  arg : Nat
  addr : Nat
  cmd : Nat
  obj : Nat
  extra : List Nat
deriving DecidableEq, Repr, Inhabited

/-- A transport frame from a ring client, after the Ethernet layer: the port it arrived on, the sender's
MAC address, whether MACsec protected it with its packet number, whether its FCS, ICV, header form and seal
tag hold, the header fields of R396, and the payload bytes. (DESIGN CHOICE: log entry 5). -/
structure FrameIn where
  port : Nat
  mac : Nat
  protect : Bool
  fcsOk : Bool
  icvOk : Bool
  pn : Nat
  hdrOk : Bool
  tagOk : Bool
  isSealed : Bool
  retx : Bool
  ts : Nat
  mbx : Nat
  stage : Nat
  xseq : Nat
  xack : Nat
  epoch : Nat
  sealSeq : Nat
  payload : List Byte
deriving DecidableEq, Repr, Inhabited

/-- A transport frame for another node: as a FrameIn up to its header, whether its type is one that MACSEC_REQ
excepts, HOPS, destination, whether it is a PROXY frame, whether its egress queue is full, its bytes (R385,
R387, R390). -/
structure TransitIn where
  port : Nat
  protect : Bool
  fcsOk : Bool
  icvOk : Bool
  pn : Nat
  hdrOk : Bool
  exempt : Bool
  hops : Nat
  dest : Nat
  proxy : Bool
  full : Bool
  bytes : List Byte
deriving DecidableEq, Repr, Inhabited

/-- The threads that a shader instruction runs for: a core, a resident block of it, an original group of the
block, a subset of the group (R141). -/
structure ThreadsAt where
  core : Nat
  blk : Nat
  grp : Nat
  sub : Nat
deriving DecidableEq, Repr, Inhabited

/-- Shader arithmetic (R111, R112, R114, R116): FP32 operations, packed FP16 operations, conversions (between FP32, FP16 and
the integer formats by their codes; a target of `widen` is 0 FP32, 1 FP16, else INT32; into and out of blocks of BS8 or
BS4, of 32 or 16 elements, FP16 or FP32), dot products of 8-bit elements (signedness of each operand), the approximate
functions. -/
inductive ArithOp where
  | add | sub | mul | fma | div | sqrt | min | max | lt | eq | ne | le
  | addH | subH | mulH | fmaH | divH | sqrtH | minH | maxH
  | toInt (code : Nat) | ofInt | toHalf | ofHalf
  | halfToInt (code : Nat) | intToHalf | widen (code dst : Nat) | narrow (src code : Nat)
  | toBlock (b8 blk32 half : Bool) | ofBlock (b8 blk32 half : Bool)
  | dot (sa sb : Bool)
  | recip | rsqrt | exp | log | sin | cos
deriving DecidableEq, Repr, Inhabited

/-- Operations of ATOMIC (R174, R181). -/
inductive AtomOp where
  | add | min | max | and | or | xor | exch | cas
deriving DecidableEq, Repr, Inhabited

/-- What an axis presents to a loop tick: a BiSS-C position with whether it arrived complete, with a good CRC and
nERR = 1, whether nWARN is 0, and the drive's response frame: CRC good, SEQ, READY, FAULT (R421, R423). -/
structure AxisIn where
  pos : Int
  ok : Bool
  warn : Bool
  crcOk : Bool
  seq : Nat
  ready : Bool
  fault : Bool
deriving DecidableEq, Repr, Inhabited

/-- A shaded fragment: pixel, depth and colour as FP32 words, and its primitive's number in the pass's index list (R211,
R219). The programs that shade it are not specified. -/
structure Fragment where
  x : Nat
  y : Nat
  z : Nat
  r : Nat
  g : Nat
  b : Nat
  a : Nat
  prim : Nat
deriving DecidableEq, Repr, Inhabited

/-- Stored bits that have changed: in the ciphertext of HBM or in the SRAM of a Mezzanine slice, the physical address of
the 64 B flit and the bits that changed, as the bytes to XOR over the flit (R188, R189).
(DESIGN CHOICE: log entry 94). -/
structure Upset where
  hbm : Bool
  addr : Nat
  flips : List Byte
deriving DecidableEq, Repr, Inhabited

/-- What a scrub finds: corrected and uncorrectable errors with their places, and stored bits that have changed (R190, R191). -/
structure Found where
  errs : List (Nat × Nat × Bool)
  ups : List Upset
deriving DecidableEq, Repr, Inhabited

/-- What a house band's Hall run leaves: corrected errors, the LAYER_TAG of its last descriptor, the ranges of Hall store it
read and wrote (R43, R80, R94, R101). -/
structure BandRun where
  corr : Nat
  tag : Nat
  reads : List (Nat × Nat)
  writes : List (Nat × Nat)
deriving DecidableEq, Repr, Inhabited

/-- A band's shader stages: the band, and the record of a NaN trap in them, empty where none is taken (R42, R128). -/
structure BandStage where
  band : Nat
  nan : List Nat
deriving DecidableEq, Repr, Inhabited

/-- A service opportunity of the Newel pair: what the request's cryptography gives, how many of its comparisons disagreed,
and which member of the pair is odd (R23, R270). -/
structure Service where
  verdict : Verdict
  mismatches : Nat
  odd : Nat
deriving DecidableEq, Repr, Inhabited

/-- The commands: one constructor for every row of the table, the rows without operands last. -/
inductive Instr where
  /-- INFO_GET (R12). Request that returns the ordering code, silicon revision, Dynov and interface versions, timetable image, incarnation and lost-event count. -/
  | infoGet (r : ReqIn)
  /-- SESSION_OPEN (R361). Flight that checks the open block, unwraps the session secret, derives the keys and makes the context ACTIVE. -/
  | sessionOpen (r : ReqIn)
  /-- SESSION_CLOSE (R366). Request that ends the requester's session, which starts teardown of its context. -/
  | sessionClose (r : ReqIn)
  /-- SESSION_REKEY (R365). One-tread request that moves the session to the next key epoch. -/
  | sessionRekey (r : ReqIn)
  /-- ATTEST (R368). Flight that samples the part state and signs an attestation report carrying the requester's nonce. -/
  | attest (r : ReqIn)
  /-- OPERATOR_ENROL (R372). Flight that enrols an operator key while none is enrolled and makes the enrolling session the operator session. -/
  | operatorEnrol (r : ReqIn)
  /-- OPERATOR_RELEASE (R372). Flight that clears OPERATOR_DIGEST, from the operator session or with a signed release statement. -/
  | operatorRelease (r : ReqIn)
  /-- SECCFG_SET (R372). Flight that changes MACSEC_REQ, IF_RANGE or ETHERTYPE of the security configuration while every tenant context is FREE. -/
  | seccfgSet (r : ReqIn)
  /-- FW_STAGE (R375). Request that writes a chunk of a new firmware image into Newel's staging area. -/
  | fwStage (r : ReqIn)
  /-- FW_COMMIT (R375). Flight that checks the staged image, erases the firmware area, programs it and verifies it. -/
  | fwCommit (r : ReqIn)
  /-- SVN_RAISE (R375). Flight that blows fuses to raise MIN_SVN to the SVN of the running image. -/
  | svnRaise (r : ReqIn)
  /-- MACSEC_CAK_SET (R389). Request that installs the pre-shared MKA CAK of a ring port. -/
  | macsecCakSet (r : ReqIn)
  /-- CTX_CREATE (R293). Flight that creates a tenant or system context in CREATED with its quotas, key pair and incarnation number. -/
  | ctxCreate (r : ReqIn)
  /-- CTX_DESTROY (R322). Request that starts teardown of a context. -/
  | ctxDestroy (r : ReqIn)
  /-- CTX_NUMERIC (R125). Request that enables or disables the requester's NaN trap. -/
  | ctxNumeric (r : ReqIn)
  /-- CTX_FAULT_READ (R527). Request that returns, and optionally clears, one of the context's fault records. -/
  | ctxFaultRead (r : ReqIn)
  /-- MEM_ALLOC (R295). Flight that takes frames from the free pool, zeroes them under the owner's key and returns a new handle. -/
  | memAlloc (r : ReqIn)
  /-- MEM_MAP (R296). Flight that maps a page-aligned range of an owned or granted object with R, W or X attributes. -/
  | memMap (r : ReqIn)
  /-- MEM_UNMAP (R296). Flight that removes every mapped page in a range, splitting partly covered mappings. -/
  | memUnmap (r : ReqIn)
  /-- MEM_FREE (R298). Request that makes a handle stale and puts the object in FREEING until its last reference drops. -/
  | memFree (r : ReqIn)
  /-- MEM_GRANT (R297). Request by which an owner grants R or R and W access to an object to another context. -/
  | memGrant (r : ReqIn)
  /-- MEM_REVOKE (R297). Flight that ends a grant and removes the grantee's mappings. -/
  | memRevoke (r : ReqIn)
  /-- SYS_GRANT (R297). Flight by which the operator grants a house frame ring or the pose ring read-only to a context. -/
  | sysGrant (r : ReqIn)
  /-- BIN_DONATE (R214). Flight that moves the frames of an operator object into the grow reserve after zeroing them. -/
  | binDonate (r : ReqIn)
  /-- BIN_POOL_SET (R214). Request that moves pages between the grow reserve and a context's bin pool. -/
  | binPoolSet (r : ReqIn)
  /-- ERRQ_SET (R461). Request that names or unsets the memory object of the global error queue. -/
  | errqSet (r : ReqIn)
  /-- TLM_SET (R471). Request that names or unsets the memory object of the telemetry log. -/
  | tlmSet (r : ReqIn)
  /-- DS_RETAIN (R482). Request that names the operator objects to be retained through Deep Sleep. -/
  | dsRetain (r : ReqIn)
  /-- QUEUE_CREATE (R299). Request that creates a queue on the lowest free identity with its ring, status record and wait limit. -/
  | queueCreate (r : ReqIn)
  /-- QUEUE_DESTROY (R320). Flight that sets a queue DESTROYING, stops dispatch and sends an abort to every engine holding its work. -/
  | queueDestroy (r : ReqIn)
  /-- QUEUE_RESET (R319). Request that discards a FAULTED queue's undispatched commands and returns it to ACTIVE. -/
  | queueReset (r : ReqIn)
  /-- FENCE_CREATE (R313). Request that creates a fence with an initial VALUE and STATUS OK. -/
  | fenceCreate (r : ReqIn)
  /-- FENCE_DESTROY (R315). Request that frees a fence slot and its imports unless an accepted command names it. -/
  | fenceDestroy (r : ReqIn)
  /-- FENCE_SET (R313). Request that raises a fence VALUE from the ring. -/
  | fenceSet (r : ReqIn)
  /-- FENCE_CLEAR (R314). Request by which the owner returns a fence STATUS to OK. -/
  | fenceClear (r : ReqIn)
  /-- FENCE_EXPORT (R315). Request that exports a fence to a grantee with WAIT or WAIT and SIGNAL rights. -/
  | fenceExport (r : ReqIn)
  /-- FENCE_IMPORT (R315). Request by which a grantee makes an exported fence usable. -/
  | fenceImport (r : ReqIn)
  /-- FENCE_QUERY (R313). Request that returns a fence's VALUE and STATUS. -/
  | fenceQuery (r : ReqIn)
  /-- SEQ_BATCH_CREATE (R96). Flight that creates a sequence batch in a free batch slot bound to the context and a Hall. -/
  | seqBatchCreate (r : ReqIn)
  /-- SEQ_BATCH_DESTROY (R98). Request that destroys a batch and cancels its waiting joins and leaves. -/
  | seqBatchDestroy (r : ReqIn)
  /-- CMP_SLOT_ALLOC (R248). Request that assigns the lowest free compression state slot to the context in state EMPTY. -/
  | cmpSlotAlloc (r : ReqIn)
  /-- CMP_SLOT_FREE (R261). Request that makes a compression slot unavailable at once and frees it after its last queued job. -/
  | cmpSlotFree (r : ReqIn)
  /-- HOUSE_CONFIG (R34). Flight that checks the stream descriptors and schedule image and reserves the house bay pool. -/
  | houseConfig (r : ReqIn)
  /-- HOUSE_START (R494). Request that starts the house pipeline at the first frame boundary after the reply. -/
  | houseStart (r : ReqIn)
  /-- HOUSE_STOP (R527). Flight that stops the house pipeline within one frame, driving FSYNC low. -/
  | houseStop (r : ReqIn)
  /-- TEST_MODE (R494). Request that sets the service mode to test while the house pipeline is stopped. -/
  | testMode (r : ReqIn)
  /-- SET_NUM_MODE (R122). Request that sets SUBN_KEEP outside normal service. -/
  | setNumMode (r : ReqIn)
  /-- TT_LOAD (R333). Flight that reads a timetable image, applies admission and stores it as pending. -/
  | ttLoad (r : ReqIn)
  /-- SCHED_LOAD (R337). Flight that checks a context's schedule image and computes the occupancy of every declared task. -/
  | schedLoad (r : ReqIn)
  /-- FEED_BIND (R228). Flight that binds or unbinds an output feed with its owner, window and layer regions. -/
  | feedBind (r : ReqIn)
  /-- FEED_CODE (R256). Flight that starts coding a bound feed to a ring or NVMe sink on the coder with most spare time. -/
  | feedCode (r : ReqIn)
  /-- RAS_BAYS_SET (R213). Request that sets a context's raster bay grant. -/
  | rasBaysSet (r : ReqIn)
  /-- OB_CONFIG (R408). Flight that sets the Outbound Port mode to OFF, NVME or RAW and names the device owner. -/
  | obConfig (r : ReqIn)
  /-- OB_WINDOW_GRANT (R409). Request that creates a WINDOW object onto a device BAR range in a context. -/
  | obWindowGrant (r : ReqIn)
  /-- NVME_READ (R413). Flight that reads recorded LBAs from an NVMe namespace into operator memory. -/
  | nvmeRead (r : ReqIn) (good : Bool) (data : List Byte)
  /-- AXIS_ENABLE (R428). Request that checks the axis records and moves the named axes from OFF to ENABLING. -/
  | axisEnable (r : ReqIn)
  /-- AXIS_DISABLE (R428). Request that safe-stops the named axes with cause REQUEST. -/
  | axisDisable (r : ReqIn)
  /-- AXIS_CLEAR (R428). Request that returns STOPPED axes to OFF once no limit or drive fault remains. -/
  | axisClear (r : ReqIn)
  /-- AXIS_MOVE (R429). Request that gives new targets to the named axes, taken at the next tick. -/
  | axisMove (r : ReqIn)
  /-- AXIS_MODE (R428). Request that sets AX4 and AX5 to HOST or AUTO mode. -/
  | axisMode (r : ReqIn)
  /-- HEAT_CONFIG (R437). Request that sets one heater channel's parameters from the next loop period. -/
  | heatConfig (r : ReqIn)
  /-- EXPOSURE_SET (R436). Request that selects automatic or manual exposure and sets the manual gain. -/
  | exposureSet (r : ReqIn)
  /-- OB_OWNER_ACCEPT (R409). Request by which a context accepts or withdraws the device owner role in RAW mode. -/
  | obOwnerAccept (r : ReqIn)
  /-- PWR_SET (R478). Flight that moves the part to Idle, Sleep, Deep Sleep or Off, or back to Run from Idle. -/
  | pwrSet (r : ReqIn)
  /-- PWR_VOTE (R484). Request that sets or withdraws operator votes for power domains. -/
  | pwrVote (r : ReqIn)
  /-- PART_RESET (R486). Request that resets the part 1 ms after its reply unless a Grave source stands. -/
  | partReset (r : ReqIn)
  /-- BOOT_CFG_SET (R493). Flight that checks and writes the boot configuration record to flash. -/
  | bootCfgSet (r : ReqIn)
  /-- CAL_READ (R284). Request that returns records of one layer of a calibration table. -/
  | calRead (r : ReqIn)
  /-- CAL_WRITE (R287). Flight that writes a new user calibration image into the other half and commits it. -/
  | calWrite (r : ReqIn)
  /-- RESTORE_FACTORY (R287). Flight that writes an empty user image and commits it so the factory layer alone is in force. -/
  | restoreFactory (r : ReqIn)
  /-- FAULT_CLEAR (R455). Request that zeroes the counts of one or all counting sources and lowers those below Grave to Notice. -/
  | faultClear (r : ReqIn)
  /-- MAP_READ (R527). Request that returns a Hall line map or an HBM remap table. -/
  | mapRead (r : ReqIn)
  /-- MX_LIST (R66). Command that places a descriptor list in a context's compute or load queue on a Hall. -/
  | mxList (q entry cmd : Nat) (after : Bool) (compVa hall : Nat) (load : Bool) (list cw : Nat)
  /-- LAUNCH (R134). Command that checks a program object and launch descriptor and starts a shader launch. -/
  | launch (q entry cmd : Nat) (after : Bool) (compVa va : Nat) (ind : List (Option Nat))
  /-- PASS (R209). Command that checks a pass descriptor, chooses its mode and starts the raster pass. -/
  | pass (q entry cmd : Nat) (after : Bool) (compVa va : Nat) (ind : List (Option Nat))
  /-- PRESENT (R230). Command that submits a graphics layer to a feed the issuing context owns. -/
  | present (q entry cmd : Nat) (after : Bool) (compVa va : Nat)
  /-- ENCODE (R249). Command that submits a compression ENCODE job. -/
  | encode (q entry cmd : Nat) (after : Bool) (compVa va : Nat)
  /-- DECODE (R249). Command that submits a compression DECODE job. -/
  | decode (q entry cmd : Nat) (after : Bool) (compVa va : Nat)
  /-- XFER (R410). Command that moves bytes between a WINDOW mapping and an ordinary mapping over PCIe. -/
  | xfer (q entry cmd : Nat) (after : Bool) (compVa src dst bytes : Nat) (ind : List (Option Nat))
  /-- SEQ_STEP (R99). Command that runs a compute list over a batch's active sequences. -/
  | seqStep (q entry cmd : Nat) (after : Bool) (compVa batch list cw : Nat)
  /-- SEQ_JOIN (R97). Command that places a join request in a batch until the next step boundary. -/
  | seqJoin (q entry cmd : Nat) (after : Bool) (compVa batch seq : Nat)
  /-- SEQ_LEAVE (R97). Command that places a leave request in a batch until the next step boundary. -/
  | seqLeave (q entry cmd : Nat) (after : Bool) (compVa batch seq : Nat)
  /-- FENCE_WAIT (R313). Command that holds its queue's dispatch until a fence reaches a value or errors. -/
  | fenceWait (q entry cmd : Nat) (after : Bool) (compVa fence : Nat) (ignoreErr : Bool) (value : Nat)
  /-- FENCE_SIGNAL (R313). Command that raises a fence VALUE once every earlier command of its queue has completed. -/
  | fenceSignal (q entry cmd : Nat) (after : Bool) (compVa fence value : Nat)
  /-- MX_ISSUE (R85). Collective instruction that copies a descriptor over the Hall link and returns a token. -/
  | mxIssue (p : ThreadsAt) (w : DWord)
  /-- MX_WAIT (R87). Instruction that blocks the group until the token's descriptor completes and frees the slot. -/
  | mxWait (p : ThreadsAt) (w : DWord)
  /-- MX_TEST (R87). Instruction that returns a token's completion word or PENDING. -/
  | mxTest (p : ThreadsAt) (w : DWord)
  /-- CR_OPEN (R147). Instruction that opens a collective region once every live thread of the original group arrives. -/
  | crOpen (p : ThreadsAt) (w : DWord)
  /-- CR_CLOSE (R149). Instruction that closes the collective region once every member has executed it. -/
  | crClose (p : ThreadsAt) (w : DWord)
  /-- BAR_SYNC (R153). Instruction that arrives at a block barrier and waits for the phase to complete. -/
  | barSync (p : ThreadsAt) (w : DWord)
  /-- BAR_ARRIVE (R153). Instruction that arrives at a block barrier without waiting. -/
  | barArrive (p : ThreadsAt) (w : DWord)
  /-- FENCE (R180). Instruction that orders memory at group, block, device or system scope. -/
  | fence (p : ThreadsAt) (w : DWord)
  /-- SHUFFLE (R148). Collective instruction by which each member reads a named lane's register. -/
  | shuffle (p : ThreadsAt) (dst src sel : Nat)
  /-- VOTE (R148). Collective instruction whose result is formed over the region's members. -/
  | vote (p : ThreadsAt) (dst src kind : Nat)
  /-- BRANCH (R142). Branch that splits a group into subsets, counts backward branches and reaches join points. -/
  | branch (p : ThreadsAt) (targets : List (Nat × Nat)) (joins : List Nat)
  /-- END_INSTRUCTION (R142). Instruction that ends a thread, and with the last thread and descriptor completes the launch. -/
  | endInstruction (p : ThreadsAt)
  /-- ATOMIC (R174). Atomic operation on device memory performed in the Mezzanine slice that holds the line. -/
  | atomic (p : ThreadsAt) (op : AtomOp) (wide loc : Bool) (dst addr src cmp : Nat)
  /-- SHADER_LOAD (R178). Shader load through the core data cache, the Mezzanine or a window. -/
  | shaderLoad (p : ThreadsAt) (dst addr n : Nat) (loc : Bool)
  /-- SHADER_STORE (R182). Shader store that writes back and allocates in the core data cache or goes to the Mezzanine or a window. -/
  | shaderStore (p : ThreadsAt) (addr src n : Nat) (loc : Bool)
  /-- TEXTURE_FETCH (R203). Filtered texture fetch through the texture cache, decoding compressed blocks. -/
  | textureFetch (p : ThreadsAt) (dst surf cx cy lev filter modeX modeY : Nat)
  /-- ARITHMETIC_INSTRUCTION (R111). FP, dot-product or conversion instruction, rounded by the rules of the number formats chapter. -/
  | arithmeticInstruction (p : ThreadsAt) (op : ArithOp) (dst a b c : Nat)
  /-- HELLO (R398). Frame that opens an unbound transport session. -/
  | hello (f : FrameIn)
  /-- ACK (R399). Frame that acknowledges sequenced frames by its XACK. -/
  | ack (f : FrameIn)
  /-- KEEPALIVE (R366). Sealed frame that keeps a full session alive. -/
  | keepalive (f : FrameIn)
  /-- CLOSE (R398). Frame that ends a transport session and dissolves or ends its binding. -/
  | close (f : FrameIn)
  /-- OPEN (R359). Frame that binds a transport session provisionally and writes a SESSION_OPEN or enrol word. -/
  | openFrame (f : FrameIn)
  /-- REQ (R401). Frame that writes a request word to a mailbox and its parameter block to a staging entry. -/
  | req (f : FrameIn)
  /-- DOORBELL (R269). Frame that writes a doorbell word into the bound context's doorbell mailbox. -/
  | doorbell (f : FrameIn)
  /-- MEM_WRITE (R402). Frame that writes host-visible memory of the bound context. -/
  | memWrite (f : FrameIn)
  /-- MEM_READ (R402). Frame that reads host-visible memory and returns MEM_DATA. -/
  | memRead (f : FrameIn)
  /-- REG_READ (R403). Operator frame that reads up to 64 window registers and returns REG_DATA. -/
  | regRead (f : FrameIn)
  /-- REG_WRITE (R403). Operator frame that writes up to 64 window registers. -/
  | regWrite (f : FrameIn)
  /-- GET_IDENTITY (R355). Frame that returns the certificate chain and session key statement in IDENTITY. -/
  | getIdentity (f : FrameIn)
  /-- RECOV_BEGIN (R406). Recovery frame that claims the recovery and gives the image length. -/
  | recovBegin (f : FrameIn)
  /-- RECOV_DATA (R406). Recovery frame that carries a chunk of the image at an offset. -/
  | recovData (f : FrameIn)
  /-- RECOV_END (R406). Recovery frame that asks the ROM loader to check and program the image. -/
  | recovEnd (ver : Verdict) (f : FrameIn)
  /-- CSI_STAT_CLEAR (R59). W1C write that clears error bits of a CSI receiver status register. -/
  | csiStatClear (n : Nat) (v : Word)
  /-- NUM_STAT_CLEAR (R123). W1C write that clears NUM_STAT.FLUSHED. -/
  | numStatClear (v : Word)
  /-- MBX_STAT_CLEAR (R290). W1C write that clears MBX_STAT.COLL_ANY. -/
  | mbxStatClear (v : Word)
  /-- MBX_SEL_WRITE (R291). Write that selects the mailbox reported by MBX_INFO. -/
  | mbxSelWrite (v : Word)
  /-- CTX_SEL_WRITE (R325). Write that selects the context reported by CTX_INFO. -/
  | ctxSelWrite (v : Word)
  /-- Q_SEL_WRITE (R326). Write that selects the queue reported by Q_INFO. -/
  | qSelWrite (v : Word)
  /-- RING_CFG_WRITE (R414). Write that sets DS_BYPASS, whether BYP_HOLD is released in Deep Sleep. -/
  | ringCfgWrite (v : Word)
  /-- FIRST_SRC_CLEAR (R457). W1C write to FIRST_SRC.VALID that clears FIRST_SRC and FIRST_ADDR. -/
  | firstSrcClear (w : Word)
  /-- ERRQ_RPTR_WRITE (R462). Write that advances or rewinds the error queue read pointer within the permitted range. -/
  | errqRptrWrite (v : Word)
  /-- REGISTER_WRITE_OTHER (R6). Write to a register or unmapped offset with no behaviour of its own, ignored or applied by its access code. -/
  | registerWriteOther (off : Nat) (v : Word)
  /-- HALL_RUN_START (R331). A context's slot or Hall window begins and the Hall starts a run of its compute or load queue. -/
  | hallRunStart (h corr : Nat) (bad : List (Nat × Nat))
  /-- DESCRIPTOR_START (R71). The Hall takes the next descriptor of a queue, checks it and starts it or rejects it. -/
  | descriptorStart (h : Nat)
  /-- DESCRIPTOR_COMPLETE (R88). A Hall descriptor's last results are written and its completion word is recorded. -/
  | descriptorComplete (h : Nat)
  /-- HALL_SLOT_END (R69). At the last Hall cycle of a slot the input stage stops and the running descriptor suspends. -/
  | hallSlotEnd (h passes : Nat)
  /-- CSI_LONG_PACKET (R37). A line packet arrives at Intake and is checked, conditioned, repaired and deposited into bays. -/
  | csiLongPacket (port vc dt hdr : Nat) (crcOk : Bool) (px : List Nat) (t : Nat)
  /-- CSI_FRAME_START (R40). A Frame Start short packet opens a frame, closing an unterminated previous one. -/
  | csiFrameStart (port vc fnum hdr : Nat)
  /-- CSI_FRAME_END (R40). A Frame End short packet closes a frame, filling missing lines and checking timing. -/
  | csiFrameEnd (port vc hdr t : Nat)
  /-- CSI_LINE_START (R40). A Line Start short packet reveals a gap that is filled as missing lines. -/
  | csiLineStart (port vc line hdr t : Nat)
  /-- SENS_LOSS (R40). No Frame Start arrives within 1.5 frame periods and the frame is lost. -/
  | sensLoss (st : Nat)
  /-- HOUSE_BAND_HALL_DONE (R42). A house band's Hall work ends and the band passes to the shader stage. -/
  | houseBandHallDone (h fault m n : Nat) (run : BandRun)
  /-- HOUSE_SHADER_STAGE_DONE (R42). A band's classical shader stages end and it passes to the colour stage. -/
  | houseShaderStageDone (st frame col row : Nat) (stage : BandStage)
  /-- BASE_VERSION_COMPLETE (R44). A tile's base version is complete in its output bay with BCHK computed. -/
  | baseVersionComplete (st frame col row : Nat) (ichkOk : Bool)
  /-- TILE_SEALED (R45). A tile's network version is complete and its NCHK is sealed. -/
  | tileSealed (st frame col row : Nat)
  /-- COMPOSITE_START (R223). The composite unit starts a feed tile, extrapolating the row pose if it has not arrived. -/
  | compositeStart (feed tseq : Nat)
  /-- COMPOSITE_COMPLETE (R234). A composite completes, FCHK is computed and the feed tile map entry is written. -/
  | compositeComplete (feed tseq : Nat) (chkOk : Bool)
  /-- COMPOSITE_WINDOW_END (R233). A tile's composite window ends and unfinished composites are abandoned as LAYER_LATE. -/
  | compositeWindowEnd (tseq : Nat)
  /-- RASTER_SLOT_START (R211). A context's raster slot begins and its pass resumes in the back end. -/
  | rasterSlotStart (verts : List (Nat × Nat × Nat)) (clipped : List Nat) (back : List Fragment)
  /-- GROW_WAIT_EXPIRY (R217). A binning stall lasts GROW_WAIT_US and a partial resolve starts. -/
  | growWaitExpiry (ctx : Nat)
  /-- PARTIAL_RESOLVE_DONE (R217). A partial resolve ends, the pass's pages are freed and binning resumes. -/
  | partialResolveDone (ctx : Nat) (frags : List Fragment)
  /-- PASS_COMPLETE (R221). A pass's final resolve or last commit is written and it completes as a fence signal. -/
  | passComplete (ctx code core va : Nat) (extra : List Nat) (frags : List Fragment)
  /-- COMPRESSION_JOB_START (R249). A job reaches a coder, is checked and restores or resets its stream. -/
  | compressionJobStart (coder : Nat)
  /-- CODER_BLOCK_BOUNDARY (R247). A coder finishes a block and serves a ready feed tile, the job's next block, a stop or an abort. -/
  | coderBlockBoundary (coder : Nat) (ecc chkOk : Bool)
  /-- COMPRESSION_SLOT_END (R249). A context's compression slot ends and its job saves its stream and suspends. -/
  | compressionSlotEnd (coder : Nat)
  /-- FEED_TILE_CODED (R259). A feed tile's coding completes into the coded ring, late if beyond 64 tile cycles. -/
  | feedTileCoded (feed : Nat) (chkOk crcOk : Bool)
  /-- BLOCK_START (R137). The Concourse places the next block of a launch on a core that has room. -/
  | blockStart (launch : Nat)
  /-- SHADER_SLOT_END (R159). A shader slot ends and the core stops, drains, writes back and saves its blocks. -/
  | shaderSlotEnd (core : Nat)
  /-- SHADER_SAVE_DONE (R160). A core's save of its resident blocks completes. -/
  | shaderSaveDone (core : Nat)
  /-- SHADER_SLOT_START (R160). A shader slot begins and the core restores the context's saved state. -/
  | shaderSlotStart (core : Nat)
  /-- COLLECTIVE_TIMEOUT (R151). A collective point waits 1,048,576 running shader cycles and faults the group. -/
  | collectiveTimeout (p : ThreadsAt)
  /-- DOORBELL_TAKE (R303). The Concourse takes a doorbell and accepts the submit entries it names. -/
  | doorbellTake (mbx : Nat)
  /-- WAIT_LIMIT_EXPIRY (R317). A wait or command reaches WAIT_MS and completes with WAIT_TIMEOUT. -/
  | waitLimitExpiry (r : CmdRef)
  /-- ENGINE_QUIESCENT (R321). An engine reports quiescence after an abort, and the last report ends the destroy. -/
  | engineQuiescent (q unit : Nat)
  /-- NEWEL_SERVICE_OPPORTUNITY (R277). Newel takes the next ready mailbox or flight tread in class rotation and runs one tread. -/
  | newelServiceOpportunity (v : Service)
  /-- OUTBOUND_SEND (R270). The Landing takes an outbound word and sends it in an OUTBOUND frame, refilling from the queue. -/
  | outboundSend (mbx : Nat)
  /-- QUIESCED (R529). Notice that a queue's last engine is quiescent, handled by Newel. -/
  | quiesced (queue : Nat)
  /-- QUEUE_STOPPED (R529). Notice that the fault steps of a queue are done. -/
  | queueStopped (queue code : Nat)
  /-- OBJ_UNREF (R529). Notice that a freed object's last reference dropped, which releases it. -/
  | objUnref (handle : Nat)
  /-- AXIS_STATE (R529). Notice of an axis state change and its cause. -/
  | axisState (axis st cause : Nat)
  /-- THROTTLE (R529). Notice of a new throttle level. -/
  | throttle (level : Nat)
  /-- ZEROED (R529). Notice that a context's region zeroing ended. -/
  | zeroed (hall ctx : Nat)
  /-- BATCH (R529). Notice that a batch join or leave completed or a join waits for state. -/
  | batch (hall batch seq code : Nat)
  /-- GROW_NOTICE (R275). Notice of a bin pool overflow, which enters the grow event into the operator queue. -/
  | growNotice (ctx pass : Nat)
  /-- BAY_FREED (R529). Notice that a context's raster bays were released. -/
  | bayFreed (ctx : Nat)
  /-- SLOT_FREED (R529). Notice that a compression slot was released. -/
  | slotFreed (slot : Nat)
  /-- KEEPALIVE_EXPIRY (R366). A session passes 2 s without a valid frame and its context is torn down. -/
  | keepaliveExpiry (ident : Nat)
  /-- LINK_UP (R384). A ring port reaches link up and starts forwarding, MKA and gPTP. -/
  | linkUp (port : Nat) (master : Bool) (sqi : Nat)
  /-- RING_LINK_DOWN (R386). A ring link goes down, raising RING_LINK, and own frames use the other port. -/
  | ringLinkDown (port : Nat)
  /-- GPTP_FRAME (R391). A gPTP frame is consumed for time synchronisation and relaying. -/
  | gptpFrame (port : Nat) (offset : Int) (hops interval master : Nat)
  /-- MKA_FRAME (R389). An MKA frame is consumed for MACsec key agreement and SAK rekey. -/
  | mkaFrame (port : Nat) (up sak : Bool)
  /-- TRANSIT_FRAME (R385). A transport frame for another node is forwarded out of the other port with HOPS decremented. -/
  | transitFrame (f : TransitIn)
  /-- XSEQ_RESEND (R399). The Landing resends unacknowledged frames 2 ms after the last send. -/
  | xseqResend (ts : Nat)
  /-- TRANSPORT_IDLE_TIMEOUT (R398). An unbound or provisional transport session idle for 10 s is closed. -/
  | transportIdleTimeout (ts : Nat)
  /-- TC10_SLEEP_REQUEST (R394). A partner's TC10 sleep request is acknowledged or rejected. -/
  | tc10SleepRequest (port : Nat)
  /-- TC10_WAKE (R394). A TC10 wake pattern on a port wakes the part from Sleep or Deep Sleep. -/
  | tc10Wake (port : Nat)
  /-- DEVICE_MEM_REQUEST (R409). A downstream device memory request is checked against the device owner's mappings. -/
  | deviceMemRequest (addr n : Nat) (write : Bool) (data : List Byte)
  /-- DEVICE_MSI (R409). A device MSI or MSI-X write reaches the device owner. -/
  | deviceMsi (vector : Nat)
  /-- READ_COMPLETION (R410). A PCIe read completion arrives and is delivered or discarded. -/
  | readCompletion (r : CmdRef) (off : Nat) (good : Bool) (data : List Byte)
  /-- CPL_TIMEOUT (R410). A read completion does not arrive within 10 ms. -/
  | cplTimeout (r : CmdRef) (off : Nat)
  /-- NVME_COMPLETION (R412). An NVMe command completes, with retry, pause or controller reset on failure. -/
  | nvmeCompletion (tag status : Nat) (data : List Byte)
  /-- NVME_TIMEOUT (R412). An NVMe command is not completed in 2 s, is aborted and the controller is reset. -/
  | nvmeTimeout (tag : Nat)
  /-- NVME_FEED_WRITE (R413). A 128 KiB write of a feed's coded ring is issued to its namespace extent. -/
  | nvmeFeedWrite (feed : Nat)
  /-- LOOP_TICK (R420). A 20 kHz position-loop tick latches encoders, computes trajectories and exchanges SPI frames. -/
  | loopTick (ins : List AxisIn) (armed : Bool)
  /-- LIMIT_INPUT (R426). A limit input becomes active after its filter and safe-stops a running axis. -/
  | limitInput (axis : Nat) (pos active : Bool)
  /-- DRIVE_READY_TIMEOUT (R428). An ENABLING axis sees no READY within 100 ms and goes to STOPPED. -/
  | driveReadyTimeout (axis : Nat)
  /-- BRAKE_TIME_ELAPSED (R428). BRAKE_MS elapses and the axis moves to RUN or to STOPPED or OFF. -/
  | brakeTimeElapsed (axis : Nat)
  /-- HEATER_PERIOD (R437). A heater channel's 100 ms period checks its reading and runs the predictive PI loop. -/
  | heaterPeriod (ch code : Nat) (readback : Bool)
  /-- COOLANT_SAMPLE (R441). The 10 ms coolant thermistor sample updates the throttle level. -/
  | coolantSample (inCode outCode : Nat)
  /-- JUNCTION_SAMPLE (R442). The 1 ms junction sample updates throttle and forces safe stop at 108 °C. -/
  | junctionSample (quarters : Int)
  /-- PLL_LOCK_LOST (R520). A PLL loses lock beyond its timeout, raising ISL_CLOCK or MC_CLOCK. -/
  | pllLockLost (pll : Nat)
  /-- FAULT_MESSAGE_ARRIVE (R451). The Fault Collector takes a fault message, counts it, sets its class and queues it. -/
  | faultMessageArrive (ms : List FaultMsg)
  /-- HBM_SCRUB (R191). Background scrub reads, checks and corrects a unit of HBM ciphertext. -/
  | hbmScrub (bytes lost made : Nat) (found : Found)
  /-- ARRAY_SCRUB (R191). Background scrub of on-die arrays and the Mezzanine. -/
  | arrayScrub (lost made : Nat) (found : Found)
  /-- HALL_ARRAY_TEST (R95). A Hall tests its array in the maintenance slot's house-free time. -/
  | hallArrayTest (h lost made : Nat) (failed : List (Bool × Nat))
  /-- SHADER_SELF_TEST (R347). Background self-test tread of a shader core. -/
  | shaderSelfTest (core : Nat) (pass : Bool) (lost made : Nat)
  /-- WEAR_SAMPLE (R463). A wear sample of an island's monitors raises faults or starts substitution. -/
  | wearSample (u slack drift days lost made : Nat)
  /-- ZEROING (R65). Background zeroing of regions and frames before reassignment. -/
  | zeroing (h lost made : Nat)
  /-- HBM_CALIBRATION (R347). Periodic calibration of an HBM pseudo-channel. -/
  | hbmCalibration (lost made : Nat)
  /-- TELEMETRY_SAMPLE (R349). A telemetry sample is taken in its tile cycle or recorded as skipped. -/
  | telemetrySample (kind unit a b c : Nat) (skipped : Bool)
  /-- FRAME_RETIRE (R193). An HBM frame is retired, copying a unit per tread to a spare frame. -/
  | frameRetire (ch : Nat)
  /-- LANE_REPAIR (R195). A faulty DQ lane is remapped by retraining the pseudo-channel in a maintenance tread. -/
  | laneRepair (ch lane : Nat)
  /-- SPARE_SUBSTITUTION (R464). A substitution tread moves a logical core, line or row onto a spare. -/
  | spareSubstitution (res unit : Nat) (spareOk : Bool)
  /-- RESET_N (R486). RESET_N held low resets the part, which starts at its rising edge. -/
  | resetN (low : Bool)
  /-- RESET_RELEASE (R490). RESET_N is high and every switched rail good, and the ROM loader starts. -/
  | resetRelease (imageOk : Bool)
  /-- DYNOV_START (R491). The image is valid and Dynov begins start-up. -/
  | dynovStart (facOk ok0 ok1 bootOk : Bool)
  /-- HBM_TRAINING_DONE (R492). HBM training ends or fails after its retry. -/
  | hbmTrainingDone (ok : Bool) (failed : Nat × Nat) (lanes : List (Nat × Nat))
  /-- SELF_TEST_DONE (R491). The start-up self-test ends and the house context is created and loaded. -/
  | selfTestDone (cores : List Nat) (lines rows : List (Nat × Nat))
  /-- DOMAIN_IDLE_TIMEOUT (R485). A domain has held no vote for 100 µs and starts powering down. -/
  | domainIdleTimeout (d : Nat)
  /-- DOMAIN_POWER_DOWN_DONE (R485). A domain's power-down completes and a waiting vote powers it up. -/
  | domainPowerDownDone (d : Nat)
  /-- DOMAIN_POWER_GOOD (R18). A domain reaches power-good and held crossing transactions proceed. -/
  | domainPowerGood (d : Nat)
  /-- SAMPLE_PRELOAD (R521). Test instruction that samples pins and loads the boundary register. -/
  | samplePreload (bs : List Bool)
  /-- HS_TRANSITION (R59). A CSI port's D-PHY clock or data lanes enter or leave high-speed mode, including ULPS, which updates HS, ACT_LANES, RATE_MBPS, SKEW_OK and the island's PLL_LOCK and FREQ_MHZ. -/
  | hsTransition (port : Nat) (clk data : Bool) (lanes rate : Nat)
  /-- SKEW_CALIBRATION (R59). A D-PHY skew calibration sequence arrives on a port and sets SKEW_OK until the next LP-to-HS transition of the clock lane. -/
  | skewCalibration (port : Nat)
  /-- OB_LINK_UP (R407). The PCIe link trains and comes up, setting OB_STAT.LINK, RATE and WIDTH and letting NVMe or RAW traffic start. -/
  | obLinkUp (rate width : Nat)
  /-- ENCODER_EDGE (R423). An edge on AXn_ENC_A, AXn_ENC_B or AXn_ENC_Z updates the quadrature counter, records a Z edge with its count, or marks the tick's sample missing on a simultaneous A and B change. -/
  | encoderEdge (axis : Nat) (dir : Int) (both z : Bool)
  /-- FSYNC_PULSE_TIMER (R36). FSYNC0 or FSYNC1 rises FSYNC_OFS ns after the frame boundary, plus the stream 1 stagger, and falls FSYNC_W µs later. -/
  | fsyncPulseTimer (st : Nat)
  /-- ATT_CNT_LO_READ (R379). Read of ATT_CNT_LO that latches the counter's high word for ATT_CNT_HI. -/
  | attCntLoRead
  /-- TILE_CYCLE_START (R15). A tile cycle begins on the Timebase, starting house slots, slot changes and frame-boundary work. -/
  | tileCycleStart
  /-- TILE_OUTPUT_SLOT (R47). A tile leaves at its output slot as its network version or as LATE. -/
  | tileOutputSlot
  /-- FRAME_STATS_ARRIVE (R56). The Motion Controller receives frame statistics and computes focus, iris and gain. -/
  | frameStatsArrive
  /-- T_M_ARRIVE (R222). The Motion Controller receives a row's mid-exposure time and prepares its row pose. -/
  | tMArrive
  /-- ROW_POSE_ARRIVE (R224). The Gallery receives a row pose and writes it into the pose ring. -/
  | rowPoseArrive
  /-- RASTER_SLOT_END (R219). A raster slot ends and the back end finishes returned fragments and stops issuing. -/
  | rasterSlotEnd
  /-- DISPATCH (R312). The Concourse dispatches one command of a queue, reading indirection words and prefetching. -/
  | dispatch
  /-- COMMAND_COMPLETE (R308). An engine completes a command and writes its completion record and queue status. -/
  | commandComplete
  /-- FLASH_OP_DONE (R287). A flash erase, program or read completes and the waiting flight becomes ready. -/
  | flashOpDone
  /-- RSA_OP_DONE (R370). A modular exponentiation completes and the waiting flight becomes ready. -/
  | rsaOpDone
  /-- SYNC_TIMEOUT (R393). Three sync intervals pass without Sync and the part enters holdover. -/
  | syncTimeout
  /-- RECOV_OWNER_TIMEOUT (R376). The recovery owner sends no frame for 10 s and loses ownership. -/
  | recovOwnerTimeout
  /-- WAKE_IN (R479). WAKE_IN held high for 4 always-on cycles wakes the part. -/
  | wakeIn
  /-- OB_LINK_DOWN (R410). The PCIe link goes down, failing XFERs with LINK_DOWN. -/
  | obLinkDown
  /-- FLOW_UPDATE (R441). The 100 ms flow update recomputes flow and the throttle level. -/
  | flowUpdate
  /-- THROTTLE_FALL_TIMEOUT (R441). A level's condition has failed for 5 s and the throttle level falls by one. -/
  | throttleFallTimeout
  /-- THERMAL_LOCKOUT_END (R442). Tj has stayed below 100 °C for 5 s and AXIS_ENABLE is allowed again. -/
  | thermalLockoutEnd
  /-- THERM_TRIP (R489). The hardware comparator trips at 112 °C and the part enters thermal shutdown. -/
  | thermTrip
  /-- NEWEL_HEARTBEAT_LOSS (R460). The Motion Controller finds no Newel heartbeat for 1 ms and safe-stops every axis. -/
  | newelHeartbeatLoss
  /-- FAULT_MESSAGE_HANDLE (R459). Newel handles one pending fault message in a fault tread, updating records and the error queue. -/
  | faultMessageHandle
  /-- POWER_ON_RESET (R486). The always-on supply rises through its threshold and the part starts cold. -/
  | powerOnReset
  /-- RAIL_FAIL (R504). A switched rail stays below its failed level for 2 µs and acts as RESET_N low. -/
  | railFail
  /-- FREE_RUN_TIMEOUT (R494). No grandmaster 1.2 s after start and FREE_RUN starts the house pipeline on free-running time. -/
  | freeRunTimeout
  /-- TRST_N (R521). TRST_N resets the test access port asynchronously. -/
  | trstN
  /-- EXTEST (R522). Test instruction that drives pins from the boundary register while RESET_N is low. -/
  | extest
  /-- IDCODE (R522). Test instruction that selects the identification register. -/
  | idcode
  /-- CLAMP (R522). Test instruction that drives pins from the register and selects bypass while RESET_N is low. -/
  | clamp
  /-- HIGHZ (R522). Test instruction that stops driving covered outputs while RESET_N is low. -/
  | highz
  /-- BYPASS (R521). Test instruction that selects the 1-bit bypass register. -/
  | bypass
  /-- FLOW_PULSE (R516). A filtered pulse on FLOW_IN is counted into the sliding one-second flow window. -/
  | flowPulse
  /-- ALWAYS_ON_SUPPLY_LOSS (R503). VDD_AON falls below 0.62 V, asserting power-on reset again, leaving the part unpowered and discarding any retained Deep Sleep set. -/
  | alwaysOnSupplyLoss
  /-- PART_RESET_TAKES_EFFECT (R486). 1 ms after the PART_RESET reply the part resets with start cause PART_RESET. -/
  | partResetTakesEffect
deriving DecidableEq, Repr

end Sys2Proof
end

