-- ==== Sys2Proof/Decode.lean ====
section
/-! DEFINITION. The commands that words spell. No row of spec/opcode_table.json gives bits: its commands reach the
part as mailbox words, frames, packets and pins, each in the form of its own rule. -/

namespace Sys2Proof

/-- The command of a table word: none of the rows has bits. (DESIGN CHOICE: log entry 3). -/
def decodeTableWord (_nbits _w : Nat) : Option Instr := none

end Sys2Proof
end

