-- ==== Sys2Proof/Config.lean ====
section
/-! DEFINITION. What one part fixes and the specification leaves open: the factory constants and the free
values. Each is opaque, with no body, so that no proof can rest on a value of it. -/

namespace Sys2Proof.Config

/-- MAC address assigned at manufacture (R380, R414). -/
opaque macAddr : BitVec 48
/-- Serial number carried by the identity certificate (R355). -/
opaque serial : BitVec 64
/-- The DER bytes of the three certificates, as the IDENTITY frame carries them (R355). -/
opaque certificates : List Byte
/-- Modulus of the session public key of a lifetime, by BOOT_COUNT (R357, R358). -/
opaque skeyMod : Nat → List Byte
/-- SHA-512 of a byte string: the manual names the function and does not define it (R355, R368).
(DESIGN CHOICE: log entry 6). -/
opaque sha512 : List Byte → List Byte
/-- RSASSA-PSS signature by the identity key over a byte string; the salt is random, so it is a free
value of the counter too (R355, R368). (DESIGN CHOICE: log entry 6). -/
opaque signature : Nat → List Byte → List Byte
/-- RSAES-OAEP decryption of WRAPPED: the 64-byte session secret (R361). (DESIGN CHOICE: log entry 6). -/
opaque unwrap : List Byte → List Byte
/-- A draw of Newel's random source: PART_NONCE (R361), by the free counter. (DESIGN CHOICE: log entry 6). -/
opaque randomBytes : Nat → Nat → List Byte
/-- A free 16-bit value: the SESSION value a HELLO gets is chosen at random among the free ones (R398).
(DESIGN CHOICE: log entry 6). -/
opaque randomNat : Nat → Nat
/-- Which of the results within 2 ulp an approximate function returns (R111): function code and operand; the result is
a function of the operand alone (R130). -/
opaque approx : Nat → BitVec 32 → BitVec 32
/-- A value that the specification leaves undefined where the part goes on, by the free counter.
(DESIGN CHOICE: log entry 6). -/
opaque freeWord : Nat → BitVec 32
/-- A byte that the specification leaves undefined, by the free counter. (DESIGN CHOICE: log entry 6). -/
opaque freeByte : Nat → BitVec 8
/-- Natural logarithm, base-2 logarithm, exponential and square root: named by formulas of spec/14 and
spec/02, whose internal precision the manual does not give. (DESIGN CHOICE: log entry 71). -/
opaque ln : Q → Q
/-- (DESIGN CHOICE: log entry 71). -/
opaque exp : Q → Q
/-- (DESIGN CHOICE: log entry 71). -/
opaque sqrt : Q → Q
/-- (DESIGN CHOICE: log entry 71). -/
opaque log2 : Q → Q
/-- The acceleration at the end of a loop tick that the time-optimal profile of R429 takes, from position, speed,
acceleration, target and limits: the manual gives the limits, not the arithmetic. (DESIGN CHOICE: log entry 71). -/
opaque profile : List Q → Q
/-- The ROM default records of a calibration table (R286): the manual does not list them. -/
opaque romCalibration : Nat → List (Nat × List (BitVec 32))
/-- A lossless coding of a block, its mode byte first, and a lossy one (R242, R243: the syntax of the payload is not
given): parameters, samples. -/
opaque losslessBlock : List Nat → List Byte → List Byte
opaque codedBlock : List Nat → List Byte → List Byte
/-- The samples that a coded payload decodes to (R242). -/
opaque decodedBlock : List Nat → List Byte → List Byte
/-- The samples of a tile's version, and the networks' measures, by what names them and the sample's index (weights are
data the manual does not give). -/
opaque networkPixel : Nat → Nat → BitVec 16
/-- What names a version: a function of the tile's conditioned input, and of which version it is, the colour phase, the
network set and the gain (R42, R56, R113): the arithmetic of the base path and the networks is not given.
(DESIGN CHOICE: log entry 15). -/
opaque versionOf : List Byte → List Nat → Nat
/-- The shader stages of a house schedule image, by its bytes, fit SC0 to SC7 at the band rate (R58): the image's layout
has no record of them. (DESIGN CHOICE: log entry 68). -/
opaque stagesFit : List Byte → Bool
/-- NET_ID of a house schedule image by its handle, 0 for the reference image (R58: the identifier's value is
not given). -/
opaque netId : Nat → BitVec 32
/-- A namespace of the attached NVMe device has LBAs of 4,096 bytes, not of 512 (R412). -/
opaque lbaBig : Nat → Bool
/-- The hash from a line (physical address over 128) to its Mezzanine slice (ch.01: a slice holds the lines
whose physical addresses hash to it; the hash is not given). (DESIGN CHOICE: log entry 10). -/
opaque mzSlice : Nat → Nat
/-- The set, within its slice, of a line of the Mezzanine: the hash is not given (R172).
(DESIGN CHOICE: log entry 10). -/
opaque mzSet : Nat → Nat
/-- The 8 SECDED check bits of a 64-bit word, and the 4 B symbol code of 32 B of ciphertext: the codes' matrices are not
given (R188). (DESIGN CHOICE: log entry 94). -/
opaque secded : Nat → Nat
/-- (DESIGN CHOICE: log entry 94). -/
opaque symbols : List Byte → Nat
/-- AES-256-XTS of a 128 B line under a key pair with a tweak: the manual names the cipher and does not define it
(R175). (DESIGN CHOICE: log entry 94). -/
opaque aesXts : List Byte → Nat → List Byte → List Byte

end Sys2Proof.Config
end

