-- ==== Sys2Proof/Machine/Bits.lean ====
section
/-! DEFINITION. Bit fields, little-endian assembly, saturating counts, sparse tables with rising keys and
exact rational arithmetic: the helpers every unit of the model shares (spec/00, Notation; R4). -/

namespace Sys2Proof.Machine
open Sys2Proof

/-- The value of bits [hi:lo] of a word. -/
def bits {n : Nat} (w : BitVec n) (hi lo : Nat) : Nat := (w.toNat >>> lo) % 2 ^ (hi + 1 - lo)

/-- Bit `i` of a word. -/
def bit {n : Nat} (w : BitVec n) (i : Nat) : Bool := w.getLsbD i

/-- `v` placed at bit `lo` in a field of `width` bits. -/
def fld (lo width v : Nat) : Nat := (v % 2 ^ width) <<< lo

/-- A flag placed at bit `lo`. -/
def flg (lo : Nat) (b : Bool) : Nat := if b then 1 <<< lo else 0

/-- A 32-bit register made of disjoint fields. -/
def reg (fs : List Nat) : Word := BitVec.ofNat 32 (fs.foldl (· + ·) 0)

/-- A count that saturates at `cap`. -/
def sat (cap n : Nat) : Nat := if n < cap then n else cap

/-- A saturating increment. -/
def satInc (cap n : Nat) : Nat := sat cap (n + 1)

/-- The `n` little-endian bytes of a number. -/
def leBytes : Nat → Nat → List Byte
  | 0, _ => []
  | n + 1, v => BitVec.ofNat 8 v :: leBytes n (v / 256)

/-- The number that little-endian bytes spell. -/
def ofLe : List Byte → Nat
  | [] => 0
  | b :: bs => b.toNat + 256 * ofLe bs

/-- The bytes of a list of 32-bit words, little-endian. -/
def wordBytes (ws : List Word) : List Byte := ws.flatMap fun w => leBytes 4 w.toNat

/-- The 32-bit words of a list of bytes; a last part word is dropped. -/
def bytesWords : List Byte → List Word
  | a :: b :: c :: d :: r => BitVec.ofNat 32 (ofLe [a, b, c, d]) :: bytesWords r
  | _ => []

/-- Word `i` of a block, zero beyond its end. -/
def wd (ws : List Word) (i : Nat) : Word := ws.getD i 0

/-- The 64-bit little-endian field that starts at word `i`. -/
def dwd (ws : List Word) (i : Nat) : Nat := (wd ws i).toNat + (wd ws (i + 1)).toNat * 2 ^ 32

/-- The two words of a 64-bit value. -/
def lo32 (v : Nat) : Word := BitVec.ofNat 32 v
def hi32 (v : Nat) : Word := BitVec.ofNat 32 (v / 2 ^ 32)

/-- Every word of the list is zero. -/
def allZero (ws : List Word) : Bool := ws.all fun w => w == 0

/-- Replace element `i` of a list by `f` of it. -/
def upd {α : Type} (l : List α) (i : Nat) (f : α → α) : List α := l.modify i f

/-- The signed value of the low `n` bits of a number. -/
def sext (n v : Nat) : Int := if v % 2 ^ n < 2 ^ (n - 1) then (v % 2 ^ n : Nat) else (v % 2 ^ n : Nat) - (2 ^ n : Nat)

/-- Clamp an integer to a range. -/
def clampI (lo hi v : Int) : Int := if v < lo then lo else if hi < v then hi else v

/-- A rational in lowest terms. A zero denominator stands for zero. -/
def qMk (n : Int) (d : Nat) : Q :=
  if d = 0 then ⟨0, 1⟩ else ⟨n / (Nat.gcd n.natAbs d : Nat), d / Nat.gcd n.natAbs d⟩

def qInt (n : Int) : Q := ⟨n, 1⟩
def qAdd (a b : Q) : Q := qMk (a.n * b.d + b.n * a.d) (a.d * b.d)
def qNeg (a : Q) : Q := ⟨-a.n, a.d⟩
def qSub (a b : Q) : Q := qAdd a (qNeg b)
def qMul (a b : Q) : Q := qMk (a.n * b.n) (a.d * b.d)
def qInv (a : Q) : Q := if a.n < 0 then ⟨-(a.d : Int), a.n.natAbs⟩ else if a.n = 0 then ⟨0, 1⟩ else ⟨a.d, a.n.natAbs⟩
def qDiv (a b : Q) : Q := qMul a (qInv b)
def qLe (a b : Q) : Bool := decide (a.n * b.d ≤ b.n * a.d)
def qLt (a b : Q) : Bool := decide (a.n * b.d < b.n * a.d)
def qAbs (a : Q) : Q := ⟨a.n.natAbs, a.d⟩
def qMin (a b : Q) : Q := if qLe a b then a else b
def qMax (a b : Q) : Q := if qLe a b then b else a
def qClamp (lo hi a : Q) : Q := qMin (qMax a lo) hi
/-- The greatest integer not above the number. -/
def qFloor (a : Q) : Int := a.n.fdiv a.d
/-- The nearest integer, ties to even. -/
def qRound (a : Q) : Int :=
  let f := qFloor a
  let r := qSub a (qInt f)
  let half : Q := ⟨1, 2⟩
  if qLt r half then f else if qLt half r then f + 1 else if f % 2 = 0 then f else f + 1

/-- Look a key up in a sparse table. -/
def tget {α : Type} : List (Nat × α) → Nat → Option α
  | [], _ => none
  | (k, v) :: r, i => if k = i then some v else tget r i

/-- Look a key up, with a value for absent keys. -/
def tgetD {α : Type} (t : List (Nat × α)) (i : Nat) (d : α) : α := (tget t i).getD d

/-- Remove a key. -/
def tdel {α : Type} (t : List (Nat × α)) (i : Nat) : List (Nat × α) := t.filter fun p => p.1 != i

/-- Set a key, keeping the keys rising. -/
def tput {α : Type} : List (Nat × α) → Nat → α → List (Nat × α)
  | [], i, v => [(i, v)]
  | (k, w) :: r, i, v => if i < k then (i, v) :: (k, w) :: r else if i = k then (i, v) :: r else (k, w) :: tput r i v

/-- Change the value under a key where there is one. -/
def tmod {α : Type} (t : List (Nat × α)) (i : Nat) (f : α → α) : List (Nat × α) :=
  t.map fun p => if p.1 = i then (p.1, f p.2) else p

/-- Search upward from `i` for a number below `n` that is no key. -/
def tfreeGo {α : Type} (t : List (Nat × α)) (n : Nat) : Nat → Nat → Option Nat
  | 0, _ => none
  | fuel + 1, i => if i < n then (if (tget t i).isSome then tfreeGo t n fuel (i + 1) else some i) else none

/-- The lowest number below `n` that is no key of the table. (DESIGN CHOICE: log entry 24). -/
def tfree {α : Type} (t : List (Nat × α)) (n : Nat) : Option Nat := tfreeGo t n (t.length + 1) 0

/-- Insert an element into a list without repeats, keeping it sorted. -/
def sins (l : List Nat) (v : Nat) : List Nat :=
  match l with
  | [] => [v]
  | a :: r => if v < a then v :: a :: r else if v = a then a :: r else a :: sins r v

end Sys2Proof.Machine
end

