-- ==== Sys2Proof/Machine/Operands.lean ====
section
/-! DEFINITION. The number formats of spec/04: FP32 and FP16 arithmetic rounded once to nearest with ties to
even, subnormal flushing, the conversions of R114, the block-scaled formats of R106 to R108, the dot product
of R112. -/

namespace Sys2Proof.Machine
open Sys2Proof

/-- A binary floating format: exponent bits and fraction bits. -/
structure Fmt where
  eb : Nat
  mb : Nat
deriving DecidableEq, Repr

def fp32 : Fmt := ⟨8, 23⟩
def fp16 : Fmt := ⟨5, 10⟩

def fmtBias (f : Fmt) : Nat := 2 ^ (f.eb - 1) - 1
def fmtOnes (f : Fmt) : Nat := 2 ^ f.eb - 1
/-- Exponent of the unit in the last place of the smallest normal. -/
def fmtQmin (f : Fmt) : Int := 1 - (fmtBias f : Int) - f.mb
/-- The canonical quiet NaN (R105). -/
def fmtNan (f : Fmt) : Nat := fmtOnes f * 2 ^ f.mb + 2 ^ (f.mb - 1)
def fmtInf (f : Fmt) (neg : Bool) : Nat := (if neg then 2 ^ (f.eb + f.mb) else 0) + fmtOnes f * 2 ^ f.mb

/-- The value of a word: NaN, infinity, or a finite ± m × 2^e (m = 0: a signed zero). -/
inductive Fv where
  | nan
  | inf (neg : Bool)
  | fin (neg : Bool) (m : Nat) (e : Int)
deriving DecidableEq, Repr

/-- A result: the word, whether it is a NaN the operation produced (R124), whether a subnormal was flushed
(R118). -/
structure Fr where
  w : Nat
  nan : Bool
  flushed : Bool
deriving DecidableEq, Repr

/-- Read an operand; a subnormal is flushed unless it is kept (R118, R119). -/
def fDecode (f : Fmt) (keep : Bool) (w : Nat) : Fv × Bool :=
  let neg := w / 2 ^ (f.eb + f.mb) % 2 = 1
  let e := w / 2 ^ f.mb % 2 ^ f.eb
  let m := w % 2 ^ f.mb
  if e = fmtOnes f then (if m = 0 then .inf neg else .nan, false)
  else if e = 0 then
    if m = 0 then (.fin neg 0 0, false)
    else if keep then (.fin neg m (fmtQmin f), false) else (.fin neg 0 0, true)
  else (.fin neg (m + 2 ^ f.mb) (e - 1 + fmtQmin f), false)

/-- Shift right by `k`, to nearest with ties to even. -/
def shrEven (m k : Nat) : Nat :=
  let q := m / 2 ^ k
  let r := m % 2 ^ k
  if k = 0 then m else if 2 * r < 2 ^ k then q else if 2 ^ k < 2 * r then q + 1 else q + q % 2

/-- Round ± m × 2^e to the format. -/
def fRound (f : Fmt) (keep neg : Bool) (m : Nat) (e : Int) : Fr :=
  let sgn := if neg then 2 ^ (f.eb + f.mb) else 0
  if m = 0 then ⟨sgn, false, false⟩
  else
    let q := max ((Nat.log2 m : Int) + e - f.mb) (fmtQmin f)
    let r := if q ≤ e then m * 2 ^ (e - q).toNat else shrEven m (q - e).toNat
    -- the field value: exponent and fraction together, so that a carry of the rounding moves the exponent
    let v := (q - fmtQmin f).toNat * 2 ^ f.mb + r
    if fmtOnes f * 2 ^ f.mb ≤ v then ⟨sgn + fmtOnes f * 2 ^ f.mb, false, false⟩
    else if v < 2 ^ f.mb ∧ v ≠ 0 ∧ ¬ keep then ⟨sgn, false, true⟩
    else ⟨sgn + v, false, false⟩

def fNan (f : Fmt) (fl : Bool) : Fr := ⟨fmtNan f, true, fl⟩
def fInf (f : Fmt) (neg fl : Bool) : Fr := ⟨fmtInf f neg, false, fl⟩
def orFlush (fl : Bool) (r : Fr) : Fr := { r with flushed := r.flushed || fl }

/-- The signed integer of a finite value at the quantum of exponent `e0`. -/
def fvInt (neg : Bool) (m : Nat) (e e0 : Int) : Int :=
  let v : Int := (m * 2 ^ (e - e0).toNat : Nat)
  if neg then -v else v

/-- Exact sum of two finite values, rounded; a zero sum follows R115. -/
def fSum (f : Fmt) (keep : Bool) (n1 : Bool) (m1 : Nat) (e1 : Int) (n2 : Bool) (m2 : Nat) (e2 : Int) : Fr :=
  let e0 := min e1 e2
  let s := fvInt n1 m1 e1 e0 + fvInt n2 m2 e2 e0
  if s = 0 then fRound f keep (m1 == 0 && m2 == 0 && n1 && n2) 0 0
  else fRound f keep (decide (s < 0)) s.natAbs e0

def fAddV (f : Fmt) (keep : Bool) (a b : Fv) : Fr :=
  match a, b with
  | .nan, _ => fNan f false
  | _, .nan => fNan f false
  | .inf n1, .inf n2 => if n1 = n2 then fInf f n1 false else fNan f false
  | .inf n, _ => fInf f n false
  | _, .inf n => fInf f n false
  | .fin n1 m1 e1, .fin n2 m2 e2 => fSum f keep n1 m1 e1 n2 m2 e2

/-- Exact product of two values, unrounded. -/
def fMulX (a b : Fv) : Fv :=
  match a, b with
  | .nan, _ => .nan
  | _, .nan => .nan
  | .inf n1, .inf n2 => .inf (n1 != n2)
  | .inf n1, .fin n2 m _ => if m = 0 then .nan else .inf (n1 != n2)
  | .fin n1 m _, .inf n2 => if m = 0 then .nan else .inf (n1 != n2)
  | .fin n1 m1 e1, .fin n2 m2 e2 => .fin (n1 != n2) (m1 * m2) (e1 + e2)

/-- Round a value to the format. -/
def fOfV (f : Fmt) (keep : Bool) (v : Fv) : Fr :=
  match v with
  | .nan => fNan f false
  | .inf n => fInf f n false
  | .fin n m e => fRound f keep n m e

def fNeg (f : Fmt) (w : Nat) : Nat :=
  if w / 2 ^ (f.eb + f.mb) % 2 = 1 then w - 2 ^ (f.eb + f.mb) else w + 2 ^ (f.eb + f.mb)

def fAdd (f : Fmt) (keep : Bool) (a b : Nat) : Fr :=
  let (x, p) := fDecode f keep a
  let (y, q) := fDecode f keep b
  orFlush (p || q) (fAddV f keep x y)

def fSub (f : Fmt) (keep : Bool) (a b : Nat) : Fr := fAdd f keep a (fNeg f b)

def fMul (f : Fmt) (keep : Bool) (a b : Nat) : Fr :=
  let (x, p) := fDecode f keep a
  let (y, q) := fDecode f keep b
  orFlush (p || q) (fOfV f keep (fMulX x y))

/-- Fused multiply–add, rounded once (R111). -/
def fFma (f : Fmt) (keep : Bool) (a b c : Nat) : Fr :=
  let (x, p) := fDecode f keep a
  let (y, q) := fDecode f keep b
  let (z, r) := fDecode f keep c
  orFlush (p || q || r) (fAddV f keep (fMulX x y) z)

/-- A quotient of magnitudes with its sticky bit: m1 / m2 to 64 bits beyond the point. -/
def fDiv (f : Fmt) (keep : Bool) (a b : Nat) : Fr :=
  let (x, p) := fDecode f keep a
  let (y, q) := fDecode f keep b
  orFlush (p || q) <|
    match x, y with
    | .nan, _ => fNan f false
    | _, .nan => fNan f false
    | .inf _, .inf _ => fNan f false
    | .inf n1, .fin n2 _ _ => fInf f (n1 != n2) false
    | .fin n1 _ _, .inf n2 => fRound f keep (n1 != n2) 0 0
    | .fin n1 m1 e1, .fin n2 m2 e2 =>
      if m2 = 0 then (if m1 = 0 then fNan f false else fInf f (n1 != n2) false)
      else
        let num := m1 * 2 ^ 64
        fRound f keep (n1 != n2) (2 * (num / m2) + if num % m2 = 0 then 0 else 1) (e1 - e2 - 65)

/-- The integer square root, one bit at a time from bit `k`. -/
def isqrt (n : Nat) : Nat → Nat → Nat
  | 0, r => if (r + 1) * (r + 1) ≤ n then r + 1 else r
  | k + 1, r => isqrt n k (if (r + 2 ^ (k + 1)) * (r + 2 ^ (k + 1)) ≤ n then r + 2 ^ (k + 1) else r)

def fSqrt (f : Fmt) (keep : Bool) (a : Nat) : Fr :=
  let (x, p) := fDecode f keep a
  orFlush p <|
    match x with
    | .nan => fNan f false
    | .inf n => if n then fNan f false else fInf f false false
    | .fin n m e =>
      if m = 0 then fRound f keep n 0 0
      else if n then fNan f false
      else
        let e' := if e % 2 = 0 then e - 60 else e - 61
        let m' := m * 2 ^ (e - e').toNat
        let r := isqrt m' 48 0
        fRound f keep false (2 * r + if r * r = m' then 0 else 1) (e' / 2 - 1)

/-- IEEE order of two values that are no NaN; −0 equals +0. -/
def fvLt (a b : Fv) : Bool :=
  match a, b with
  | .nan, _ => false
  | _, .nan => false
  | .inf n1, .inf n2 => n1 && !n2
  | .inf n, .fin _ _ _ => n
  | .fin _ _ _, .inf n => !n
  | .fin n1 m1 e1, .fin n2 m2 e2 =>
    decide (fvInt n1 m1 e1 (min e1 e2) < fvInt n2 m2 e2 (min e1 e2))

def fvNeg : Fv → Bool
  | .nan => false
  | .inf n => n
  | .fin n _ _ => n

/-- The 2019 maximum and minimum: a NaN operand gives NaN, −0 is less than +0 (R116). -/
def fMax (f : Fmt) (keep : Bool) (a b : Nat) : Fr :=
  let (x, p) := fDecode f keep a
  let (y, q) := fDecode f keep b
  if x = .nan ∨ y = .nan then fNan f (p || q)
  else orFlush (p || q) (fOfV f keep (if fvLt x y then y else if fvLt y x then x else if fvNeg x then y else x))

def fMin (f : Fmt) (keep : Bool) (a b : Nat) : Fr :=
  let (x, p) := fDecode f keep a
  let (y, q) := fDecode f keep b
  if x = .nan ∨ y = .nan then fNan f (p || q)
  else orFlush (p || q) (fOfV f keep (if fvLt x y then x else if fvLt y x then y else if fvNeg x then x else y))

/-- Ordered less-than and equality: false with a NaN (R116). -/
def fLt (f : Fmt) (keep : Bool) (a b : Nat) : Bool := fvLt (fDecode f keep a).1 (fDecode f keep b).1
def fEq (f : Fmt) (keep : Bool) (a b : Nat) : Bool :=
  let x := (fDecode f keep a).1
  let y := (fDecode f keep b).1
  x != .nan && y != .nan && !fvLt x y && !fvLt y x
def fLe (f : Fmt) (keep : Bool) (a b : Nat) : Bool := fLt f keep a b || fEq f keep a b

/-! ### Conversions (R114) -/

/-- Bounds of an integer format by its OUT_FMT code: S8, U8, S4, U4, INT32 (6). -/
def intBounds (code : Nat) : Int × Int :=
  match code with
  | 0 => (-128, 127) | 1 => (0, 255) | 2 => (-8, 7) | 3 => (0, 15) | _ => (-2147483648, 2147483647)

/-- Round a finite value to an integer, ties to even. -/
def fvRound (neg : Bool) (m : Nat) (e : Int) : Int :=
  let v : Int := if 0 ≤ e then (m * 2 ^ e.toNat : Nat) else (shrEven m (-e).toNat : Nat)
  if neg then -v else v

/-- FP to an integer format: the integer, whether a NaN was read (R124), whether a subnormal was flushed. -/
def fToInt (f : Fmt) (keep : Bool) (code w : Nat) : Int × Bool × Bool :=
  let (x, p) := fDecode f keep w
  let (lo, hi) := intBounds code
  match x with
  | .nan => (0, true, p)
  | .inf n => (if n then lo else hi, false, p)
  | .fin n m e => (clampI lo hi (fvRound n m e), false, p)

/-- Between floating formats. -/
def fConv (f g : Fmt) (keep : Bool) (w : Nat) : Fr :=
  let (x, p) := fDecode f keep w
  orFlush p (fOfV g keep x)

/-- An integer to a floating format. -/
def fOfInt (f : Fmt) (v : Int) : Fr := fRound f true (decide (v < 0)) v.natAbs 0

/-- ± m × 2^e to a floating format: mantissa times a power of two (R106, R77). -/
def fScale (f : Fmt) (keep : Bool) (v : Int) (e : Int) : Fr := fRound f keep (decide (v < 0)) v.natAbs e

/-- The two's complement bits of an integer. -/
def intBits (n : Nat) (v : Int) : Nat := (v % (2 ^ n : Nat)).toNat

/-- The rational number of a finite FP32 word; zero for what is not finite. -/
def f32ToQ (w : Nat) : Q :=
  match (fDecode fp32 false w).1 with
  | .fin n m e =>
    let v : Int := if n then -(m : Int) else m
    if 0 ≤ e then qInt (v * (2 ^ e.toNat : Nat)) else qMk v (2 ^ (-e).toNat)
  | _ => ⟨0, 1⟩

def f32Finite (w : Nat) : Bool :=
  match (fDecode fp32 false w).1 with
  | .fin _ _ _ => true
  | _ => false

/-- The nearest FP32 word of a rational number. -/
def qToF32 (q : Q) : Nat :=
  let num := q.n.natAbs * 2 ^ 200
  (fRound fp32 false (decide (q.n < 0)) (2 * (num / q.d) + if num % q.d = 0 then 0 else 1) (-201)).w

/-! ### Block-scaled formats (R106 to R108) -/

/-- Mantissa top bit and bounds: BS8 (true), BS4 (false). -/
def bsTop (b8 : Bool) : Int := if b8 then 6 else 2
def bsBounds (b8 : Bool) : Int × Int := if b8 then (-128, 127) else (-8, 7)

/-- The element exponent of a finite non-zero value (R107). -/
def elemExp (b8 : Bool) (m : Nat) (e : Int) : Int := (Nat.log2 m : Int) + e - bsTop b8

/-- Convert one block: exponent byte and mantissas (R108). -/
def toBlock (b8 : Bool) (vs : List Fv) : Nat × List Int :=
  let (lo, hi) := bsBounds b8
  let exps := vs.filterMap fun v => match v with
    | .fin _ m e => if m = 0 then none else some (elemExp b8 m e)
    | _ => none
  let conv (e : Nat) (v : Fv) : Int := match v with
    | .nan => 0
    | .inf n => if n then lo else hi
    | .fin n m ex => clampI lo hi (fvRound n m (ex + 127 - e))
  if vs.any (fun v => v == .nan) then (0xFF, vs.map fun _ => 0)
  else if vs.any (fun v => match v with | .inf _ => true | _ => false) then (0xFE, vs.map (conv 0xFE))
  else match exps.max? with
    | none => (0, vs.map fun _ => 0)
    | some mx =>
      let e := (clampI 0 254 (mx + 127)).toNat
      (e, vs.map (conv e))

/-- The element value of a block-scaled operand as a floating word. -/
def fromBlock (f : Fmt) (keep : Bool) (e : Nat) (m : Int) : Fr :=
  if e = 0xFF then fNan f false else fScale f keep m ((e : Int) - 127)

/-! ### Dot product (R112) -/

def elem8 (signed : Bool) (b : Nat) : Int := if signed then sext 8 b else (b % 256 : Nat)

def satAdd32 (a b : Int) : Int := clampI (-2147483648) 2147483647 (a + b)

/-- Four products of 8-bit elements added to an INT32 accumulator with signed saturation. -/
def dp4 (sa sb : Bool) (a b : Nat) (acc : Int) : Int :=
  satAdd32 acc ((List.range 4).foldl (fun s i => s + elem8 sa (a / 256 ^ i) * elem8 sb (b / 256 ^ i)) 0)

/-! ### Cyclic redundancy checks -/

/-- CRC-32C, polynomial 0x1EDC6F41 reflected, one byte (R52). -/
def crc32cByte (c : Nat) (b : Nat) : Nat :=
  (List.range 8).foldl (fun c _ => if c % 2 = 1 then Nat.xor (c / 2) 0x82F63B78 else c / 2) (Nat.xor c b)

/-- CRC-32C of a byte string, initial value and final inversion 0xFFFFFFFF (R52). (DEDUCED: log entry 90). -/
def crc32c (bs : List Byte) : Nat :=
  Nat.xor (bs.foldl (fun c b => crc32cByte c b.toNat) 0xFFFFFFFF) 0xFFFFFFFF

end Sys2Proof.Machine
end

