-- ==== Sys2Proof/Machine/State.lean ====
section
/-! DEFINITION. The state of the part: every register, mailbox, table, queue, buffer, counter, mode and pin
the specification names, as plain data, one structure per unit, and the state after a power-on reset. -/

namespace Sys2Proof.Machine
open Sys2Proof

/-- Why a command stops the part. No rule of the manual stops the part without an effect, so no meaning of
this model raises a fault: the one constructor says so (safe).
(DESIGN CHOICE: log entry 89, DESIGN CHOICE: log entry 91). -/
inductive Fault where
  /-- Raised by no meaning: kept so that the type is inhabited (safe). -/
  | none
deriving DecidableEq, Repr, Inhabited

/-- Why a command has no meaning. (DESIGN CHOICE: log entry 89, DESIGN CHOICE: log entry 91). -/
inductive Refusal where
  /-- Raised by Dispatch.lean alone, for a command of the table not modelled yet (safe). -/
  | notModelled (mnemonic : String)
deriving DecidableEq, Repr, Inhabited

/-! ### Faults, spares and service life (spec/15) -/

/-- One threshold counter of a counting source: count and window start (R451). -/
structure Window where
  count : Nat
  start : Nat
deriving DecidableEq, Repr, Inhabited

/-- A counting source: one pair (KIND, UNIT) with its class, windows and saturating total (R451). -/
structure Source where
  kind : Nat
  unit : Nat
  cls : Nat
  wins : List Window
  total : Nat
deriving DecidableEq, Repr, Inhabited

/-- A message in the pending queue with the class after counting, the time it was received and the Newel cycle of
the Fault Collector that took it, counted from reset (R450, R458). -/
structure Pending where
  msg : FaultMsg
  cls : Nat
  time : Nat
  cyc : Nat
deriving DecidableEq, Repr, Inhabited

/-- `FIRST_SRC` and `FIRST_ADDR` (R472, R473). -/
structure FirstSrc where
  valid : Bool
  ovf : Bool
  cls : Nat
  kind : Nat
  source : Nat
  unit : Nat
  addr : Nat
  arg : Nat
deriving DecidableEq, Repr, Inhabited

/-- Wear of one clock island (R476). -/
structure Wear where
  slack : Nat
  drift : Nat
  runDays : Nat
deriving DecidableEq, Repr, Inhabited

/-- The Fault Collector, the global error queue, telemetry, wear and substitution. -/
structure FaultState where
  /-- messages held at the crossings, in order of presentation (R450) -/
  wire : List FaultMsg
  sources : List Source
  pending : List Pending
  /-- cycles in which the collector has taken a message (DESIGN CHOICE: log entry 86) -/
  cycles : Nat
  dropped : Nat
  first : FirstSrc
  errqObj : Nat
  errqW : Word
  errqR : Word
  errqDrop : Nat
  tlmObj : Nat
  tlmSeq : Word
  availLost : Nat
  wear : List Wear
  /-- thresholds of R463 that have acted and not recovered: monitored unit, 0 drift 3 %, 1 drift 6 %, 2 slack 8 %,
  3 slack 4 % -/
  acted : List (Nat × Nat)
  /-- errors of SRAM rows: unit and row in one number, times -/
  rowErrs : List (Nat × List Nat)
  /-- failed physical shader cores PSC0 to PSC35 (R24, R466) -/
  pscFailed : List Nat
  /-- per Hall, the failed physical row, then column, of each of 16 groups; 0xFF for none (R25) -/
  hallRows : List (List Nat)
  hallCols : List (List Nat)
  /-- Halls that cannot present their array, and those withdrawn at a frame boundary (R467) -/
  hallBad : List Bool
  hallOut : List Bool
  /-- rows substituted in SRAM arrays: unit of the array, row (R19, R464) -/
  sramRows : List (Nat × Nat)
  /-- units with a substitution waiting: resource (0 shader core, 100 + Hall its lines, 1,000 + unit its SRAM rows), unit or row, frame
  of the trigger (R465) -/
  substWait : List (Nat × Nat × Nat)
deriving DecidableEq, Repr, Inhabited

/-! ### Power states, reset, start-up, pins (spec/16, spec/17) -/

/-- The states of R477, with thermal shutdown (R489) and an unpowered part. -/
inductive Power where
  | run | idle | sleep | deepSleep | off | thermal | unpowered
deriving DecidableEq, Repr, Inhabited

/-- One voted domain (R485, R499): PWR code as `ISL_STATn.PWR`, power-ups, and the votes that are not derived from other
state. -/
structure Domain where
  pwr : Nat
  ups : Nat
  operator : Bool
  /-- queues whose next command waits for the domain (R18, R484) -/
  dispatch : List Nat
  firmware : Bool
  /-- launches with a transaction held at a crossing into the domain (R18) -/
  held : List Nat
deriving DecidableEq, Repr, Inhabited

/-- Level of an output pin (R487): driven low, driven high, or not driven. -/
inductive Level where
  | low | high | hiZ
deriving DecidableEq, Repr, Inhabited

/-- The output pins the manual gives a level (R381, R456, R487, R503). ALIVE outputs: `high` while the
5 kHz square wave runs. -/
structure Pins where
  bypHold : Level
  faultN : Level
  aliveM : Level
  aliveH : Level
  fsync0 : Level
  fsync1 : Level
  obPerstN : Level
  axCs : Level
  axMosi : Level
  htPwm : Level
  pcieRefClk : Bool
  pwrenMain : Bool
  pwrenHbm : Bool
deriving DecidableEq, Repr, Inhabited

/-- The boot configuration record (R493): its 40 words; absent while none verifies. -/
structure BootCfg where
  present : Bool
  words : List Word
deriving DecidableEq, Repr, Inhabited

structure PowerState where
  st : Power
  /-- RESET_N is low -/
  resetLow : Bool
  /-- target of an entry flight in progress (R480, R496) -/
  entering : Option Power
  /-- reset release has come: the ROM loader or Dynov runs -/
  started : Bool
  cause : Nat
  phase : Nat
  linkMs : Nat
  houseMs : Nat
  startAt : Nat
  doms : List Domain
  /-- PLL lock by PLL index (R520) and by loss sent -/
  pll : List Bool
  pins : Pins
  /-- Grave latches of the always-on island: (KIND, UNIT) (R486) -/
  grave : List (Nat × Nat)
  thermTrip : Bool
  partReset : Bool
  dsRetain : List Nat
  /-- the retained set is held (R481) -/
  retained : Bool
  hbmReady : Bool
  hbmFailed : Bool
  boot : BootCfg
  houseCtxReady : Bool
  newelHalt : Bool
  recoveryWait : Bool
  /-- a Grave clock loss of islands 3 to 15: requests only report status (R460) -/
  onlyStatus : Bool
deriving DecidableEq, Repr, Inhabited

/-! ### Newel, mailboxes, calibration (spec/09) -/

/-- A mailbox (R266 to R268). -/
structure Mailbox where
  word : DWord
  full : Bool
  coll : Bool
  count : Nat
deriving DecidableEq, Repr, Inhabited

/-- An outbound word in a queue: an event, the reply of a one-tread request, or of a flight (R274). -/
inductive OutKind where
  | event | treadReply | flightReply
deriving DecidableEq, Repr, Inhabited

structure OutWord where
  word : DWord
  kind : OutKind
deriving DecidableEq, Repr, Inhabited

/-- A request record of a request mailbox (R276). -/
structure ReqRec where
  seq : Nat
  op : Nat
  /-- the stored reply; none while the request runs -/
  reply : Option DWord
  /-- its result block -/
  blk : List Word
deriving DecidableEq, Repr, Inhabited

/-- A staging entry of a session (R273): held from the REQ until its reply; the block it carries. -/
structure Stage where
  held : Bool
  word : DWord
  block : List Word
deriving DecidableEq, Repr, Inhabited

/-- What a flight waits for before its next tread (R277, R280). -/
inductive Wait where
  | ready | flash | rsa | engine | frame
deriving DecidableEq, Repr, Inhabited

/-- What a flight locks (R281). -/
inductive Lock where
  | obj (slot : Nat) | ctx (id : Nat) | queue (id : Nat) | cal | seccfg | firmware | timetable
  | schedule (ctx : Nat) | house | feed (f : Nat) | bootCfg | batches | outbound | power
deriving DecidableEq, Repr, Inhabited

/-- A flight in progress. A request flight keeps the request as it was taken; a Dynov flight keeps its
kind: the teardown of a context with its cause, the generation of the next session key pair, a
substitution, or the final step of a queue destroy. -/
inductive FlightKind where
  | request
  | teardown (ctx cause : Nat)
  | skeyGen
deriving DecidableEq, Repr, Inhabited

structure Flight where
  mbox : Nat
  who : Nat
  op : Nat
  r : ReqIn
  kind : FlightKind
  wait : Wait
  locks : List Lock
  /-- NVME_READ: the tag of its command while it waits, then the status the port gave it -/
  code : Nat
deriving DecidableEq, Repr, Inhabited

/-- A calibration record: KEY, FLAGS and data words (R284). -/
structure CalRec where
  key : Nat
  flags : Word
  data : List Word
deriving DecidableEq, Repr, Inhabited

/-- A user calibration half (R286, R287): sequence number, tables by ID, and whether it verifies. -/
structure CalHalf where
  seq : Nat
  ok : Bool
  tables : List (Nat × List CalRec)
deriving DecidableEq, Repr, Inhabited

structure NewelState where
  mbx : List (Nat × Mailbox)
  collAny : Bool
  mbxSel : Nat
  heldNotices : List (Nat × List DWord)
  outq : List (Nat × List OutWord)
  lost : List (Nat × Nat)
  recs : List (Nat × ReqRec)
  stage : List (Nat × Stage)
  flights : List Flight
  rot : Nat
  lastServed : List Nat
  coreA : Nat
  coreB : Nat
  spareOk : Bool
  rerun : Nat
  treadMax : Nat
  calFactory : List (Nat × List CalRec)
  calU0 : CalHalf
  calU1 : CalHalf
  /-- the factory partition verified at start-up; its tables else are the ROM defaults -/
  calFacOk : Bool
  /-- the half in use: 0 or 1, or 2 while none is -/
  calUse : Nat
  calEff : List (Nat × List CalRec)
deriving DecidableEq, Repr, Inhabited

/-! ### Tenants, identity, attestation (spec/12) -/

/-- The session of one identity (R359 to R366): provisional or full, its transport session, the key
epochs and sequence windows of both directions. -/
structure Session where
  full : Bool
  ts : Nat
  /-- the one word of a provisional binding was written -/
  used : Bool
  ifVer : Nat
  /-- a session secret was agreed: frames are sealed; false for the session that enrolled the operator -/
  keyed : Bool
  secret : List Byte
  clientNonce : List Byte
  partNonce : List Byte
  txEpoch : Nat
  txSeq : Nat
  rxEpoch : Nat
  /-- a rekey awaits the first frame of the new epoch -/
  rekeyWait : Bool
  /-- the reply of a rekey has not left: the part's frames change epoch after it -/
  txSwitch : Bool
  rxHigh : Nat
  rxSeen : List Nat
  rekeySent : Bool
  lastValid : Nat
deriving DecidableEq, Repr, Inhabited

/-- The firmware image in flash, as its header gives it (R373), and whether it is valid (R374). -/
structure FwImage where
  valid : Bool
  dynovVer : Word
  svn : Nat
  keySlot : Nat
  bodyLen : Nat
  digest : List Byte
deriving DecidableEq, Repr, Inhabited

/-- The security configuration record (R371). -/
structure SecCfg where
  operatorDigest : List Byte
  macsecReq : Bool
  ifMin : Nat
  ifMax : Nat
  etherType : Nat
  jtagMode : Nat
deriving DecidableEq, Repr, Inhabited

structure SecState where
  sess : List (Nat × Session)
  identOk : Bool
  skeyReady : Bool
  /-- a sealed pair for the next lifetime is in flash (R357) -/
  nextPair : Bool
  bootCount : Nat
  recovery : Bool
  minSvn : Nat
  keyRevoked : Nat
  attCount : Nat
  attMark : Nat
  attLatch : Nat
  cfg : SecCfg
  /-- image in flash and image that runs -/
  fw : FwImage
  running : FwImage
  fwStage : List Host.Cell
  /-- recovery: owner transport session, announced length, bytes received, last frame time (R376, R406) -/
  recovOwner : Option Nat
  recovLen : Nat
  recovGot : Nat
  recovLast : Nat
  recovImage : List Host.Cell
deriving DecidableEq, Repr, Inhabited

/-! ### Contexts, memory objects, queues, fences (spec/10, spec/06) -/

inductive CtxSt where
  | free | created | active | teardown
deriving DecidableEq, Repr, Inhabited

structure Quota where
  queues : Nat
  objects : Nat
  fences : Nat
  memBytes : Nat
  cmpSlots : Nat
  batches : Nat
deriving DecidableEq, Repr, Inhabited

/-- A context slot (R293, R294) with its fault records (R127, R152, R171): the words of each record,
empty while nothing is recorded. -/
structure Ctx where
  st : CtxSt
  quota : Quota
  owner : List Byte
  incarn : Nat
  nanTrap : Bool
  nanRec : List Word
  collRec : List Word
  memRec : List Word
  /-- collector cycle of the recorded memory fault, for the tie rule of R171 -/
  memRecCyc : Nat
  tearCause : Nat
  /-- events of the fault state that have no record of their own: kind, last address, count (R53, R190) -/
  events : List (Nat × Nat × Nat)
deriving DecidableEq, Repr, Inhabited

inductive ObjSt where
  | free | live | freeing
deriving DecidableEq, Repr, Inhabited

/-- A memory object slot (R292, R295 to R298). Frames are runs (first frame, count) of 64 KiB frames. -/
structure Obj where
  gen : Nat
  st : ObjSt
  owner : Nat
  bytes : Nat
  /-- 2 MiB pages -/
  big : Bool
  /-- 0 CACHED, 1 COHERENT, 2 WINDOW -/
  policy : Nat
  runs : List (Nat × Nat)
  /-- grantee and permission bits: 1 R, 3 R and W -/
  grants : List (Nat × Nat)
  /-- device BAR and offset of a WINDOW object (R409) -/
  bar : Nat
  barOff : Nat
deriving DecidableEq, Repr, Inhabited

/-- A mapping of a range of an object in a context's address space (R167). -/
structure Mapping where
  va : Nat
  len : Nat
  slot : Nat
  off : Nat
  perm : Nat
deriving DecidableEq, Repr, Inhabited

/-- A key pair of the controllers' key table (R175, R176): its 64 bytes, and whether it is usable. -/
structure KeyPair where
  value : List Byte
  usable : Bool
deriving DecidableEq, Repr, Inhabited

structure CtxState where
  ctxs : List (Nat × Ctx)
  incarnNext : Nat
  objs : List (Nat × Obj)
  /-- freed object slots, least recently freed first (R468); a slot never used is not listed -/
  freed : List Nat
  maps : List (Nat × List Mapping)
  /-- free runs of 64 KiB frames (first, count), ascending -/
  freeFrames : List (Nat × Nat)
  /-- frames retired by an uncorrectable error while mapped (R193) -/
  badFrames : List Nat
  /-- frames withdrawn from the pool for want of a spare (R194) -/
  withdrawn : List Nat
  /-- the grow reserve in 64 KiB pages, and the frames it holds (R214) -/
  reserve : Nat
  reserveRuns : List (Nat × Nat)
  /-- key pairs in the controllers' key table, by identity (R175) -/
  keys : List (Nat × KeyPair)
  ctxSel : Nat
  /-- core save areas: 32 times the context plus the core, and the frames (R161) -/
  saves : List (Nat × List (Nat × Nat))
deriving DecidableEq, Repr, Inhabited

inductive QSt where
  | free | active | blocked | faulted | destroying
deriving DecidableEq, Repr, Inhabited

/-- An accepted submit entry (R302, R303): its count, buffer, object slots referenced, bad mark, and once
its header has been read the commands' position. -/
structure Entry where
  k : Nat
  cbVa : Nat
  objs : List Nat
  firstHandle : Nat
  bad : Bool
  opened : Bool
  size : Nat
  count : Nat
  compVa : Nat
  pos : Nat
  idx : Nat
deriving DecidableEq, Repr, Inhabited

/-- A dispatched command that has not completed (R310, R317). -/
structure OutCmd where
  ref : CmdRef
  op : Nat
  /-- unit of the engine that runs it -/
  unit : Nat
  compVa : Nat
  issued : Nat
  /-- fence and value of a pending FENCE_SIGNAL -/
  fence : Nat
  value : Nat
  aborted : Bool
deriving DecidableEq, Repr, Inhabited

/-- The FENCE_WAIT a BLOCKED queue holds (R313, R317). -/
structure Blocked where
  ref : CmdRef
  fence : Nat
  value : Nat
  ignoreErr : Bool
  compVa : Nat
  since : Nat
deriving DecidableEq, Repr, Inhabited

structure Queue where
  st : QSt
  owner : Nat
  ringVa : Nat
  ringLog2 : Nat
  statusVa : Nat
  waitMs : Nat
  ringObj : Nat
  statusObj : Nat
  w : Nat
  rptr : Nat
  dptr : Nat
  entries : List Entry
  out : List OutCmd
  wait : Option Blocked
  faultCode : Nat
  faultEntry : Nat
  faultCmd : Nat
  /-- the fault steps after step 2 of R318 are done -/
  faultDone : Bool
  /-- engines whose quiescence report is awaited under destroy (R320): unit numbers -/
  aborting : List Nat
  /-- a destroyed queue whose CTX is in teardown reports no event -/
  quiet : Bool
deriving DecidableEq, Repr, Inhabited

inductive FenceSt where
  | ok | cancelled | abandoned | faulted
deriving DecidableEq, Repr, Inhabited

/-- A fence (R313 to R315): owner, value, status, exports and imports with their rights. -/
structure Fence where
  owner : Nat
  value : Nat
  st : FenceSt
  exports : List (Nat × Nat)
  imports : List (Nat × Nat)
deriving DecidableEq, Repr, Inhabited

structure ConcState where
  queues : List (Nat × Queue)
  fences : List (Nat × Fence)
  /-- commands their engine has completed: reference, completion word, DETAIL -/
  done : List (CmdRef × Word × Word)
  rr : Nat
  dbBad : Nat
  fenceCyc : Nat
  qSel : Nat
deriving DecidableEq, Repr, Inhabited

/-- ECC and spare counts of one HBM stack and one pseudo-channel (R193 to R198). -/
structure Channel where
  /-- retired frame, spare frame -/
  remap : List (Nat × Nat)
  spareLeft : Nat
  /-- DQ lanes remapped -/
  lanes : List Nat
  /-- corrected errors: frame, times recorded (ns) -/
  errors : List (Nat × List Nat)
  /-- retirement in progress: frame, spare, units copied -/
  copying : Option (Nat × Nat × Nat)
  /-- frames whose copy is due after it -/
  due : List Nat
deriving DecidableEq, Repr, Inhabited

/-- A line of a shader core's data cache (R182): line address, context tag that its translation produced, bytes,
dirty byte mask. -/
structure CacheLine where
  addr : Nat
  tag : Nat
  data : List Byte
  dirty : List Bool
deriving DecidableEq, Repr, Inhabited

/-- A Mezzanine line (R172, R173): line number (physical address over 128), context tag, the way that holds it, dirty
byte mask. A line that has been evicted keeps its place in the list with no way. -/
structure MzLine where
  line : Nat
  tag : Nat
  way : Option Nat
  dirty : Nat
deriving DecidableEq, Repr, Inhabited

structure MemState where
  /-- device memory by physical byte address, in canonical form; unlisted bytes read zero (DEDUCED: log entry 9; DESIGN CHOICE: log entry 10) -/
  cells : List Host.Cell
  /-- the Mezzanine's lines, most recently used first (R172, R173) -/
  mz : List MzLine
  /-- stored bits that have changed and that no scrub or write has put right (R188, R190) -/
  upsets : List Upset
  mzCorr : Nat
  mzUnc : Nat
  hbmCorr : List Nat
  hbmUnc : List Nat
  chans : List (Nat × Channel)
  scrubActive : Bool
  scrubPos : Nat
  scrubStart : Nat
  scrubLast : Nat
deriving DecidableEq, Repr, Inhabited

/-! ### The ring ports, the transport and the Outbound Port (spec/13) -/

/-- A frame the part sends: transport session, type, mailbox, staging entry, sequence, acknowledgement,
seal epoch and sequence, payload bytes, ports (bit mask), resend flag, time of the last send. -/
structure TxFrame where
  ts : Nat
  type : Nat
  mbx : Nat
  stage : Nat
  xseq : Nat
  xack : Nat
  sealed : Bool
  epoch : Nat
  sealSeq : Nat
  payload : List Byte
  ports : Nat
  prio : Nat
  retx : Bool
  sentAt : Nat
  hops : Nat
  /-- destination MAC address -/
  dest : Nat
deriving DecidableEq, Repr, Inhabited

inductive TsSt where
  | unbound | provisional | full
deriving DecidableEq, Repr, Inhabited

/-- A transport session (R398, R399). -/
structure TSess where
  st : TsSt
  ident : Nat
  xack : Nat
  xseq : Nat
  unacked : List TxFrame
  last : Nat
  mac : Nat
deriving DecidableEq, Repr, Inhabited

/-- A ring port (R415, R416). -/
structure Port where
  link : Bool
  master : Bool
  scUp : Bool
  /-- the secure channel has once come up since link up (R390) -/
  scOnce : Bool
  tc10 : Nat
  sqi : Nat
  downs : Nat
  errHdr : Nat
  errIcv : Nat
  errFcs : Nat
  fwdDrop : Nat
  cak : List Byte
  ckn : List Byte
  pnTx : Nat
  pnRx : Nat
  sakNo : Nat
deriving DecidableEq, Repr, Inhabited

structure RingState where
  ports : List Port
  dsBypass : Bool
  ts : List (Nat × TSess)
  /-- frames handed to egress, in arrival order (R387) -/
  tx : List TxFrame
  gSync : Bool
  gHold : Bool
  gPort : Nat
  gHops : Nat
  gOffset : Int
  /-- offset still to be slewed out, in 10 fs, and the rate of the Timebase apart from nominal, in 0.01 ppm, which is 10 fs
  a tile cycle (R15, R392, R393) -/
  gSlew : Int
  gRate : Int
  gInterval : Nat
  gLastSync : Nat
  gMaster : Nat
deriving DecidableEq, Repr, Inhabited

/-- An XFER in progress (R410). -/
structure Xfer where
  ref : CmdRef
  src : Nat
  dst : Nat
  bytes : Nat
  moved : Nat
  /-- reads outstanding: offset, length, issue time -/
  reads : List (Nat × Nat × Nat)
  stopped : Bool
deriving DecidableEq, Repr, Inhabited

/-- A device window granted to a context (R409). -/
structure Window409 where
  ctx : Nat
  slot : Nat
  bar : Nat
  off : Nat
  len : Nat
deriving DecidableEq, Repr, Inhabited

/-- A feed's NVMe sink (R413). -/
structure NvmeSink where
  feed : Nat
  ns : Nat
  lba : Nat
  count : Nat
  pos : Nat
  /-- 128 KiB writes in flight: tag, retried -/
  writes : List (Nat × Bool)
  paused : Bool
deriving DecidableEq, Repr, Inhabited

structure OutState where
  mode : Nat
  link : Bool
  rate : Nat
  width : Nat
  owner : Nat
  accepted : Bool
  windows : List Window409
  xfers : List Xfer
  cplErr : Nat
  nvmeErr : Nat
  linkErr : Nat
  sinks : List NvmeSink
  /-- NVMe commands outstanding: tag and issue time -/
  cmds : List (Nat × Nat)
  nextTag : Nat
  /-- posted writes the port has sent to the device, newest first: BAR, offset, bytes -/
  posted : List (Nat × Nat × List Byte)
  /-- completions the port has returned to the device, newest first: success, data (R409) -/
  replies : List (Bool × List Byte)
  /-- writes issued to the NVMe device, newest first: namespace, LBA, bytes (R413) -/
  nvmeOut : List (Nat × Nat × List Byte)
  /-- non-posted reads the port has sent to the device, newest first: BAR, offset, bytes, and how many posted writes went
  before (R186) -/
  asked : List (Nat × Nat × Nat × Nat)
deriving DecidableEq, Repr, Inhabited

/-! ### Numeric mode (spec/04) -/

/-- `NUM_MODE` and `NUM_STAT` (R122, R123). -/
structure NumState where
  svc : Nat
  keep : Bool
  firstUnit : Nat
  flushed : Bool
deriving DecidableEq, Repr, Inhabited

/-! ### The Matrix Halls (spec/03) and the Gallery's bays -/

/-- A context's weight and activation regions on a Hall, in 64 KiB units (R64, R343). -/
structure Region where
  wBase : Nat
  wSize : Nat
  aBase : Nat
  aSize : Nat
  overlaid : Bool
deriving DecidableEq, Repr, Inhabited

/-- A started descriptor (R69): its words, the next vector pass, the SAT flag, the sequences of its step as
(identity, state slot) in ascending identity. -/
structure Running where
  words : List Word
  num : Nat
  next : Nat
  sat : Bool
  seqs : List (Nat × Nat)
  /-- a transfer's bytes moved, and the first refused byte of the units whose translations it has requested, with
  CAUSE (R168) -/
  moved : Nat
  stop : Option (Nat × Nat)
  /-- suspended until the context's next Hall slot by the end of its core's slot (R89) -/
  susp : Bool
deriving DecidableEq, Repr, Inhabited

/-- An entry of an issue queue (R66): a list dispatched by the Concourse, or one descriptor of MX.ISSUE with
its core, token slot and launch. -/
structure HEntry where
  ref : CmdRef
  single : List Word
  core : Nat
  tok : Nat
  launch : Nat
  va : Nat
  cwVa : Nat
  idx : Nat
  arrival : Nat
  batch : Option Nat
  stepped : Bool
  /-- MX.ISSUE: the local-store base of the issuing block, and its split in bytes (R71, R156) -/
  lsBase : Nat
  lsSize : Nat
deriving DecidableEq, Repr, Inhabited

/-- An issue queue of a context with its running or suspended descriptor. -/
structure HQueue where
  entries : List HEntry
  run : Option Running
deriving DecidableEq, Repr, Inhabited

/-- A byte that a descriptor has written and that may still be in the pipeline (R90): its location, the descriptor,
Hall cycle and time of the write, the byte it replaces. -/
structure Fresh where
  loc : Nat
  num : Nat
  clk : Nat
  now : Nat
  old : Byte
deriving DecidableEq, Repr, Inhabited

/-- One Matrix Hall: stores, the identity each 64 KiB unit carries (none: the zero state, R345), regions,
issue queues by context, the current slot and run, ECC counts (R100, R101), rows with an uncorrectable
error (store 0 weight, 1 activation; row), regions marked for zeroing (R65). -/
structure HallState where
  wst : List Host.Cell
  ast : List Host.Cell
  wOwner : List (Nat × Nat)
  aOwner : List (Nat × Nat)
  regions : List (Nat × Region)
  comp : List (Nat × HQueue)
  load : List (Nat × HQueue)
  kind : Nat
  ctx : Nat
  busy : Bool
  keep : Bool
  trap : Bool
  corr : Nat
  unc : Nat
  badRows : List (Nat × Nat)
  /-- regions that wait to be zeroed, with the identity that held them (R65) -/
  zeroing : List (Nat × Region)
  arrivals : Nat
  /-- Hall cycles of vector passes and transfers, descriptors started, writes still in the pipeline, newest first (R90) -/
  clk : Nat
  started : Nat
  fresh : List Fresh
deriving DecidableEq, Repr, Inhabited

/-- A waiting join or leave of a batch (R97): command, join, identity, WAITING_STATE reported. -/
structure SeqReq where
  ref : CmdRef
  join : Bool
  seq : Nat
  told : Bool
deriving DecidableEq, Repr, Inhabited

/-- A sequence batch (R96). -/
structure Batch where
  ctx : Nat
  hall : Nat
  s : Nat
  p : Nat
  q : Nat
  jmax : Nat
  pool : Nat
  tab : Nat
  tpl : Nat
  /-- active sequences: identity, state slot -/
  active : List (Nat × Nat)
  waiting : List SeqReq
deriving DecidableEq, Repr, Inhabited

structure HallsState where
  halls : List HallState
  batches : List (Nat × Batch)
deriving DecidableEq, Repr, Inhabited

/-- A Gallery bay (R72, R173): its context tag and its bytes. -/
structure Bay where
  tag : Nat
  data : List Host.Cell
deriving DecidableEq, Repr, Inhabited

/-! ### The frame timetable (spec/11) -/

/-- A timetable image entry (R332) with the incarnation it is bound to, and whether it is idle time (R335). -/
structure TtEntry where
  unit : Nat
  kind : Nat
  ctx : Nat
  tag : Nat
  start : Nat
  len : Nat
  allow : Nat
  incarn : Nat
  idle : Bool
deriving DecidableEq, Repr, Inhabited

structure TtImage where
  rate : Nat
  id : Nat
  epoch : Nat
  outAllow : Nat
  entries : List TtEntry
  /-- bytes of the header and entries, which TT_DIGEST covers (R368) -/
  bytes : List Byte
  /-- region placements: Hall, context, region (R344) -/
  place : List (Nat × Nat × Region)
deriving DecidableEq, Repr, Inhabited

/-- A task of a schedule image with its occupancy, the bays it names and whether it moves device memory
(R336, R337, R341, R346). -/
structure Task where
  hall : Nat
  load : Bool
  tag : Nat
  occ : Nat
  bays : List Nat
  xfer : Bool
  va : Nat
deriving DecidableEq, Repr, Inhabited

structure Sched where
  tasks : List Task
  overlay : Nat
  /-- weight and activation units on each Hall -/
  regions : List (Nat × Nat)
  bytes : List Byte
deriving DecidableEq, Repr, Inhabited

/-- A background activity (R347, R348, R353). -/
structure BgAct where
  shortfall : Nat
  shortFr : Nat
  makeups : Nat
  due : Bool
deriving DecidableEq, Repr, Inhabited

structure TtState where
  set : Bool
  rate : Nat
  epoch : Nat
  active : Option TtImage
  pendingImg : Option TtImage
  /-- the tile cycle within the frame, the frame number k of R327, tile cycles since the epoch -/
  cycle : Nat
  frame : Nat
  total : Nat
  ttFrame : Word
  /-- throttle level, and the level in force for shader, raster and compression slots (R350) -/
  level : Nat
  levelFrame : Nat
  /-- tenant and load slots are withheld: the part is or was in Idle, up to a frame boundary (R477, R478) -/
  gated : Bool
  /-- logical cores whose tenant slots are withheld for the frame (R465) -/
  heldCores : List Nat
  sched : List (Nat × Sched)
  schedNext : List (Nat × Sched)
  bg : List BgAct
  /-- tile cycle in which a house band first became ready, this frame and the previous one, by Hall (R330) -/
  ready : List (Option Nat)
  readyPrev : List (Option Nat)
  /-- per Hall, context, kind and tag: arrivals at the Hall when the frame's first window of the tag began, for
  BUDGET_OVER (R453) -/
  marks : List (Nat × Nat × Nat × Nat × Nat)
  /-- contexts that met a wait of R91 on a Hall in the frame; the throttle was above 0 in the frame -/
  waited : List (Nat × Nat)
  slowed : Bool
deriving DecidableEq, Repr, Inhabited

/-! ### The shader cores (spec/05) -/

/-- What a subset of a group waits for: nothing, a join point, a collective point, a barrier, a descriptor, a load through a
window (R142, R147, R148, R153, R87, R186). -/
inductive SWait where
  | run | join | coll | bar (id : Nat) | token (tok : Nat) (dst : Nat) | load
deriving DecidableEq, Repr, Inhabited

/-- A subset of an original group (R141 to R144): its lanes as a mask, its code offset, what it waits for, its
backward branches, the lanes that issue before it does after a yield, and the running cycles of its wait at
a collective point are outside the model. -/
structure Subset where
  lanes : Nat
  pc : Nat
  wait : SWait
  back : Nat
  owed : Nat
deriving DecidableEq, Repr, Inhabited

/-- An original group: its subsets, its open region as members and closed members (R147 to R149), the subset
that issued last. -/
structure Group where
  subsets : List Subset
  region : Option (Nat × Nat)
  last : Nat
deriving DecidableEq, Repr, Inhabited

/-- One phase of a block barrier (R153): its CNT and the threads that have arrived. -/
structure Barrier where
  cnt : Nat
  arrived : List Nat
deriving DecidableEq, Repr, Inhabited

/-- A load through a window that waits for its completion: the read's number at the port, the thread, the destination
register, BAR, offset, bytes (R159, R186). -/
structure WLoad where
  num : Nat
  thread : Nat
  dst : Nat
  bar : Nat
  off : Nat
  n : Nat
deriving DecidableEq, Repr, Inhabited

/-- A resident block: launch, linear index, original groups, registers by thread, barriers, local-store base,
its loads through a window in flight, to issue again after a restore (R159). -/
structure Block where
  launch : Nat
  index : Nat
  groups : List Group
  regs : List (List Word)
  bars : List (Nat × Barrier)
  lsBase : Nat
  loads : List WLoad
deriving DecidableEq, Repr, Inhabited

/-- A token slot (R86): issue count, held, Hall, launch, and the completion word once it is there. -/
structure Token where
  seq : Nat
  held : Bool
  hall : Nat
  launch : Nat
  word : Option Word
deriving DecidableEq, Repr, Inhabited

/-- The state of a core that a slot end saves (R159). -/
structure SavedCore where
  split : Nat
  blocks : List Block
  ls : List Host.Cell
  tokens : List Token
deriving DecidableEq, Repr, Inhabited

/-- A logical shader core: split, current slot, save or restore in progress (R164), the context of the slot or of that
transfer, resident blocks, local store, data cache, oldest line first (R182), texture cache lines held, oldest first (line
address, bytes), token slots, saved states by context (R160), the launches that run on it with SUBN_KEEP and the trap
enable as they were sampled at their start or resumption (R120, R125). -/
structure Core where
  split : Nat
  kind : Nat
  ctx : Nat
  xfer : Nat
  blocks : List Block
  ls : List Host.Cell
  cache : List CacheLine
  tex : List (Nat × List Byte)
  tokens : List Token
  saved : List (Nat × SavedCore)
  modes : List (Nat × Bool × Bool)
deriving DecidableEq, Repr, Inhabited

/-- A launch (R134 to R137): its command, the checked fields of its program object and descriptor, the next
block to start, blocks ended, CODE_CRC checked, MX_CODE so far. -/
structure Launch where
  ref : CmdRef
  prog : Nat
  codeOff : Nat
  codeSize : Nat
  crc : Nat
  entry : Nat
  regs : Nat
  barriers : Nat
  lsBlock : Nat
  split : Nat
  mask : Nat
  tag : Nat
  grid : Nat × Nat × Nat
  block : Nat × Nat × Nat
  argVa : Nat
  argSize : Nat
  next : Nat
  ended : Nat
  checked : Bool
  /-- unwaited descriptors of the launch that ended with a code other than OK, oldest first: core, token slot, code -/
  mxCode : List (Nat × Nat × Nat)
deriving DecidableEq, Repr, Inhabited

structure ShaderState where
  cores : List Core
  launches : List (Nat × Launch)
  nextLaunch : Nat
deriving DecidableEq, Repr, Inhabited

/-! ### The house pipeline (spec/02) -/

/-- Where a band of a tile stands (R39, R42, R43): waiting for its lines, ready at a time, in a Hall's house
slot, in the shader stage, in the colour stage, done, outside the image, or never started (R48). -/
inductive BandSt where
  | waiting | ready (t : Nat) | hall (h : Nat) | shader | colour | done | absent | dropped
deriving DecidableEq, Repr, Inhabited

/-- A tile from its first line to its output slot: stream, frame counter, column and row, its bands, the
version checks once sealed (BCHK, NCHK) with the free values their pixels are functions of, T(r) and the
arrival time of its last line, flags, statistics. -/
structure Tile where
  stream : Nat
  frame : Nat
  col : Nat
  row : Nat
  bands : List BandSt
  complete : Bool
  tr : Nat
  tlast : Nat
  slot : Nat
  fix : Bool
  edge : Bool
  ichk : Nat
  base : Option Nat
  baseSeed : Nat
  net : Option Nat
  netSeed : Nat
  gain : Nat
  faulted : Bool
  hist : List Nat
  focus : List Nat
  /-- the input bay that holds its input at 12,800 B times column mod 5, and its slot of an output bay (R41) -/
  ibay : Option Nat
  obay : Option (Nat × Nat)
deriving DecidableEq, Repr, Inhabited

/-- A stream (R33, R37, R40): frame open, frame counter, last frame number, conditioned lines of the frame
with their arrival times, replaced pixels (line, first column, end column), lines 0 and 1 that wait for their
replacement, packets taken per port, stripes held, when the last Frame Start was. -/
structure Stream where
  opened : Bool
  seen : Bool
  frame : Nat
  fnum : Nat
  lines : List (Nat × List Nat)
  arrive : List (Nat × Nat)
  fixed : List (Nat × Nat × Nat)
  held : List Nat
  counts : List Nat
  stripes : List (Nat × Nat × List Nat)
  /-- ports whose Frame Start, and whose Frame End, of the frame has arrived -/
  began : List Nat
  ended : List Nat
  startAt : Nat
  timingTold : Bool
  /-- missing lines of the frame that have been filled -/
  missed : List Nat
deriving DecidableEq, Repr, Inhabited

/-- State of a CSI-2 receiver (R59): the error bits of `CSI_STATn`, HS, lanes, rate, skew calibration. -/
structure Csi where
  errs : Nat
  hs : Bool
  lanes : Nat
  rate : Nat
  skewSeen : Bool
deriving DecidableEq, Repr, Inhabited

/-- An accepted house configuration (R33, R34, R54): the two stream descriptors, export frames by stream, the
house schedule image handle, pool size. -/
structure HouseCfg where
  descs : List (List Word)
  exports : List Nat
  sched : Nat
  pool : Nat
  netId : Word
deriving DecidableEq, Repr, Inhabited

/-- A house frame ring (R54): frames, its object slot, and the frames it holds: ring index, frame counter. -/
structure FrameRing where
  frames : Nat
  obj : Nat
  held : List (Nat × Nat)
deriving DecidableEq, Repr, Inhabited

structure HouseState where
  cfg : Option HouseCfg
  running : Bool
  starting : Bool
  freeRun : Bool
  stopping : Bool
  /-- since the last stop, no configuration has been accepted (R334) -/
  stopped : Bool
  streams : List Stream
  csi : List Csi
  tiles : List Tile
  lastSlot : Nat
  /-- tile cycles since the house pipeline started (SLOT of R50) -/
  slots : Nat
  tseq : Nat
  late : List Nat
  rings : List FrameRing
  poseRing : Nat
  poseNext : Nat
  /-- FSYNC edges still to come: stream, rising, time in ns -/
  fsync : List (Nat × Bool × Nat)
  /-- frame statistics in the making (R55): frame, histogram, grid, tiles -/
  statFrame : Nat
  statHist : List Nat
  statGrid : List Int
  statTiles : Nat
  /-- metering tiles of the frame that have been finished or have left -/
  statDone : Nat
  /-- statistics sent to the Motion Controller: frame, histogram, grid, tiles -/
  sent : List (Nat × List Nat × List Int × Nat)
  /-- sent to the Motion Controller for a row: stream, frame, row, t_m, a(y_m) (R222) -/
  tm : List (Nat × Nat × Nat × Nat × Nat)
  /-- KEYs of the defect map in force for each stream (R37, R284) -/
  defects : List (List Nat)
  /-- digital gains posted for later frames: frame, gain in 1/256 (R56) -/
  gains : List (Nat × Nat)
  /-- per stream, the last frame counted as lost; frames that Intake marked (R469): stream, frame -/
  lostAt : List (Option Nat)
  marked : List (Nat × Nat)
  /-- stopped by a Grave fault (R460) -/
  graveStop : Bool
deriving DecidableEq, Repr, Inhabited

/-! ### Raster, poses, feeds, composition (spec/07) -/

/-- A triangle that has been set up: its number in the index list, and its corners as FP32 words in pixels. -/
structure Tri where
  num : Nat
  pts : List (Nat × Nat)
deriving DecidableEq, Repr, Inhabited

/-- A pass in progress (R208 to R221): `prims` is the triangles that have survived, `next` the next one to set up, `stored`,
`wide` and `bins` what the bins hold (by raster tile: entries), `tris` the survivors since the last resolve. -/
structure RPass where
  ref : CmdRef
  words : List Word
  prims : Nat
  cores : Nat
  direct : Bool
  partials : Nat
  pagesOwn : Nat
  pagesRes : Nat
  overflowTold : Bool
  stalledAt : Option Nat
  resolving : Bool
  cleared : Bool
  running : Bool
  /-- vertices the vertex program and the projection gave: index, position -/
  verts : List (Nat × Nat × Nat)
  /-- triangles that clipping removes -/
  clipped : List Nat
  next : Nat
  stored : Nat
  wide : Nat
  bins : List (Nat × Nat)
  tris : List Tri
  /-- direct mode: the first primitive that has not been committed; tiled: raster tiles resolved in the round -/
  done : Nat
  /-- raster tiles in the bays, with SUBN_KEEP as their work sampled it -/
  inBay : List (Nat × Bool)
deriving DecidableEq, Repr, Inhabited

/-- What the raster back end holds for a context: bay grant, bays, bays due to be released, bin pool in pages,
pass history (R210), waiting passes, the slot it holds. -/
structure RasCtx where
  grant : Nat
  bays : List Nat
  want : Nat
  pool : Nat
  /-- pages of the pool in use by a pass -/
  used : Nat
  runs : List (Nat × Nat)
  history : List (Nat × Nat)
  passes : List RPass
deriving DecidableEq, Repr, Inhabited

/-- A pose (R224): FP32 words PAN, TILT, ROLL, F, CX, CY, K1, K2, FOCUS_M, PAN_RATE, TILT_RATE. -/
structure Pose where
  stream : Nat
  frame : Nat
  row : Nat
  tm : Nat
  extrap : Bool
  vals : List Nat
deriving DecidableEq, Repr, Inhabited

/-- An accepted present (R230): its block's words, its command, the objects it references. -/
structure Present where
  ref : CmdRef
  words : List Word
  used : Bool
  objs : List Nat
deriving DecidableEq, Repr, Inhabited

/-- A feed's composite in its window: tile sequence number, slot, entry index in the map and the composite
buffer, the seed and check of the version that left, SUBN_KEEP as sampled at its start (R120). -/
structure Comp where
  feed : Nat
  tseq : Nat
  slot : Nat
  stream : Nat
  frame : Nat
  col : Nat
  row : Nat
  seed : Nat
  validW : Nat
  validH : Nat
  chk : Nat
  houseLate : Bool
  skip : Bool
  started : Bool
  keep : Bool
deriving DecidableEq, Repr, Inhabited

/-- A feed tile map entry (R234), with its tile: word 0, TSEQ, CHK, tile column and row, frame. -/
structure MapEnt where
  tseq : Nat
  frame : Nat
  col : Nat
  row : Nat
  w0 : Nat
  chk : Nat
  seed : Nat
  validW : Nat
  validH : Nat
  slot : Nat
  pix : List Byte
deriving DecidableEq, Repr, Inhabited

/-- A bound feed (R228, R229): descriptor, bound, unbind at the frame boundary, presents, selected layer with
its surface and pose words, LATE count, its map. -/
structure Feed where
  bound : Bool
  ending : Bool
  words : List Word
  presents : List Present
  layer : Option Present
  surf : List Word
  pose : List Nat
  /-- the layer's owner is gone: every tile carries LAYER_NONE (R232) -/
  dropped : Bool
  /-- the stream frame whose layer is selected (R231) -/
  sel : Option Nat
  /-- presents replaced by a later selection, released when the last frame that used them has left -/
  leaving : List (Present × Nat)
  late : Nat
  map : List MapEnt
deriving DecidableEq, Repr, Inhabited

structure RasterState where
  ctx : List (Nat × RasCtx)
  grow : Nat
  partialCnt : Nat
  /-- the raster slot: context that holds it -/
  slot : Option Nat
  /-- fragments that will have come back when the slot ends -/
  back : List Fragment
  /-- exact texels of compressed blocks the back end wrote: slot address, texels, sectors (R205) -/
  fbc : List (Nat × List Byte × List Byte)
  poses : List Pose
  feeds : List (Nat × Feed)
  comps : List Comp
  /-- bays of the composite ring; none until the first binding (R228, R233) -/
  compRing : List Nat
deriving DecidableEq, Repr, Inhabited

structure GalState where
  bays : List (Nat × Bay)
  /-- bays of the house pool and of the composite ring -/
  pool : Nat
deriving DecidableEq, Repr, Inhabited

/-! ### The Compression Engine (spec/08) -/

inductive SlotSt where
  | empty | valid | partialSt | invalid
deriving DecidableEq, Repr, Inhabited

/-- A state slot (R248): owner, state, being freed, next block, parameters and planes of the stopped job, the
blocks coded since the reset point (R246). -/
structure CmpSlot where
  owner : Nat
  st : SlotSt
  freeing : Bool
  next : Nat
  params : List Nat
  hist : List (List Nat)
deriving DecidableEq, Repr, Inhabited

/-- A job at a coder (R249 to R255). -/
structure Job where
  ref : CmdRef
  va : Nat
  enc : Bool
  words : List Word
  started : Bool
  coder : Nat
  next : Nat
  blocks : Nat
  bytes : Nat
  maxErr : Nat
  lossless : Nat
  crcErrors : Nat
  hist : List (List Nat)
  suspended : Bool
deriving DecidableEq, Repr, Inhabited

/-- A coded feed (R256, R259): coder, the coding parameters, its sink, ring use, drops, its history, the tiles
to be coded. -/
structure FeedCode where
  coder : Nat
  ratio : Nat
  effort : Nat
  depth : Nat
  sink : Nat
  port : Nat
  dest : Nat
  ringTiles : Nat
  drop : Nat
  hist : List (List Nat)
  frame : Nat
  queue : List MapEnt
  /-- coded tiles in the ring: their bytes -/
  ring : List (List Byte)
  coding : Option MapEnt
deriving DecidableEq, Repr, Inhabited

structure CmpState where
  slots : List (Nat × CmpSlot)
  jobs : List Job
  feeds : List (Nat × FeedCode)
  late : Nat
  /-- context that holds the compression slot of each coder -/
  slot : List (Option Nat)
deriving DecidableEq, Repr, Inhabited

/-! ### Motion, heaters, coolant (spec/14) -/

/-- An axis (R421 to R432, R444, R445): state code, mode, trajectory, counters, the records in force since it
was energised, the last frames, what it waits for, its sample history newest first: tick, position, missing. -/
structure Axis where
  st : Nat
  auto : Bool
  held : Bool
  limp : Bool
  limn : Bool
  brkRel : Bool
  en : Bool
  ready : Bool
  drvFault : Bool
  cause : Nat
  encMiss : Nat
  spiErr : Nat
  spiRun : Nat
  encRun : Nat
  ferrRun : Nat
  seq : Nat
  /-- the quadrature counter, the count latched at the last tick, the counts of the Z edges -/
  count : Int
  latched : Int
  zEdges : List Int
  quadBad : Bool
  p : Q
  v : Q
  a : Q
  target : Q
  meas : Q
  velCmd : Int
  torque : Int
  prm : List Word
  enc : List Word
  /-- a target that the next tick takes; the commanded velocity of the last tick, in units; AXIS_CLEAR waits for
  limits and drive -/
  next : Option Q
  vPrev : Q
  clearing : Bool
  /-- the safe-stop ramp has ended and the brake time runs -/
  braking : Bool
  hist : List (Nat × Q × Bool)
deriving DecidableEq, Repr, Inhabited

/-- A heater channel (R437, R438, R446). -/
structure Heater where
  en : Bool
  set : Nat
  kp : Nat
  ki : Nat
  kh : Nat
  tau : Nat
  theta : Nat
  maxDuty : Nat
  tMax : Nat
  next : Option (List Nat)
  m : Q
  hist : List Q
  integ : Q
  u : Q
  sensorBad : Bool
  overs : Bool
  satur : Bool
  temp : Int
deriving DecidableEq, Repr, Inhabited

structure MotionState where
  axes : List Axis
  heaters : List Heater
  manual : Bool
  gain : Nat
  /-- focus index of the controller, and focus distance it holds (R435) -/
  focusIdx : Q
  focusD : Q
  /-- frame statistics received: frame, histogram, grid -/
  stats : List (Nat × List Nat × List Int)
  /-- mid-exposure times received: stream, frame, row, t_m, received at -/
  tm : List (Nat × Nat × Nat × Nat × Nat × Nat)
  /-- row poses sent to the Gallery -/
  posesSent : List Pose
  latchM : Bool
  latchH : Bool
  armed : Bool
  missedArm : Nat
  /-- °C -/
  inlet : Q
  outlet : Q
  tj : Q
  /-- L/min -/
  flow : Q
  pulses : List Nat
  flowSeen : Bool
  coolBad : Bool
  crit : Bool
  level : Nat
  lockout : Bool
  /-- the present level was driven by the flow -/
  byFlow : Bool
  /-- a Grave fault of the island stands: no setpoints, no row poses (R460) -/
  halted : Bool
deriving DecidableEq, Repr, Inhabited

/-! ### Islands, JTAG (spec/01, spec/17) -/

/-- A clock island (R27): clock state, measured frequency in MHz. The PWR field comes from its domain. -/
structure Island where
  locked : Bool
  freq : Nat
deriving DecidableEq, Repr, Inhabited

/-- The test access port (R521, R522): instruction, boundary register bits, selected register. -/
structure JtagState where
  ir : Nat
  boundary : List Bool
deriving DecidableEq, Repr, Inhabited

/-- Landing latches: the transport flit checks have no state. -/
structure MiscState where
  islands : List Island
  scMap : List Nat
  jtag : JtagState
deriving DecidableEq, Repr, Inhabited

/-- The whole part. -/
structure State where
  /-- commands that wait, first in, first out (the block's own queue; DESIGN CHOICE: log entry 1) -/
  pending : List Instr
  /-- gPTP time of the part in ns -/
  now : Nat
  /-- the model's own counter of free values drawn (DESIGN CHOICE: log entries 6 and 86) -/
  free : Nat
  fc : FaultState
  pw : PowerState
  nw : NewelState
  sec : SecState
  cx : CtxState
  cc : ConcState
  mem : MemState
  ring : RingState
  ob : OutState
  num : NumState
  mh : HallsState
  gal : GalState
  tt : TtState
  sh : ShaderState
  hp : HouseState
  rs : RasterState
  cm : CmpState
  mc : MotionState
  ms : MiscState
deriving DecidableEq, Repr, Inhabited

/-! ### The state after a power-on reset (R486, R487, the Reset columns of the registers)

Powered, RESET_N high, before reset release: nothing runs, every register at the reset value its table gives.
What the flash and the fuses hold (firmware image, security configuration, calibration, boot record) has no
reset value in the manual: the values here are the model's (log entries). -/

def noStream : Stream := ⟨false, false, 0, 0, [], [], [], [], [0, 0, 0, 0], [], [], [], 0, false, []⟩

/-- (DESIGN CHOICE: log entry 7). -/
def resetFaults : FaultState :=
  ⟨[], [], [], 0, 0, ⟨false, false, 0, 0, 0, 0, 0, 0⟩, 0, 0, 0, 0, 0, 0, 0, List.replicate 21 ⟨0, 0, 0⟩, [], [], [],
   List.replicate 4 (List.replicate 16 0xFFFF), List.replicate 4 (List.replicate 16 0xFFFF),
   List.replicate 4 false, List.replicate 4 false, [], []⟩

/-- The pins before Dynov acts (R487, start-up column). -/
def resetPins : Pins := ⟨.low, .low, .low, .low, .low, .low, .low, .high, .low, .low, false, true, true⟩

/-- (DESIGN CHOICE: log entry 7, DESIGN CHOICE: log entry 8). -/
def resetPower : PowerState :=
  ⟨.run, false, none, false, 1, 0, 0, 0, 0, List.replicate 12 ⟨0, 0, false, [], false, []⟩, List.replicate 8 true,
   resetPins, [], false, false, [], false, false, false, ⟨false, []⟩, false, false, false, false⟩

/-- (DESIGN CHOICE: log entry 7, DESIGN CHOICE: log entry 8). -/
def resetNewel : NewelState :=
  ⟨[], false, 0, [], [], [], [], [], [], 0, [0, 0, 0, 0], 0, 1, true, 0, 0, [], ⟨0, false, []⟩, ⟨0, false, []⟩, true, 2, []⟩

/-- (DESIGN CHOICE: log entry 8). -/
def resetFw : FwImage := ⟨true, 1, 0, 0, 8388608, List.replicate 64 0⟩

/-- (DESIGN CHOICE: log entry 7, DESIGN CHOICE: log entry 8). -/
def resetSec : SecState :=
  ⟨[], false, false, false, 0, false, 0, 0, 0, 0, 0,
   ⟨List.replicate 64 0, false, 0x0100, 0x0100, 0x88B5, 0⟩, resetFw, resetFw, [], none, 0, 0, 0, []⟩

/-- 45 GiB of 64 KiB frames (R166). (DESIGN CHOICE: log entry 7). -/
def resetContexts : CtxState := ⟨[], 1, [], [], [], [(0, 737280)], [], [], 0, [], [], 0, []⟩

/-- (DESIGN CHOICE: log entry 7). -/
def resetMem : MemState := ⟨[], [], [], 0, 0, [0, 0], [0, 0], [], false, 0, 0, 0⟩

def resetPort : Port := ⟨false, false, false, false, 0, 0, 0, 0, 0, 0, 0, [], [], 0, 0, 0⟩

/-- (DESIGN CHOICE: log entry 7). -/
def resetRing : RingState := ⟨[resetPort, resetPort], false, [], [], false, false, 0, 0, 0, 0, 0, 0, 0, 0⟩

/-- (DESIGN CHOICE: log entry 7). -/
def resetHall : HallState := ⟨[], [], [], [], [], [], [], 0, 0, false, false, false, 0, 0, [], [], 0, 0, 0, []⟩

/-- (DESIGN CHOICE: log entry 7). -/
def resetTt : TtState :=
  ⟨false, 0, 0, none, none, 0, 0, 0, 0, 0, 0, false, [], [], [], List.replicate 8 ⟨0, 0, 0, false⟩,
   List.replicate 4 none, List.replicate 4 none, [], [], false⟩

/-- (DESIGN CHOICE: log entry 7). -/
def resetCore : Core := ⟨0, 0, 0, 0, [], [], [], [], List.replicate 16 ⟨0, false, 0, 0, none⟩, [], []⟩

/-- (DESIGN CHOICE: log entry 7). -/
def resetHouse : HouseState :=
  ⟨none, false, false, false, false, false, [noStream, noStream], List.replicate 4 ⟨0, false, 0, 0, false⟩, [], 0, 0, 0, [0, 0],
   [], 0, 0, [], 0, List.replicate 16 0, List.replicate 16 0, 0, 0, [], [], [[], []], [], [none, none], [], false⟩

/-- (DESIGN CHOICE: log entry 7). -/
def resetAxis : Axis :=
  ⟨0, false, false, false, false, false, false, false, false, 0, 0, 0, 0, 0, 0, 0, 0, 0, [], false, ⟨0, 1⟩, ⟨0, 1⟩, ⟨0, 1⟩, ⟨0, 1⟩,
   ⟨0, 1⟩, 0, 0, [], [], none, ⟨0, 1⟩, false, false, []⟩

/-- (DESIGN CHOICE: log entry 7). -/
def resetHeater : Heater :=
  ⟨false, 0, 0, 0, 0, 0, 0, 0, 0, none, ⟨0, 1⟩, [], ⟨0, 1⟩, ⟨0, 1⟩, false, false, false, 0⟩

/-- (DESIGN CHOICE: log entry 7). -/
def resetMotion : MotionState :=
  ⟨List.replicate 6 resetAxis, [resetHeater, resetHeater], false, 256, ⟨0, 1⟩, ⟨0, 1⟩, [], [], [], false, false, false, 0,
   ⟨-64, 1⟩, ⟨-64, 1⟩, ⟨-64, 1⟩, ⟨0, 1⟩, [], false, false, false, 0, false, false, false⟩

/-- IDCODE is the instruction after test-logic reset (R521). (DESIGN CHOICE: log entry 7). -/
def resetMisc : MiscState :=
  ⟨(List.range 21).map fun i => ⟨decide (i < 17), 0⟩, List.replicate 4 0x76543210, ⟨2, []⟩⟩

/-- The machine right after a power-on reset. (DESIGN CHOICE: log entry 3, DESIGN CHOICE: log entry 7). -/
def State.reset : State :=
  { pending := [], now := 0, free := 0, fc := resetFaults, pw := resetPower, nw := resetNewel, sec := resetSec,
    cx := resetContexts, cc := ⟨[], [], [], 0, 0, 0, 0⟩, mem := resetMem, ring := resetRing,
    ob := ⟨0, false, 0, 0, 0, false, [], [], 0, 0, 0, [], [], 0, [], [], [], []⟩, num := ⟨1, false, 0, false⟩,
    mh := ⟨List.replicate 4 resetHall, []⟩, gal := ⟨[], 0⟩, tt := resetTt,
    sh := ⟨List.replicate 32 resetCore, [], 0⟩, hp := resetHouse,
    rs := ⟨[], 0, 0, none, [], [], [], [], [], []⟩, cm := ⟨[], [], [], 0, [none, none, none, none, none, none, none, none]⟩,
    mc := resetMotion, ms := resetMisc }

end Sys2Proof.Machine
end

