-- ==== Sys2Proof/Machine/Ops.lean ====
section
/-! DEFINITION. The operations every unit shares: device memory and its translation (spec/06), fault
messages (spec/15), mailboxes, outbound words, events and notices (spec/09), frames the part sends
(spec/13). -/

namespace Sys2Proof.Machine
open Sys2Proof

abbrev Out := Host.Outcome State Fault Refusal

/-- A second, an hour, a day in ns. -/
def nsSec : Nat := 1000000000
def nsHour : Nat := 3600 * nsSec
def nsDay : Nat := 24 * nsHour

/-! ### Codes of R523, units of R449, fault kinds of R531 -/

def cOK : Nat := 0x00
def cVERSION : Nat := 0x03
def cRESERVED : Nat := 0x04
def cRANGE : Nat := 0x05
def cBOUNDS : Nat := 0x07
def cABORTED : Nat := 0x0B
def cMEMFAULT : Nat := 0x15
def cNOTGRANTED : Nat := 0x17
def cFENCEERROR : Nat := 0x40
def cWAITTIMEOUT : Nat := 0x41
def cFENCECYCLE : Nat := 0x42
def cBADHANDLE : Nat := 0x43
def cBADCOMMAND : Nat := 0x44
def cLINKDOWN : Nat := 0x60
def cCPLERROR : Nat := 0x61
def cCPLTIMEOUT : Nat := 0x62
def cWRONGMODE : Nat := 0x63
def cBUSY : Nat := 0x80
def cDENIED : Nat := 0x81
def cQUOTA : Nat := 0x82
def cNOMEMORY : Nat := 0x83
def cINUSE : Nat := 0x84
def cBADSTATE : Nat := 0x85
def cBADMODE : Nat := 0x86
def cNOTREADY : Nat := 0x87
def cBADSIGNATURE : Nat := 0x88
def cFACTORYONLY : Nat := 0x89
def cUNKNOWNOP : Nat := 0x8F
def cNOSLOT : Nat := 0x93

def uGallery : Nat := 64
def uCompression : Nat := 65
def uOutbound : Nat := 66
def uConcourse : Nat := 67
def uLanding : Nat := 68
def uNewel : Nat := 69
def uMotion : Nat := 70
def uCollector : Nat := 71
def uPort (p : Nat) : Nat := 76 + p

/-- No context, no queue, in a fault message (R448). -/
def noCtx : Nat := 0xFFF
def noQueue : Nat := 0x7FF

/-! ### Device memory -/

/-- The byte at a physical address; an unlisted byte reads zero (R176: a frame is zeroed before use).
(DEDUCED: log entry 9). -/
def memGet : List Host.Cell → Nat → Byte
  | [], _ => 0
  | (k, b) :: r, a => if k = a then b else memGet r a

/-- Remove the entry of an address. -/
def memDrop (m : List Host.Cell) (a : Nat) : List Host.Cell := m.filter fun p => p.1 != a

/-- Insert a byte that is not zero, keeping the addresses rising. -/
def memIns : List Host.Cell → Nat → Byte → List Host.Cell
  | [], a, b => [(a, b)]
  | (k, c) :: r, a, b =>
    if a < k then (a, b) :: (k, c) :: r else if a = k then (a, b) :: r else (k, c) :: memIns r a b

/-- Write one byte in canonical form: a zero byte is not listed. (DEDUCED: log entry 9). -/
def memPut (m : List Host.Cell) (a : Nat) (b : Byte) : List Host.Cell :=
  if b = 0 then memDrop m a else memIns m a b

/-- Read `n` bytes. -/
def memGetN (m : List Host.Cell) (a n : Nat) : List Byte := (List.range n).map fun i => memGet m (a + i)

/-- Write bytes at rising addresses. -/
def memPutN : List Host.Cell → Nat → List Byte → List Host.Cell
  | m, _, [] => m
  | m, a, b :: bs => memPutN (memPut m a b) (a + 1) bs

/-- Forget the bytes of an address range. -/
def memClear (m : List Host.Cell) (base len : Nat) : List Host.Cell :=
  m.filter fun p => p.1 < base || base + len ≤ p.1

/-- The canonical form: addresses strictly rising, no zero byte listed. -/
def memWf : List Host.Cell → Bool
  | [] => true
  | [(_, b)] => b != 0
  | (a, b) :: (c, d) :: r => b != 0 && decide (a < c) && memWf ((c, d) :: r)

/-- Bytes of a 64 KiB frame. -/
def frameBytes : Nat := 65536

/-- Frame `i` of a list of runs. -/
def runFrame : List (Nat × Nat) → Nat → Option Nat
  | [], _ => none
  | (f, c) :: r, i => if i < c then some (f + i) else runFrame r (i - c)

def runCount (rs : List (Nat × Nat)) : Nat := rs.foldl (fun n p => n + p.2) 0

/-- Forget the bytes of every frame of the runs. -/
def memClearRuns (m : List Host.Cell) (rs : List (Nat × Nat)) : List Host.Cell :=
  rs.foldl (fun m p => memClear m (p.1 * frameBytes) (p.2 * frameBytes)) m

/-! ### Contexts and objects -/

def ctxOf (s : State) (id : Nat) : Option Ctx := tget s.cx.ctxs id

def isTenant (id : Nat) : Bool := id < 0x200
def isSystem (id : Nat) : Bool := 0x200 ≤ id && id < 0x208
def isCtx (id : Nat) : Bool := id < 0x208

def ctxState (s : State) (id : Nat) : CtxSt := ((ctxOf s id).map Ctx.st).getD .free

def setCtx (s : State) (id : Nat) (c : Ctx) : State := { s with cx := { s.cx with ctxs := tput s.cx.ctxs id c } }

def modCtx (s : State) (id : Nat) (f : Ctx → Ctx) : State := { s with cx := { s.cx with ctxs := tmod s.cx.ctxs id f } }

def objOf (s : State) (slot : Nat) : Option Obj := tget s.cx.objs slot

def setObj (s : State) (slot : Nat) (o : Obj) : State := { s with cx := { s.cx with objs := tput s.cx.objs slot o } }

/-- The handle of an object slot: generation and slot (R292). -/
def handleOf (slot : Nat) (o : Obj) : Nat := o.gen * 65536 + slot

/-- The object a handle names, while its slot holds that generation and is not FREE or FREEING: MEM_FREE
makes a handle stale at once (R292, R298). -/
def findObj (s : State) (h : Nat) : Option (Nat × Obj) :=
  match objOf s (h % 65536) with
  | some o => if o.gen = h / 65536 ∧ o.gen ≠ 0 ∧ o.st = .live then some (h % 65536, o) else none
  | none => none

def grantOf (o : Obj) (who : Nat) : Option Nat := tget o.grants who

/-- A named object: BAD_HANDLE when stale or unknown, NOT_GRANTED when the requester neither owns it nor
holds a grant of it (R525, check 6). (DEDUCED: log entry 14). -/
def needObj (s : State) (who h : Nat) : Except Nat (Nat × Obj) :=
  match findObj s h with
  | none => .error cBADHANDLE
  | some (sl, o) => if o.owner = who ∨ (grantOf o who).isSome then .ok (sl, o) else .error cNOTGRANTED

/-- A named object that only its owner may name: the operator driver naming a tenant's object, and a
grantee, get DENIED (R354, R523). (DEDUCED: log entry 14). -/
def needOwn (s : State) (who h : Nat) : Except Nat (Nat × Obj) :=
  match findObj s h with
  | none => .error cBADHANDLE
  | some (sl, o) =>
    if o.owner = who then .ok (sl, o)
    else if (who = 0x300 ∧ isTenant o.owner) ∨ (grantOf o who).isSome then .error cDENIED
    else .error cNOTGRANTED

/-! ### Translation (R165 to R170) -/

def findMap (s : State) (ctx va : Nat) : Option Mapping :=
  (tgetD s.cx.maps ctx []).find? fun m => m.va ≤ va && va < m.va + m.len

/-- Where an access lands: a device-memory byte with its domain and policy, or a window byte. -/
inductive Place where
  | mem (pa domain policy : Nat)
  | window (bar off : Nat)
deriving DecidableEq, Repr

/-- Translate one byte. `need` is the permission bit: 1 R, 2 W, 4 X. The error is CAUSE of R171.
(DESIGN CHOICE: log entry 11). -/
def translate (s : State) (ctx va need : Nat) : Except Nat Place :=
  if va < 0x10000 then .error 2
  else if 0xFFFF00000000 ≤ va then .error 3
  else match findMap s ctx va with
    | none => .error 0
    | some m =>
      if m.perm / need % 2 = 0 then .error 1
      else match objOf s m.slot with
        | none => .error 0
        | some o =>
          let off := m.off + (va - m.va)
          if o.policy = 2 then .ok (.window o.bar (o.barOff + off))
          else match runFrame o.runs (off / frameBytes) with
            | none => .error 0
            | some f => .ok (.mem (f * frameBytes + off % frameBytes) o.owner o.policy)

/-! ### The Mezzanine (R172, R173) -/

/-- The domains to which ways 0 to 3 of every set are reserved (R172). -/
def sysDomain (d : Nat) : Bool := isSystem d || d == 0x300 || d == 0x310

/-- The set that a line hashes to, of the 32 slices of 768 sets (R172). (DESIGN CHOICE: log entry 10). -/
def mzPlace (line : Nat) : Nat := Config.mzSlice line % 32 * 768 + Config.mzSet line % 768

/-- Ways a domain may allocate in, in the order it tries them: a system domain its reserved ways first. -/
def mzWays (d : Nat) : List Nat := if sysDomain d then List.range 16 else (List.range 16).drop 4

/-- The way of a set that a miss of a domain takes: a free one, else that of the least recently used line among
those it may evict (R172). (DESIGN CHOICE: log entry 10). -/
def mzVictim (ls : List MzLine) (set d : Nat) : Nat :=
  let here := ls.filter fun l => mzPlace l.line == set && l.way.isSome
  match (mzWays d).find? fun w => !(here.any fun l => l.way == some w) with
  | some w => w
  | none => ((here.reverse.find? fun l => (mzWays d).contains (l.way.getD 16)).bind MzLine.way).getD 4

/-- An access to a byte makes its line the most recently used; a miss allocates a way and evicts the line that held
it. A write marks the byte dirty (R172). (DESIGN CHOICE: log entry 10). -/
def mzUse (wr : Bool) (ls : List MzLine) (pa d : Nat) : List MzLine :=
  let line := pa / 128
  let old := ls.find? fun l => l.line == line
  let way := (old.bind MzLine.way).getD (mzVictim ls (mzPlace line) d)
  let kept := ((old.filter fun l => l.way.isSome).map MzLine.dirty).getD 0
  let gone (l : MzLine) : Bool := l.way == some way && mzPlace l.line == mzPlace line
  ⟨line, d, some way, if wr then kept ||| 2 ^ (pa % 128) else kept⟩
    :: (ls.filter fun l => l.line != line).map fun (l : MzLine) =>
        { l with way := if gone l then none else l.way, dirty := if gone l then 0 else l.dirty }

/-- The Mezzanine's tag check: a hit on a line of another tag is refused with CAUSE 4 (R173).
(DESIGN CHOICE: log entry 10). -/
def tagOk (s : State) (pa domain : Nat) : Bool :=
  match s.mem.mz.find? fun l => l.line == pa / 128 with
  | none => true
  | some l => l.tag == domain || l.way.isNone

/-- Translate `n` bytes for an access to device memory; WINDOW pages are no device memory.
(DESIGN CHOICE: log entry 11). -/
def translateN (s : State) (ctx va n need : Nat) : Except Nat (List (Nat × Nat)) :=
  (List.range n).mapM fun i =>
    match translate s ctx (va + i) need with
    | .error c => .error c
    | .ok (.mem pa d _) => if tagOk s pa d then .ok (pa, d) else .error 4
    | .ok (.window _ _) => .error 1

/-- Bits that changed in a byte, as bits of a byte count. -/
def onesOf (b : Byte) : Nat := (List.range 8).foldl (fun n i => n + if b.getLsbD i then 1 else 0) 0

/-- Bytes [k, k + n) of a pattern. -/
def chunk (e : List Byte) (k n : Nat) : List Byte := (e.drop k).take n

/-- How the code over stored bits judges a pattern of changed bits (R188): 0 nothing changed, 1 corrected, 2 not
correctable. The slice's SECDED corrects one bit of each 64; the symbol code of HBM corrects one byte of each 32 B. -/
def upsetClass (u : Upset) : Nat :=
  let per (k n : Nat) (w : List Byte → Nat) : List Nat := (List.range k).map fun i => w (chunk u.flips (n * i) n)
  let worst := if u.hbm then per 2 32 fun c => (c.filter fun b => b != 0).length
               else per 8 8 fun c => c.foldl (fun n b => n + onesOf b) 0
  if worst.any fun n => 2 ≤ n then 2 else if worst.any fun n => n == 1 then 1 else 0

/-- Some byte of an access lies in a flit with an error that its code cannot correct (R190). -/
def lost (s : State) (ps : List (Nat × Nat)) : Bool :=
  s.mem.upsets.any fun u => upsetClass u == 2 && ps.any fun p => p.1 / 64 * 64 == u.addr

/-- The bytes at translated places; 8, which is no CAUSE of R171, where the read ends with an error indication
(R190). (DESIGN CHOICE: log entry 94). -/
def memRead (s : State) (ps : List (Nat × Nat)) : Except Nat (List Byte) :=
  if lost s ps then .error 8 else .ok (ps.map fun p => memGet s.mem.cells p.1)

/-- Read bytes of device memory through a context's mappings. -/
def devRead (s : State) (ctx va n : Nat) : Except Nat (List Byte) := (translateN s ctx va n 1).bind (memRead s)

/-- Fetch bytes of a program object (R134, R167: the X permission). -/
def devFetch (s : State) (ctx va n : Nat) : Except Nat (List Byte) := (translateN s ctx va n 4).bind (memRead s)

/-- The lines a read allocates in the Mezzanine, under its domain's tag (R172). (DESIGN CHOICE: log entry 10). -/
def touchLines (s : State) (ps : List (Nat × Nat)) : State :=
  { s with mem := { s.mem with mz := ps.foldl (fun t p => mzUse false t p.1 p.2) s.mem.mz } }

/-- The lines a write allocates and marks dirty; a flit written whole gets a code of its own, and what had changed in
its stored bits is gone (R172, R190). (DESIGN CHOICE: log entry 10, DESIGN CHOICE: log entry 94). -/
def writeLines (s : State) (ps : List (Nat × Nat)) : State :=
  { s with mem := { s.mem with
      mz := ps.foldl (fun t p => mzUse true t p.1 p.2) s.mem.mz,
      upsets := s.mem.upsets.filter fun u => !((List.range 64).all fun i => ps.any fun p => p.1 == u.addr + i) } }

def putBytes (m : List Host.Cell) : List (Nat × Nat) → List Byte → List Host.Cell
  | p :: ps, b :: bs => putBytes (memPut m p.1 b) ps bs
  | _, _ => m

/-- Write bytes of device memory through a context's mappings; all of them or none. -/
def devWrite (s : State) (ctx va : Nat) (bs : List Byte) : Except Nat State :=
  (translateN s ctx va bs.length 2).map fun ps =>
    writeLines { s with mem := { s.mem with cells := putBytes s.mem.cells ps bs } } ps

/-- Where an access to a range failed, and CAUSE: its first refused byte, else the first byte of a read that ends with an
error indication, with 8 (`memRead`); the start of the range while there is neither. -/
def faultAt (s : State) (ctx va n need : Nat) : Nat × Nat :=
  let first (why : Nat → Option Nat) : Option (Nat × Nat) := (List.range n).findSome? fun i => (why (va + i)).map fun c => (va + i, c)
  let refused (a : Nat) : Option Nat :=
    match translateN s ctx a 1 need with
    | .error c => some c
    | .ok _ => none
  let bad (a : Nat) : Option Nat :=
    match translateN s ctx a 1 need with
    | .error _ => none
    | .ok ps => if lost s ps then some 8 else none
  ((first refused).or (if need = 2 then none else first bad)).getD (va, 0)

/-! ### The shader cores' caches at a system-scope fence (R182, R184) -/

/-- Write back the dirty bytes of a line of a core's data cache. -/
def flushLine (m : List Host.Cell) (l : CacheLine) : List Host.Cell :=
  ((List.range 128).filter fun i => l.dirty.getD i false).foldl (fun m i => memPut m (l.addr + i) (l.data.getD i 0)) m

/-- The line after its write-back. -/
def washed (l : CacheLine) : CacheLine := { l with dirty := List.replicate 128 false }

def clean (l : CacheLine) : Bool := l.dirty.all fun d => !d

/-- The dirty bytes of a line with the tag that their translation produced. -/
def dirtyBytes (l : CacheLine) : List (Nat × Nat) :=
  ((List.range 128).filter fun i => l.dirty.getD i false).map fun i => (l.addr + i, l.tag)

/-- A fault of a slice: the line's physical address (R173, R449). -/
def tagFault (ctx pa : Nat) : FaultMsg :=
  ⟨0x370, 0x21, 80 + Config.mzSlice (pa / 128) % 32, ctx, noQueue, 0, pa, 0xFFFF, 0, []⟩

/-- A core writes back the dirty bytes of a line: a slice that holds the line under another tag refuses them and
reports it (R173, R182). -/
def writeBack (s : State) (l : CacheLine) : State :=
  if clean l then s
  else if tagOk s l.addr l.tag then writeLines { s with mem := { s.mem with cells := flushLine s.mem.cells l } } (dirtyBytes l)
  else { s with fc := { s.fc with wire := s.fc.wire ++ [tagFault l.tag (l.addr / 128 * 128)] } }

/-- System-scope release of what commands wrote (R184, R301, R310): every core's dirty bytes are written back.
(DEDUCED: log entry 102). -/
def sysRelease (s : State) : State :=
  let t := s.sh.cores.foldl (fun s c => c.cache.foldl writeBack s) s
  { t with sh := { s.sh with cores := s.sh.cores.map fun c => { c with cache := c.cache.map washed } } }

/-- Before a mapping goes, the accesses translated through it complete: the cores write back the dirty bytes of the lines
it reached and drop those lines (R169). (DEDUCED: log entry 25). -/
def dropLines (s : State) (hit : Nat → Bool) : State :=
  let t := s.sh.cores.foldl (fun s c => (c.cache.filter fun l => hit l.addr).foldl writeBack s) s
  { t with sh := { s.sh with cores := s.sh.cores.map fun c =>
      { c with cache := c.cache.filter fun l => !hit l.addr, tex := c.tex.filter fun l => !hit l.1 } } }

/-- A line after an acquire: its clean bytes are those that memory holds, so that a later load observes what was made
visible; its dirty bytes stay (R180, R182). (DEDUCED: log entry 102). -/
def freshLine (m : List Host.Cell) (l : CacheLine) : CacheLine :=
  { l with data := (List.range 128).map fun i => if l.dirty.getD i false then l.data.getD i 0 else memGet m (l.addr + i) }

/-- A core after a device-scope or system-scope acquire: its clean lines and its texture cache are dropped (R182).
(DEDUCED: log entry 102). -/
def acquired (m : List Host.Cell) (c : Core) : Core :=
  { c with cache := (c.cache.filter fun l => !clean l).map (freshLine m), tex := [] }

/-- System-scope acquire of a command (R184, R310): on every core. (DEDUCED: log entry 102). -/
def sysAcquire (s : State) : State := { s with sh := { s.sh with cores := s.sh.cores.map (acquired s.mem.cells) } }

/-- The reserved masks of a structure's words against its words. -/
def rsvOk : List Word → List Word → Bool
  | w :: ws, m :: ms => (w &&& m == 0) && rsvOk ws ms
  | _, _ => true

/-- R8 on a size-and-version word: version 1, and SIZE at least the `n` bytes the part defines. -/
def headOk (w : Word) (n : Nat) : Bool := bits w 15 8 == 1 && decide (n ≤ bits w 31 16)

/-- R8 and R9 on a structure read for SIZE bytes: at least `n` bytes of version 1, reserved bits and trailing
bytes zero. (DEDUCED: log entry 12). -/
def structOk (ws : List Word) (n : Nat) (rsv : List Word) : Option Nat :=
  if ¬ headOk (wd ws 0) n then some cVERSION
  else if ¬ rsvOk (ws.drop 1) rsv ∨ ¬ allZero (ws.drop (n / 4)) then some cRESERVED
  else none

/-- Bytes as words; the bytes of a last part word are its low bytes. (DESIGN CHOICE: log entry 100). -/
def padWords (bs : List Byte) : List Word := bytesWords (bs ++ List.replicate ((4 - bs.length % 4) % 4) 0)

/-- Read a structure of device memory: its size-and-version word, and where that passes R8, SIZE bytes of it; where
it does not, no other byte is read and the structure is that word alone. A SIZE that is no multiple of 4, which R7
says no structure has, is taken as it stands: SIZE bytes are read, and R9 judges them all.
(DEDUCED: log entry 12, DESIGN CHOICE: log entry 100). -/
def readStruct (s : State) (ctx va n need : Nat) : Except (Nat × Nat) (List Word) :=
  let rd (k : Nat) : Except (Nat × Nat) (List Word) :=
    match translateN s ctx va k need with
    | .error _ => .error (faultAt s ctx va k need)
    | .ok ps => match memRead s ps with
      | .error _ => .error (faultAt s ctx va k need)
      | .ok bs => .ok (padWords bs)
  match rd 4 with
  | .error e => .error e
  | .ok h => if headOk (wd h 0) n then rd (bits (wd h 0) 31 16) else .ok h

/-- Write to an object of the operator driver by offset, as Newel writes its rings (R462, R471). -/
def objWrite (s : State) (slot off : Nat) (bs : List Byte) : State :=
  match objOf s slot with
  | none => s
  | some o =>
    match runFrame o.runs (off / frameBytes) with
    | none => s
    | some f => { s with mem := { s.mem with cells := memPutN s.mem.cells (f * frameBytes + off % frameBytes) bs } }

/-- Read an object by offset. -/
def objRead (s : State) (o : Obj) (off n : Nat) : List Byte :=
  (List.range n).map fun i =>
    match runFrame o.runs ((off + i) / frameBytes) with
    | none => 0
    | some f => memGet s.mem.cells (f * frameBytes + (off + i) % frameBytes)

/-! ### Fault messages (R448, R450) -/

/-- Present a fault message at its crossing. -/
def raise (s : State) (m : FaultMsg) : State := { s with fc := { s.fc with wire := s.fc.wire ++ [m] } }

/-- A fault with no context, queue, object or command. -/
def plainFault (source kind unit arg addr : Nat) : FaultMsg :=
  ⟨source, kind, unit, noCtx, noQueue, arg, addr, 0xFFFF, 0, []⟩

/-- A fault of a context. -/
def ctxFault (source kind unit ctx arg addr : Nat) : FaultMsg :=
  ⟨source, kind, unit, ctx, noQueue, arg, addr, 0xFFFF, 0, []⟩

/-- A fault of a command of a queue. -/
def cmdFault (source kind unit : Nat) (r : CmdRef) (arg addr : Nat) : FaultMsg :=
  ⟨source, kind, unit, r.ctx, r.queue, arg, addr, r.cmd, 0, []⟩

/-- MEM_FAULT: KIND in [2:0] and CAUSE in [5:3] of ARG, the virtual address in ADDR (R170, R531). -/
def memFault (source unit : Nat) (r : CmdRef) (kind cause va : Nat) : FaultMsg :=
  cmdFault source 0x20 unit r (kind + 8 * cause) va

/-- Physical address behind a context's virtual address, whatever its permissions; 0 where there is none. -/
def physOf (s : State) (ctx va : Nat) : Nat :=
  ((findMap s ctx va).bind fun m => (objOf s m.slot).bind fun o =>
    let off := m.off + (va - m.va)
    (runFrame o.runs (off / frameBytes)).map fun f => f * frameBytes + off % frameBytes).getD 0

def noCmd (ctx : Nat) : CmdRef := ⟨ctx, noQueue, 0, 0xFFFF⟩

/-- A substitution is triggered (R464): it waits for its place. -/
def wantSpare (s : State) (res unit : Nat) : State :=
  if s.fc.substWait.any fun w => w.1 == res && w.2.1 == unit then s
  else { s with fc := { s.fc with substWait := s.fc.substWait ++ [(res, unit, s.tt.frame)] } }

/-! ### Mailboxes (R266 to R270) -/

def emptyMailbox : Mailbox := ⟨0, false, false, 0⟩

def mbxOf (s : State) (i : Nat) : Mailbox := tgetD s.nw.mbx i emptyMailbox

/-- Whether an index names a mailbox (R267), and its writer. -/
def mbxWriter (i : Nat) : Option Nat :=
  if i < 0x208 then some i
  else if i < 0x20C then some 0x300
  else if i = 0x210 then some 0x320
  else if i = 0x211 then some 0x330
  else if 0x212 ≤ i ∧ i ≤ 0x215 then some (0x340 + (i - 0x212))
  else if i = 0x216 then some 0x350
  else if i = 0x217 then some 0x360
  else if 0x400 ≤ i ∧ i < 0x608 then some (i - 0x400)
  else if i = 0x608 then some 0x300
  else if 0x800 ≤ i ∧ i ≤ 0xA0C then some 0x310
  else none

/-- A write to a mailbox: stores the word, or replaces it with COLLISION and a count (R268). -/
def mbxWrite (s : State) (i : Nat) (w : DWord) : State :=
  let m := mbxOf s i
  if m.full then
    { s with nw := { s.nw with mbx := tput s.nw.mbx i ⟨w, true, true, satInc 0xFFFF m.count⟩, collAny := true } }
  else { s with nw := { s.nw with mbx := tput s.nw.mbx i ⟨w, true, false, m.count⟩ } }

/-- A take clears FULL and COLLISION; the count stays (R268). -/
def mbxTake (s : State) (i : Nat) : State :=
  let m := mbxOf s i
  { s with nw := { s.nw with mbx := tput s.nw.mbx i { m with full := false, coll := false } } }

/-- A word with its identity in [63:52] (R266). -/
def stampWord (ident payload : Nat) : DWord := BitVec.ofNat 64 (ident * 2 ^ 52 + payload % 2 ^ 52)

def wordIdent (w : DWord) : Nat := bits w 63 52

/-- The request payload of R273. -/
def requestWord (ident op stage seq rsv lenW : Nat) : DWord :=
  stampWord ident (fld 44 8 op + fld 40 4 stage + fld 24 16 seq + fld 11 13 rsv + fld 0 11 lenW)

/-- Outbound mailbox of a context or of OP0 to OP3 (R267). -/
def outMbx (requestMbx : Nat) : Nat :=
  if requestMbx < 0x200 then 0x800 + requestMbx
  else if requestMbx < 0x208 then 0xA00 + (requestMbx - 0x200)
  else 0xA08 + (requestMbx - 0x208)

/-- Outbound mailbox of the events of an identity (R530). -/
def eventMbx (owner : Nat) : Nat :=
  if owner < 0x200 then 0x800 + owner else if owner < 0x208 then 0xA00 + (owner - 0x200) else 0xA0C

/-- Entries of an outbound queue open to events (R274): the two reserved entries are not. (DEDUCED: log entry 21). -/
def eventRoom (i : Nat) : Nat := if i = 0xA0C then 1024 else if 0xA08 ≤ i ∧ i < 0xA0C then 2 else 30

/-- Append an outbound word: into the mailbox while it is empty with nothing queued, else behind it (R270,
R274). (DEDUCED: log entry 21). -/
def outPush (s : State) (i : Nat) (w : OutWord) : State :=
  if ¬ (mbxOf s i).full ∧ tgetD s.nw.outq i [] = [] then
    { s with nw := { s.nw with mbx := tput s.nw.mbx i { mbxOf s i with word := w.word, full := true },
                               outq := tput s.nw.outq i [] } }
  else { s with nw := { s.nw with outq := tput s.nw.outq i (tgetD s.nw.outq i [] ++ [w]) } }

/-- An event word (R273): code, subject, argument, identity 0x310. -/
def eventWord (code subject arg : Nat) : DWord :=
  stampWord 0x310 (fld 44 8 code + fld 32 12 subject + fld 0 32 arg)

/-- Send an event to its owner; one that finds its queue full is dropped and counted (R274).
(DEDUCED: log entry 21). -/
def sendEvent (s : State) (owner code subject arg : Nat) : State :=
  let i := eventMbx owner
  let q := tgetD s.nw.outq i []
  if eventRoom i ≤ (q.filter fun w => w.kind = .event).length ∧ (mbxOf s i).full then
    { s with nw := { s.nw with lost := tput s.nw.lost owner (satInc 0xFFFF (tgetD s.nw.lost owner 0)) } }
  else outPush s i ⟨eventWord code subject arg, .event⟩

/-- State codes of R477; Off, thermal shutdown and an unpowered part have none. -/
def powerCode : Power → Nat
  | .run => 0 | .idle => 1 | .sleep => 2 | .deepSleep => 3 | _ => 0

/-- The part changes its power state: the event PWR_STATE with the wake source (R530). (DEDUCED: log entry 47). -/
def powerTo (s : State) (p : Power) (src : Nat) : State :=
  sendEvent { s with pw := { s.pw with st := p } } 0x300 0x8B 0xFFF (powerCode p + 16 * src)

/-- A reply word (R273). -/
def replyWord (op stage seq status : Nat) (coll dup : Bool) (detail : Nat) : DWord :=
  stampWord 0x310 (fld 44 8 op + fld 40 4 stage + fld 24 16 seq + fld 16 8 status + flg 15 coll + flg 14 dup
    + fld 0 14 detail)

/-- Write a notice: into the block's notice mailbox while it is empty, else held by the block (R270).
(DEDUCED: log entry 20). -/
def notify (s : State) (mbx code arg : Nat) : State :=
  let w := stampWord ((mbxWriter mbx).getD 0) (fld 44 8 code + fld 0 44 arg)
  if (mbxOf s mbx).full then
    { s with nw := { s.nw with heldNotices := tput s.nw.heldNotices mbx (tgetD s.nw.heldNotices mbx [] ++ [w]) } }
  else { s with nw := { s.nw with mbx := tput s.nw.mbx mbx ⟨w, true, false, (mbxOf s mbx).count⟩ } }

/-- Take a notice mailbox; the block then writes the next notice it holds (R270). (DEDUCED: log entry 20). -/
def takeNotice (s : State) (mbx : Nat) : State :=
  let s := mbxTake s mbx
  match tgetD s.nw.heldNotices mbx [] with
  | [] => s
  | w :: r =>
    { s with nw := { s.nw with heldNotices := tput s.nw.heldNotices mbx r,
                               mbx := tput s.nw.mbx mbx ⟨w, true, false, (mbxOf s mbx).count⟩ } }

/-! ### Sessions -/

def sessOf (s : State) (id : Nat) : Option Session := tget s.sec.sess id

def bound (s : State) (id : Nat) : Bool := ((sessOf s id).map Session.full).getD false
def provisional (s : State) (id : Nat) : Bool := ((sessOf s id).map fun x => !x.full).getD false

/-- The identity of a request mailbox's writer. -/
def mbxIdent (mbx : Nat) : Nat := if mbx < 0x208 then mbx else 0x300

/-- The staging entry of a session, in the table of all sessions' entries (R273). -/
def stageKey (ident stage : Nat) : Nat := ident * 16 + stage

/-! ### Frames the part sends (R386, R387, R399) -/

/-- Ports a frame of the part's own leaves on: both links, or the one that is up (R386). -/
def ownPorts (s : State) : Nat :=
  (if (s.ring.ports.getD 0 default).link then 1 else 0) + (if (s.ring.ports.getD 1 default).link then 2 else 0)

/-- next(x) of R399: XSEQ skips 0. -/
def nextXseq (x : Nat) : Nat := if x = 0xFFFFFFFF then 1 else x + 1

/-- The seal of the next part-to-tenant frame of a session: epoch and SEAL_SEQ (R364, R365). -/
def sealNext (s : State) (ident : Nat) : Bool × Nat × Nat :=
  match sessOf s ident with
  | some x => if x.full ∧ x.keyed then (true, x.txEpoch, x.txSeq + 1) else (false, 0, 0)
  | none => (false, 0, 0)

def bumpSeal (s : State) (ident : Nat) : State :=
  { s with sec := { s.sec with sess := tmod s.sec.sess ident fun x => if x.full ∧ x.keyed then { x with txSeq := x.txSeq + 1 } else x } }

/-- Hand a frame to egress: each of its ports with a secure channel spends a packet number (R389).
(DESIGN CHOICE: log entry 59). -/
def emit (s : State) (f : TxFrame) : State :=
  let spend (p : Nat) (x : Port) : Port := if f.ports / 2 ^ p % 2 = 1 ∧ x.scUp then { x with pnTx := x.pnTx + 1 } else x
  { s with ring := { s.ring with tx := s.ring.tx ++ [f], ports := upd (upd s.ring.ports 0 (spend 0)) 1 (spend 1) } }

/-- Send a frame on a transport session: a sequenced frame takes the next XSEQ and is held until it is
acknowledged; a frame of a full session is sealed (R364, R399). (DESIGN CHOICE: log entry 59). -/
def sendFrame (s : State) (ts type mbx stage : Nat) (sequenced : Bool) (payload : List Byte) : State :=
  match tget s.ring.ts ts with
  | none => s
  | some x =>
    let sl := if x.st = .full then sealNext s x.ident else (false, 0, 0)
    let xs := if sequenced then nextXseq x.xseq else 0
    let f : TxFrame := ⟨ts, type, mbx, stage, xs, x.xack, sl.1, sl.2.1, sl.2.2, payload, ownPorts s, 2, false, s.now, 64, x.mac⟩
    let x' := if sequenced then { x with xseq := xs, unacked := x.unacked ++ [f] } else x
    let s := emit { s with ring := { s.ring with ts := tput s.ring.ts ts x' } } f
    if x.st = .full then bumpSeal s x.ident else s

/-- Send to the session bound to an identity, if there is one. -/
def sendTo (s : State) (ident type mbx stage : Nat) (payload : List Byte) : State :=
  match sessOf s ident with
  | some x => sendFrame s x.ts type mbx stage true payload
  | none => s

/-- Draw a free value: the counter it is a function of (the model's own field). (DESIGN CHOICE: log entry 6). -/
def draw (s : State) : State := { s with free := s.free + 1 }

/-- gPTP time as the 64-bit TIME fields hold it. -/
def timeWords (s : State) : List Word := [lo32 s.now, hi32 s.now]

end Sys2Proof.Machine
end

