-- ==== Sys2Proof/Machine/Integrity.lean ====
section
/-! DEFINITION. Integrity of data on its way to device memory and back (spec/06, R188 to R195): the checks of each hop,
the errors of stored bits that a read meets, retirement of HBM frames, and how a refused or failed access is
reported. -/

namespace Sys2Proof.Machine
open Sys2Proof

/-! ### The checks of each hop (R188, R189) -/

/-- A 64 B flit between a client, a slice and a controller, with its transfer check. -/
structure Flit where
  data : List Byte
  check : Nat
deriving DecidableEq, Repr

/-- A flit as its sender computes it. -/
def flitOf (d : List Byte) : Flit := ⟨d, crc32c d⟩

/-- The receiver's verification; a mismatch raises XFER_CHECK and the data is delivered as it stands (R190). -/
def flitOk (f : Flit) : Bool := f.check == crc32c f.data

def xorBytes (a b : List Byte) : List Byte := List.zipWith (fun x y => x ^^^ y) a b

/-- The 64-bit words of a flit. -/
def flitWords (d : List Byte) : List Nat := (List.range 8).map fun i => ofLe (chunk d (8 * i) 8)

/-- A slice takes a flit: the SECDED bits of its words, over the data as received, and then the transfer check's
verdict (R188). -/
def sliceTakes (f : Flit) : List Nat × Bool := ((flitWords f.data).map fun w => Config.secded w % 256, flitOk f)

/-- Ciphertext of a line under its domain's key pair, the tweak being its line number (R175). -/
def cipherLine (s : State) (line d : Nat) (plain : List Byte) : List Byte :=
  match tget s.cx.keys d with
  | some k => Config.aesXts k.value line plain
  | none => []

/-- A controller takes a line: its ciphertext, the symbol code over each 32 B of it, and then the transfer checks'
verdicts (R188). -/
def controllerTakes (s : State) (line d : Nat) (a b : Flit) : List Byte × List Nat × Bool :=
  let c := cipherLine s line d (a.data ++ b.data)
  (c, (List.range 4).map fun i => Config.symbols (chunk c (32 * i) 32) % 2 ^ 32, flitOk a && flitOk b)

/-- The transfer check after a correction: XOR with the CRC-32C of the error pattern, without its initial and final
inversions (R189). -/
def fixCheck (c : Nat) (e : List Byte) : Nat := Nat.xor c (Nat.xor (crc32c e) (crc32c (List.replicate e.length 0)))

/-- A flit that a read brings: as its client gets it, corrected, or with an error indication. -/
structure ReadFlit where
  flit : Flit
  corrected : Bool
  failed : Bool
deriving DecidableEq, Repr

/-- A slice or a controller reads a flit: the transfer check over the data as read, then its own code. A slice corrects
the check with the data; a controller decrypts the corrected ciphertext and computes the check again (R189). -/
def readFlit (stored : List Byte) (u : Upset) : ReadFlit :=
  let seen := xorBytes stored u.flips
  if upsetClass u = 0 then ⟨flitOf stored, false, false⟩
  else if upsetClass u = 2 then ⟨flitOf seen, false, true⟩
  else if u.hbm then ⟨flitOf stored, true, false⟩
  else ⟨⟨xorBytes seen u.flips, fixCheck (flitOf seen).check u.flips⟩, true, false⟩

/-- Newel gives a domain a random key pair (R175). -/
def newKey (s : State) (id : Nat) : State :=
  { s with cx := { s.cx with keys := tput s.cx.keys id ⟨Config.randomBytes s.free 64, true⟩ }, free := s.free + 1 }

/-- The pair is overwritten with random bits, and then is unusable (R176). -/
def killKey (s : State) (id : Nat) : State :=
  { s with cx := { s.cx with keys := tmod s.cx.keys id fun _ => ⟨Config.randomBytes s.free 64, false⟩ }, free := s.free + 1 }

/-! ### HBM errors, retirement (R190 to R194) -/

/-- Remove one frame from runs. -/
def cutFrame (rs : List (Nat × Nat)) (f : Nat) : List (Nat × Nat) :=
  rs.flatMap fun p =>
    if p.1 ≤ f ∧ f < p.1 + p.2 then (if p.1 < f then [(p.1, f - p.1)] else []) ++ (if f + 1 < p.1 + p.2 then [(f + 1, p.1 + p.2 - f - 1)] else [])
    else [p]

def channelOf (s : State) (c : Nat) : Channel := tgetD s.mem.chans c ⟨[], 768, [], [], none, []⟩
def modChannel (s : State) (c : Nat) (f : Channel → Channel) : State :=
  { s with mem := { s.mem with chans := tput s.mem.chans c (f (channelOf s c)) } }

/-- The pseudo-channel of a physical address: HBM is interleaved across the 64 in 512 B units (ch.01, The Fabric). -/
def channelAt (pa : Nat) : Nat := pa / 512 % 64

/-- The object that holds a frame. -/
def frameObj (s : State) (f : Nat) : Option (Nat × Obj) :=
  s.cx.objs.find? fun p => p.2.st != .free && p.2.runs.any fun r => decide (r.1 ≤ f ∧ f < r.1 + r.2)

def frameDomain (s : State) (f : Nat) : Nat := ((frameObj s f).map fun p => p.2.owner).getD noCtx

/-- The next spare frame of a channel: the spare frames stand above the allocatable ones, 768 per channel.
(DEDUCED: log entry 76). -/
def spareFrame (x : Channel) (c : Nat) : Nat := 737280 + 768 * c + (768 - x.spareLeft)

/-- No spare left: the frame is withdrawn from the allocatable pool (R194). (DESIGN CHOICE: log entry 81). -/
def withdraw (s : State) (c f : Nat) : State :=
  let s := { s with cx := { s.cx with withdrawn := sins s.cx.withdrawn f, freeFrames := cutFrame s.cx.freeFrames f } }
  raise s (plainFault 0x370 0x29 (128 + c) 0 (f * frameBytes))

/-- A frame with an uncorrectable error is not copied: it stays while it is mapped, and its spare takes its place once
it is free (R193). -/
def retireBad (s : State) (c f sp : Nat) : State :=
  let s := modChannel s c fun x => { x with remap := tput x.remap f sp }
  let s := if (frameObj s f).isSome then { s with cx := { s.cx with badFrames := sins s.cx.badFrames f } } else s
  raise s (plainFault 0x370 0x28 (128 + c) 0 (f * frameBytes))

/-- Retirement begins (R193): copied in 16 units after corrected errors, one frame of a channel after the other; after
an uncorrectable error the frame is not copied, and a copy of it in progress or due ends.
(DESIGN CHOICE: log entry 81). -/
def retire (s : State) (c f : Nat) (unc : Bool) : State :=
  let x := channelOf s c
  if (tget x.remap f).isSome ∨ s.cx.withdrawn.contains f then s
  else match x.copying with
    | some (g, sp, _) =>
      if g = f then (if unc then retireBad (modChannel s c fun x => { x with copying := none }) c f sp else s)
      else if unc then fresh (modChannel s c fun x => { x with due := x.due.filter fun k => k != f }) c f
      else if x.due.contains f then s
      else modChannel s c fun x => { x with due := x.due ++ [f] }
    | none => if unc then fresh s c f else start s c f
where
  /-- After an uncorrectable error, with a spare of the channel if one is left. -/
  fresh (s : State) (c f : Nat) : State :=
    let x := channelOf s c
    if x.spareLeft = 0 then withdraw s c f
    else retireBad (modChannel s c fun x => { x with spareLeft := x.spareLeft - 1 }) c f (spareFrame x c)
  /-- The copy of a frame begins, with a spare of the channel if one is left. -/
  start (s : State) (c f : Nat) : State :=
    let x := channelOf s c
    if x.spareLeft = 0 then withdraw s c f
    else modChannel s c fun x => { x with copying := some (f, spareFrame x c, 0), spareLeft := x.spareLeft - 1 }

/-- The frame that holds unit `u` of 4 KiB of an allocatable frame: each unit copied in a retirement has its new place
at once, and a retired frame is its spare, but while an uncorrectable error leaves it in place (R193). -/
def unitFrame (s : State) (c f u : Nat) : Nat :=
  let x := channelOf s c
  match tget x.remap f, x.copying with
  | some sp, _ => if s.cx.badFrames.contains f then f else sp
  | none, some (g, sp, n) => if g = f ∧ u < n then sp else f
  | none, none => f

/-- An HBM error that the controller of channel `c` meets at a physical address (R190, R193).
(DESIGN CHOICE: log entry 81). -/
def hbmErrorAt (s : State) (c pa : Nat) (unc : Bool) : State :=
  let f := pa / frameBytes
  let st := c / 32
  let bump (l : List Nat) : List Nat := upd l st (satInc 0xFFFF)
  let m := ctxFault 0x370 (if unc then 0x26 else 0x25) (128 + c) (frameDomain s f) 0 pa
  if unc then
    retire (raise { s with mem := { s.mem with hbmUnc := bump s.mem.hbmUnc } } m) c f true
  else
    let s := raise { s with mem := { s.mem with hbmCorr := bump s.mem.hbmCorr } } m
    let ts := (tgetD (channelOf s c).errors f []).filter (fun t => decide (s.now < t + nsDay)) ++ [s.now]
    let s := modChannel s c fun x => { x with errors := tput x.errors f ts }
    if 4 ≤ ts.length then retire s c f false else s

/-- An HBM error that a scrub names by its frame. (DESIGN CHOICE: log entry 81). -/
def hbmError (s : State) (c f : Nat) (unc : Bool) : State := hbmErrorAt s c (f * frameBytes) unc

/-- Record an error of a row of an array and give how many the last 24 h had. -/
def rowTimes (s : State) (u row : Nat) : State × Nat :=
  let k := u * 2 ^ 20 + row
  let ts := (tgetD s.fc.rowErrs k []).filter (fun t => decide (s.now < t + nsDay)) ++ [s.now]
  ({ s with fc := { s.fc with rowErrs := tput s.fc.rowErrs k ts } }, ts.length)

/-- An error in a row of an SRAM array: an uncorrectable one, or the third corrected one in 24 h, asks for the spare row
of its sub-array (R19, R463, R464). -/
def rowError (s : State) (u row : Nat) (unc : Bool) : State :=
  let r := rowTimes s u row
  if unc ∨ 3 ≤ r.2 then wantSpare r.1 (1000 + u) row else r.1

/-- The row of its slice's SRAM that holds a line: set and way (R172). (DESIGN CHOICE: log entry 81). -/
def mzRow (s : State) (pa : Nat) : Nat :=
  mzPlace (pa / 128) % 768 * 16 + (((s.mem.mz.find? fun l => l.line == pa / 128).bind MzLine.way).getD 0)

/-- An error in the SRAM of a Mezzanine slice, at the physical address of its line (R190, R196, R463). -/
def sliceError (s : State) (u pa : Nat) (unc : Bool) : State :=
  let m := ctxFault 0x370 (if unc then 0x24 else 0x23) u (frameDomain s (pa / frameBytes)) 0 pa
  let s := if unc then raise { s with mem := { s.mem with mzUnc := satInc 0xFFFF s.mem.mzUnc } } m
    else raise { s with mem := { s.mem with mzCorr := satInc 0xFFFF s.mem.mzCorr } } m
  rowError s u (mzRow s pa) unc

/-- Stored bits that changed are met by a read or a scrub: the flit is read, what its code found is counted and reported by
what holds it, and the client verifies the transfer check it gets (R188 to R190). -/
def meetUpset (s : State) (u : Upset) : State :=
  let r := readFlit (memGetN s.mem.cells u.addr 64) u
  let s := if flitOk r.flit then s else raise s (plainFault 0x370 0x2B uConcourse 0 u.addr)
  if ¬ r.corrected ∧ ¬ r.failed then s
  else if u.hbm then hbmErrorAt s (channelAt u.addr) u.addr r.failed
  else sliceError s (80 + Config.mzSlice (u.addr / 128) % 32) u.addr r.failed

/-- What a read of placed bytes does besides bringing them: it allocates their lines, and each error that a code
corrects in their flits is reported; the data is not marked (R172, R190). -/
def sawRead (s : State) (ps : List (Nat × Nat)) : State :=
  touchLines ((s.mem.upsets.filter fun u => upsetClass u == 1 && ps.any fun p => p.1 / 64 * 64 == u.addr).foldl meetUpset s) ps

/-- The same for a range of a context's addresses. -/
def sawRange (s : State) (ctx va n need : Nat) : State :=
  match translateN s ctx va n need with
  | .ok ps => sawRead s ps
  | .error _ => s

/-- The same for a structure that `readStruct` read. -/
def sawStruct (s : State) (ctx va : Nat) (ws : List Word) : State := sawRange s ctx va (4 * ws.length) 1

/-! ### Accesses that are refused or fail (R170, R173, R190) -/

/-- A refused access: MEM_FAULT from the unit that made it, after MZ_TAG from the slice where the cause is a tag
conflict (R170, R173). -/
def raiseRefused (s : State) (m : FaultMsg) : State :=
  { s with fc := { s.fc with wire := s.fc.wire ++
      (if m.arg / 8 = 4 then [tagFault m.ctx (physOf s m.ctx m.addr), m] else [m]) } }

/-- An access that failed: a refused one, or a read that an uncorrectable error ended, which reports that error instead
(R190). -/
def raiseMem (s : State) (m : FaultMsg) : State :=
  if m.arg / 8 = 8 then
    match s.mem.upsets.find? fun u => upsetClass u == 2 && u.addr == physOf s m.ctx m.addr / 64 * 64 with
    | some u => meetUpset s u
    | none => s
  else raiseRefused s m

/-- An engine's read of a range: the bytes, or where it failed and CAUSE. -/
def readAt (s : State) (ctx va n : Nat) : Except (Nat × Nat) (State × List Byte) :=
  match devRead s ctx va n with
  | .error _ => .error (faultAt s ctx va n 1)
  | .ok b => .ok (sawRange s ctx va n 1, b)

/-- An engine's write of a range, or where it was refused and CAUSE. -/
def writeAt (s : State) (ctx va : Nat) (bs : List Byte) : Except (Nat × Nat) State :=
  match devWrite s ctx va bs with
  | .error _ => .error (faultAt s ctx va bs.length 2)
  | .ok s => .ok s

/-- The status of a command that a refused access or an uncorrectable error ended (R170, R190, R523). -/
def memCode (cause : Nat) : Nat := if cause = 8 then 0x0A else cMEMFAULT

/-- Read a structure of device memory for a command: the words, or, with its fault raised, the code that a failed read
ends the command with (R7, R170). -/
def fetchFrom (source unit : Nat) (s : State) (ref : CmdRef) (va n need : Nat) : Except (State × Nat) (State × List Word) :=
  match readStruct s ref.ctx va n need with
  | .error (a, c) => .error (raiseMem s (memFault source unit ref (if need = 4 then 3 else 0) c a), memCode c)
  | .ok w => .ok (sawRange s ref.ctx va (4 * w.length) need, w)

end Sys2Proof.Machine
end

