-- ==== Sys2Proof/Machine/Conc.lean ====
section
/-! DEFINITION. The Concourse: queue records, acceptance, command buffers, completion, fences, wait cycles,
queue faults and the end of a queue (spec/10, R299 to R322). -/

namespace Sys2Proof.Machine
open Sys2Proof

def queueOf (s : State) (q : Nat) : Option Queue := tget s.cc.queues q
def setQueue (s : State) (q : Nat) (x : Queue) : State := { s with cc := { s.cc with queues := tput s.cc.queues q x } }
def modQueue (s : State) (q : Nat) (f : Queue → Queue) : State := { s with cc := { s.cc with queues := tmod s.cc.queues q f } }
def fenceOf (s : State) (f : Nat) : Option Fence := tget s.cc.fences f
def modFence (s : State) (f : Nat) (g : Fence → Fence) : State := { s with cc := { s.cc with fences := tmod s.cc.fences f g } }

def queueStCode : QSt → Nat
  | .free => 0 | .active => 1 | .blocked => 2 | .faulted => 3 | .destroying => 4

def fenceStCode : FenceSt → Nat
  | .ok => 0 | .cancelled => 1 | .abandoned => 2 | .faulted => 3

/-- Opcodes of R307 and their lengths in words. -/
def cmdLen (op : Nat) : Option Nat :=
  match op with
  | 0x01 => some 6 | 0x02 => some 5 | 0x03 => some 5 | 0x04 => some 3 | 0x05 => some 3 | 0x06 => some 3
  | 0x07 => some 8 | 0x08 => some 6 | 0x09 => some 2 | 0x0A => some 2 | 0x10 => some 4 | 0x11 => some 4
  | _ => none

/-- IND bits an opcode defines (R307). -/
def cmdInd (op : Nat) : Nat :=
  match op with
  | 0x02 => 7 | 0x03 => 3 | 0x07 => 1 | _ => 0

/-- Reserved bits of the words after the header, by opcode (R307: bits [63:48] of an address, and the bits of
word 1 that hold no field). -/
def cmdRsv (op : Nat) : List Word :=
  match op with
  | 0x01 => [0xFFFFFFF8, 0, 0xFFFF0000, 0, 0xFFFF0000]
  | 0x02 => [0, 0xFFFF0000, 0, 0xFFFF0000]
  | 0x03 => [0, 0xFFFF0000, 0, 0xFFFF0000]
  | 0x04 => [0, 0xFFFF0000]
  | 0x05 => [0, 0xFFFF0000]
  | 0x06 => [0, 0xFFFF0000]
  | 0x07 => [0, 0xFFFF0000, 0, 0xFFFF0000, 0, 0, 0xFFFF0000]
  | 0x08 => [0xFFFFFFC0, 0, 0xFFFF0000, 0, 0xFFFF0000]
  | 0x09 => [0xFC00FFC0]
  | 0x0A => [0xFC00FFC0]
  | 0x10 => [0xFFFF8000, 0, 0]
  | 0x11 => [0xFFFFC000, 0, 0]
  | _ => []

/-- The header word and the words after it obey R306: a defined opcode, its length, no reserved bit, no IND
bit the opcode lacks. (DEDUCED: log entry 29). -/
def cmdGood (ws : List Word) : Bool :=
  let h := wd ws 0
  let op := bits h 31 24
  match cmdLen op with
  | none => false
  | some n =>
    bits h 23 16 == n && bits h 14 11 == 0 && bits h 7 0 == 0 && bits h 10 8 / (cmdInd op + 1) == 0
      && ((ws.drop 1).zip (cmdRsv op)).all fun p => p.1 &&& p.2 == 0

/-- A completion code that faults the queue (R309). -/
def faults (code : Nat) : Bool :=
  !(code == 0x00 || code == 0x30 || code == 0x33 || code == 0x0B || (0x50 ≤ code && code ≤ 0x54))

/-! ### References to objects (R298) -/

/-- A queue that is not FREE holds its ring and status objects and the objects its entries list. -/
def queueRefs (x : Queue) : List Nat :=
  if x.st = .free then [] else x.ringObj :: x.statusObj :: x.entries.flatMap Entry.objs

def objRefd (s : State) (slot : Nat) : Bool :=
  (s.cc.queues.any fun p => (queueRefs p.2).contains slot)
    || (s.rs.feeds.any fun p => (p.2.presents ++ p.2.layer.toList ++ p.2.leaving.map Prod.fst).any fun x => x.objs.contains slot)

/-- After references were dropped: every FREEING object among the slots that holds none is reported to Newel
(R298, R529 OBJ_UNREF). -/
def unref (s : State) (slots : List Nat) : State :=
  slots.eraseDups.foldl (fun s sl =>
    match objOf s sl with
    | some o => if o.st = .freeing ∧ ¬ objRefd s sl then notify s 0x210 0x03 (handleOf sl o) else s
    | none => s) s

/-! ### The queue status record (R301) -/

def statusWords (s : State) (x : Queue) : List Word :=
  [sizeVer' 64, reg [fld 0 3 (queueStCode x.st), fld 8 8 (if x.st = .faulted then x.faultCode else 0)],
   lo32 x.rptr, lo32 x.dptr, lo32 x.faultEntry, reg [fld 0 16 x.faultCmd]] ++ timeWords s
   ++ List.replicate 8 0
where sizeVer' (n : Nat) : Word := BitVec.ofNat 32 (n * 65536 + 0x0100)

/-- Write through a context's mapping; a refused write raises MEM_FAULT from the unit (R170). -/
def engineWrite (s : State) (source unit : Nat) (r : CmdRef) (va : Nat) (bs : List Byte) : State :=
  match devWrite s r.ctx va bs with
  | .ok s' => s'
  | .error _ =>
    let f := faultAt s r.ctx va bs.length 2
    raiseRefused s (memFault source unit r 1 f.2 f.1)

/-- The record follows a system-scope release (R301). -/
def writeStatus (s : State) (q : Nat) : State :=
  let s := sysRelease s
  match queueOf s q with
  | some x => engineWrite s 0x320 uConcourse ⟨x.owner, q, 0, 0xFFFF⟩ x.statusVa (wordBytes (statusWords s x))
  | none => s

/-! ### Command buffers (R304 to R306) -/

/-- Words of device memory, as the Concourse reads them for a queue. -/
def readWords (s : State) (ctx va n : Nat) : Except Nat (List Word) :=
  (devRead s ctx va (4 * n)).map bytesWords

/-- The commands left in a buffer from a position, each with its index and words, as far as they are good. -/
def restCmds (s : State) (ctx : Nat) : Nat → Entry → List (Nat × List Word)
  | 0, _ => []
  | fuel + 1, e =>
    if e.count ≤ e.idx then []
    else match readWords s ctx (e.cbVa + e.pos) 1 with
      | .error _ => []
      | .ok h =>
        match readWords s ctx (e.cbVa + e.pos) (bits (wd h 0) 23 16) with
        | .error _ => []
        | .ok ws =>
          if cmdGood ws then
            (e.idx, ws) :: restCmds s ctx fuel { e with pos := e.pos + 4 * ws.length, idx := e.idx + 1 }
          else []

/-- The header of a command buffer: its completion code when it fails R8, R9 or R305, else SIZE, CMD_COUNT
and COMP_VA. -/
def bufferHeader (h : List Word) : Except Nat (Nat × Nat × Nat) :=
  if bits (wd h 0) 15 8 ≠ 1 ∨ bits (wd h 0) 31 16 < 32 then .error cVERSION
  else if bits (wd h 1) 31 16 ≠ 0 ∨ bits (wd h 3) 31 16 ≠ 0 ∨ ¬ allZero (h.drop 4) then .error cRESERVED
  else if bits (wd h 1) 15 0 = 0 ∨ 8187 < bits (wd h 1) 15 0 ∨ dwd h 2 % 16 ≠ 0 ∨ 65532 < bits (wd h 0) 31 16 then
    .error cRANGE
  else .ok (bits (wd h 0) 31 16, bits (wd h 1) 15 0, dwd h 2)

/-- Open an entry's buffer: read and check its header. (DEDUCED: log entry 29). -/
def openEntry (s : State) (ctx : Nat) (e : Entry) : Except Nat Entry :=
  if e.opened then .ok e
  else match readWords s ctx e.cbVa 8 with
    | .error c => .error (0x100 + c)
    | .ok h =>
      match bufferHeader h with
      | .error c => .error c
      | .ok (size, n, comp) => .ok { e with opened := true, size := size, count := n, compVa := comp, pos := 32, idx := 0 }

/-- Undispatched commands of an entry. (DEDUCED: log entry 29). -/
def entryCmds (s : State) (ctx : Nat) (e : Entry) : List (Nat × List Word) :=
  if e.bad then []
  else match openEntry s ctx e with
    | .error _ => []
    | .ok e' => restCmds s ctx (e'.count - e'.idx) e'

/-- Fence and value a FENCE_WAIT or FENCE_SIGNAL names. -/
def cmdFence (ws : List Word) : Nat × Nat := (bits (wd ws 1) 13 0, dwd ws 2)

/-- The fences of which the queue holds a pending signal (R315): dispatched and undispatched FENCE_SIGNALs
that have not executed, with their values. -/
def pendingSignals (s : State) (x : Queue) : List (Nat × Nat) :=
  ((x.out.filter fun o => o.op == 0x11).map fun o => (o.fence, o.value))
    ++ x.entries.flatMap fun e =>
      ((entryCmds s x.owner e).filter fun c => bits (wd c.2 0) 31 24 == 0x11).map fun c => cmdFence c.2

/-- A command named by an accepted entry names the fence (R315, FENCE_DESTROY). -/
def fenceNamed (s : State) (f : Nat) : Bool :=
  s.cc.queues.any fun p =>
    (p.2.out.any fun o => (o.op == 0x11) && o.fence == f) || ((p.2.wait.map Blocked.fence) == some f)
    || p.2.entries.any fun e => (entryCmds s p.2.owner e).any fun c =>
        let op := bits (wd c.2 0) 31 24
        (op == 0x10 || op == 0x11) && (cmdFence c.2).1 == f

/-! ### Fences (R313 to R315) -/

/-- Right to wait (bit 0) or signal (bit 1) of a context on a fence. -/
def fenceRight (x : Fence) (ctx : Nat) : Nat := if x.owner = ctx then 3 else tgetD x.imports ctx 0

/-- VALUE becomes the larger of VALUE and the given value; STATUS stands (R313). -/
def raiseFence (s : State) (f v : Nat) : State := modFence s f fun x => { x with value := max x.value v }

/-- STATUS changes only from OK, but through FENCE_CLEAR (R314). -/
def failFence (s : State) (f : Nat) (st : FenceSt) : State :=
  modFence s f fun x => if x.st = .ok then { x with st := st } else x

/-- Whether a wait is satisfied, and the code it completes with (R313). -/
def waitResult (s : State) (b : Blocked) : Option Nat :=
  match fenceOf s b.fence with
  | none => some cFENCEERROR
  | some x =>
    if x.st ≠ .ok then some (if b.ignoreErr then cOK else cFENCEERROR)
    else if b.value ≤ x.value then some cOK else none

/-! ### Completion (R308 to R310, R318) -/

/-- The release of a completion, then the completion record of command i at COMP_VA + 16 i (R308, R310). -/
def compRecord (s : State) (source unit : Nat) (r : CmdRef) (compVa : Nat) (comp detail : Word) : State :=
  let s := sysRelease s
  if compVa = 0 then s
  else engineWrite s source unit r (compVa + 16 * r.cmd) (wordBytes ([comp, detail] ++ timeWords s))

/-- Entries at the front of which every command has completed leave the queue; RPTR counts them and their
references are dropped (R301, R303). (DEDUCED: log entry 32). -/
def retireEntries : Nat → State → Nat → State
  | 0, s, _ => s
  | fuel + 1, s, q =>
    match queueOf s q with
    | none => s
    | some x =>
      match x.entries with
      | [] => s
      | e :: r =>
        if e.opened ∧ ¬ e.bad ∧ e.count ≤ e.idx ∧ ¬ (x.out.any fun o => o.ref.entry == e.k)
            ∧ ¬ ((x.wait.map fun b => b.ref.entry) = some e.k) ∧ x.st ≠ .faulted then
          let s := setQueue s q { x with entries := r, rptr := (x.rptr + 1) % 2 ^ 32 }
          retireEntries fuel (writeStatus (unref s e.objs) q) q
        else s

/-- FAULTED on every fence of which the queue holds a pending signal (R318, step 3). -/
def failPending (s : State) (x : Queue) : State := (pendingSignals s x).foldl (fun s p => failFence s p.1 .faulted) s

/-- Steps 3 to 6 of R318, once every dispatched command has run to its completion. (DEDUCED: log entry 32). -/
def settleFault (s : State) (q : Nat) : State :=
  match queueOf s q with
  | none => s
  | some x =>
    if x.st = .faulted ∧ ¬ x.faultDone ∧ (x.out.all fun o => o.op == 0x11) then
      let s := failPending s x
      let s := setQueue s q { x with faultDone := true, out := [] }
      let s := writeStatus s q
      let h := ((x.entries.find? fun e => e.k == x.faultEntry).map Entry.firstHandle).getD 0
      let s := raise s ⟨0x320, 0x49, uConcourse, x.owner, q, x.faultCode, 0, x.faultCmd, h, []⟩
      notify s 0x210 0x02 (q + x.faultCode * 65536)
    else s

/-- A faulting completion: the queue dispatches no more (R318); a second one while FAULTED changes nothing. -/
def faultQueue (s : State) (q code entry cmd : Nat) : State :=
  match queueOf s q with
  | none => s
  | some x =>
    if x.st = .active ∨ x.st = .blocked then
      let s := setQueue s q { x with st := .faulted, wait := none, faultCode := code, faultEntry := entry,
                                     faultCmd := cmd, faultDone := false }
      settleFault s q
    else s

/-- Complete a blocked FENCE_WAIT with a code. -/
def finishWait (s : State) (q : Nat) (b : Blocked) (code : Nat) : State :=
  let s := compRecord s 0x320 uConcourse b.ref b.compVa (BitVec.ofNat 32 code) 0
  if faults code then faultQueue s q code b.ref.entry b.ref.cmd
  else
    let s := modQueue s q fun x => { x with st := .active, wait := none }
    retireEntries 65 (writeStatus (sysAcquire s) q) q

/-- The lowest BLOCKED queue whose wait is satisfied. -/
def satisfiedWait (s : State) : Option (Nat × Blocked × Nat) :=
  s.cc.queues.findSome? fun p =>
    if p.2.st = .blocked then
      match p.2.wait with
      | some b => (waitResult s b).map fun c => (p.1, b, c)
      | none => none
    else none

/-- Complete satisfied waits, one queue at a time, until none is left (R313, WAIT_SATISFIED). -/
def wakeLoop : Nat → State → State
  | 0, s => s
  | fuel + 1, s =>
    match satisfiedWait s with
    | none => s
    | some (q, b, c) => wakeLoop fuel (finishWait s q b c)

def wake (s : State) : State := wakeLoop (s.cc.queues.length + 1) s

/-- Execute the FENCE_SIGNALs at the front of a queue's outstanding commands: every earlier command has
completed (R310, item 5). (DEDUCED: log entry 31). -/
def runSignals : Nat → State → Nat → State
  | 0, s, _ => s
  | fuel + 1, s, q =>
    match queueOf s q with
    | none => s
    | some x =>
      match x.out with
      | [] => s
      | o :: r =>
        if o.op = 0x11 ∧ x.st ≠ .faulted ∧ x.st ≠ .destroying then
          let s := raiseFence (setQueue s q { x with out := r }) o.fence o.value
          runSignals fuel (compRecord s 0x320 uConcourse o.ref o.compVa 0 0) q
        else s

/-- An engine's command completes: its record, the queue's order, faults and signals (R308, R310, R318). -/
def completeCmd (s : State) (source unit : Nat) (r : CmdRef) (comp detail : Word) : State :=
  match queueOf s r.queue with
  | none => s
  | some x =>
    match x.out.find? fun o => o.ref == r with
    | none => s
    | some o =>
      let s := compRecord s source unit r o.compVa comp detail
      let s := modQueue s r.queue fun x => { x with out := x.out.filter fun o => !(o.ref == r) }
      let code := bits comp 7 0
      let s := if faults code ∧ x.st ≠ .destroying then faultQueue s r.queue code r.entry r.cmd else s
      let s := runSignals (x.out.length + 1) s r.queue
      let s := settleFault s r.queue
      wake (retireEntries 65 s r.queue)

/-- An engine reports a command done: the completion step then writes its record. (DEDUCED: log entry 32). -/
def finishCmd (s : State) (r : CmdRef) (comp detail : Word) : State :=
  { s with cc := { s.cc with done := s.cc.done ++ [(r, comp, detail)] } }

/-! ### Fence cycles (R316) -/

/-- The signaller of a fence at a value: the lowest BLOCKED queue that holds a pending signal of it, of at
least the value, in the buffer it is dispatching, after its blocking wait. -/
def signaller (s : State) (f v : Nat) : Option Nat :=
  (s.cc.queues.find? fun p =>
    p.2.st == .blocked &&
    match p.2.wait with
    | none => false
    | some b =>
      p.2.entries.any fun e => e.k == b.ref.entry && (entryCmds s p.2.owner e).any fun c =>
        bits (wd c.2 0) 31 24 == 0x11 && (cmdFence c.2).1 == f && decide (v ≤ (cmdFence c.2).2)).map Prod.fst

/-- Follow signallers from a wait for up to 8 of them; the path when it reaches the first queue. -/
def cyclePath (s : State) (q0 : Nat) : Nat → Nat → Nat → List Nat → Option (List Nat)
  | 0, _, _, _ => none
  | fuel + 1, f, v, path =>
    match signaller s f v with
    | none => none
    | some q =>
      if q = q0 then some (path ++ [q0])
      else match (queueOf s q).bind Queue.wait with
        | none => none
        | some b => cyclePath s q0 fuel b.fence b.value (path ++ [q])

/-- The search that a blocking FENCE_WAIT starts: every queue of a cycle completes its wait with
FENCE_CYCLE. -/
def cycleSearch (s : State) (q0 : Nat) : State :=
  match (queueOf s q0).bind Queue.wait with
  | none => s
  | some b =>
    match cyclePath s q0 8 b.fence b.value [] with
    | none => s
    | some path =>
      let waits := path.filterMap fun q => ((queueOf s q).bind Queue.wait).map fun b => (q, b)
      wake (waits.foldl (fun s p =>
        let s := { s with cc := { s.cc with fenceCyc := satInc 0xFFFFFFFF s.cc.fenceCyc } }
        let s := raise s (cmdFault 0x320 0x4A uConcourse p.2.ref cFENCECYCLE 0)
        finishWait s p.1 p.2 cFENCECYCLE) s)

/-! ### Acceptance (R302, R303) -/

/-- Reserved bits of a submit entry (R302). -/
def entryRsv : List Word := [0, 0xFFFF0000, 0, 0xFFFF0000, 0xFFFFFE00, 0xFFFFFFFF, 0xFFFFFFFF]

/-- Read and check one submit entry; what fails is marked bad and holds no reference. -/
def readEntry (s : State) (x : Queue) (k : Nat) : State × Entry :=
  let bad : Entry := ⟨k, 0, [], 0, true, false, 0, 0, 0, 0, 0⟩
  let va := x.ringVa + 32 * (k % 2 ^ x.ringLog2)
  match readStruct s x.owner va 32 1 with
  | .error (a, c) => (raiseMem s (memFault 0x320 uConcourse (noCmd x.owner) 0 c a), bad)
  | .ok w =>
    let s := sawStruct s x.owner va w
    let cnt := bits (wd w 5) 8 0
    let cb := dwd w 1 % 2 ^ 48
    let ov := dwd w 3 % 2 ^ 48
    if (structOk w 32 entryRsv).isSome ∨ 256 < cnt ∨ cb % 256 ≠ 0 ∨ ov % 4 ≠ 0 then (s, bad)
    else match readWords s x.owner ov cnt with
      | .error _ => if cnt = 0 then (s, ⟨k, cb, [], 0, false, false, 0, 0, 0, 0, 0⟩)
                    else let f := faultAt s x.owner ov (4 * cnt) 1
                         (raiseMem s (memFault 0x320 uConcourse (noCmd x.owner) 0 f.2 f.1), bad)
      | .ok hs =>
        let s := sawRange s x.owner ov (4 * cnt) 1
        let os := hs.map fun h => needObj s x.owner h.toNat
        if os.all fun o => match o with | .ok _ => true | .error _ => false then
          (s, ⟨k, cb, os.filterMap fun o => match o with | .ok p => some p.1 | .error _ => none,
               (wd hs 0).toNat, false, false, 0, 0, 0, 0, 0⟩)
        else (s, { bad with firstHandle := (wd hs 0).toNat })

def acceptEntries : Nat → State → Nat → State
  | 0, s, _ => s
  | n + 1, s, q =>
    match queueOf s q with
    | none => s
    | some x =>
      let (s, e) := readEntry s x x.w
      acceptEntries n (modQueue s q fun x => { x with entries := x.entries ++ [e], w := (x.w + 1) % 2 ^ 32 }) q

/-- The Concourse takes a doorbell of a context (R303). -/
def takeDoorbell (s : State) (ctx q wptr : Nat) : State :=
  let refuse := raise { s with cc := { s.cc with dbBad := satInc 0xFFFFFFFF s.cc.dbBad } }
    ⟨0x320, 0x48, uConcourse, ctx, q, 0, 0, 0xFFFF, 0, []⟩
  match queueOf s q with
  | none => s
  | some x =>
    if x.st = .free then s
    else
      let d := (wptr + 2 ^ 32 - x.w) % 2 ^ 32
      if x.owner ≠ ctx ∨ 64 < d ∨ 2 ^ x.ringLog2 < (wptr + 2 ^ 32 - x.rptr) % 2 ^ 32 then refuse
      else if x.st = .destroying ∨ d = 0 then s
      else acceptEntries d s q

/-! ### Reset, destroy (R319 to R321) -/

/-- QUEUE_RESET of a FAULTED queue. Where dispatched commands still run, they go on and report; the fences of the
queue's pending signals take FAULTED first. (DEDUCED: log entry 32). -/
def resetQueue (s : State) (q : Nat) : State :=
  match queueOf s q with
  | none => s
  | some x =>
    let s := if x.faultDone then s else failPending s x
    let s := setQueue s q { x with st := .active, entries := [], rptr := x.w, dptr := x.w,
                                   out := x.out.filter fun o => o.op != 0x11, faultCode := 0, faultDone := true }
    let s := writeStatus (unref s (x.entries.flatMap Entry.objs)) q
    if x.faultDone then s else wake s

/-- The engine that runs an opcode, as a unit number: the Hall of the command is given apart. -/
def engineOf (op hall : Nat) : Nat :=
  match op with
  | 0x01 => hall | 0x02 => 16 | 0x03 => uGallery | 0x04 => uGallery | 0x05 => uCompression | 0x06 => uCompression
  | 0x07 => uOutbound | 0x08 => hall | 0x09 => hall | 0x0A => hall | _ => uConcourse

/-- The identity and unit that write a command's completion record. -/
def engineSource (unit : Nat) : Nat :=
  if unit < 4 then 0x340 + unit else if unit = uGallery then 0x350 else if unit = uCompression then 0x360
  else if unit = uConcourse then 0x320 else 0x370

/-- First tread of a destroy: DESTROYING with its status record, dispatch stopped, abort sent to every engine that
holds work (R301, R320). -/
def beginDestroy (s : State) (q : Nat) : State :=
  match queueOf s q with
  | none => s
  | some x =>
    if x.st = .free ∨ x.st = .destroying then s
    else
      let units := ((x.out.filter fun o => o.op != 0x11).map fun o => o.unit).eraseDups
      writeStatus (setQueue s q { x with st := .destroying, wait := none, aborting := units,
                                         out := x.out.map fun o => { o with aborted := true } }) q

/-- The step of R321 when the last quiescence report has arrived: fences CANCELLED (but the exported fences
the context itself owns, under teardown: R322), references dropped, the final status record, the notice. -/
def quiesceQueue (s : State) (q : Nat) : State :=
  match queueOf s q with
  | none => s
  | some x =>
    if x.st = .destroying ∧ x.aborting = [] then
      let s := x.out.foldl (fun s o =>
        if o.op = 0x11 then s else compRecord s (engineSource o.unit) o.unit o.ref o.compVa (BitVec.ofNat 32 cABORTED) 0) s
      let s := (pendingSignals s x).foldl (fun s p =>
        match fenceOf s p.1 with
        | some f => if x.quiet ∧ f.owner = x.owner ∧ f.exports ≠ [] then s else failFence s p.1 .cancelled
        | none => s) s
      let refs := x.entries.flatMap Entry.objs
      let n := x.entries.length
      let s := setQueue s q { x with entries := [], out := [], rptr := (x.rptr + n) % 2 ^ 32 }
      let s := writeStatus (unref s refs) q
      let s := if x.quiet then s else notify s 0x210 0x01 q
      wake s
    else s

/-- Newel's tread on QUIESCED: the slot is freed, its ring and status references dropped; QUEUE_DESTROYED
goes first (R321). (DEDUCED: log entry 31). -/
def freeQueue (s : State) (q : Nat) : State :=
  match queueOf s q with
  | none => s
  | some x =>
    if x.st = .destroying then
      let s := if x.quiet then s else sendEvent s x.owner 0x84 x.owner q
      let s := { s with cc := { s.cc with queues := tdel s.cc.queues q },
                        nw := { s.nw with flights := s.nw.flights.filter fun f => !(f.op == 0x21 && f.locks.contains (.queue q)) } }
      unref s [x.ringObj, x.statusObj]
    else s

end Sys2Proof.Machine
end

