-- ==== Sys2Proof/Machine/Requests.lean ====
section
/-! DEFINITION. How Newel takes, checks, runs and answers a request: the block and reply forms of R524 to
R526, the check order of R525, flights and locks (R279, R281), request records (R276). -/

namespace Sys2Proof.Machine
open Sys2Proof

/-- The result of a request body: the state, the status, DETAIL and the result block's words after its
size-and-version word. -/
structure Res where
  st : State
  status : Nat
  detail : Nat
  result : List Word

/-- Completed with OK. -/
def okRes (s : State) (ws : List Word) : Res := ⟨s, cOK, 0, ws⟩
/-- Refused: nothing is changed. -/
def errRes (s : State) (code : Nat) : Res := ⟨s, code, 0, []⟩
def errDetail (s : State) (code detail : Nat) : Res := ⟨s, code, detail, []⟩

/-- The From column of the request table (R527). -/
structure From where
  o : Bool
  c : Bool
  p : Bool

def fromO : From := ⟨true, false, false⟩
def fromC : From := ⟨false, true, false⟩
def fromCO : From := ⟨true, true, false⟩
def fromP : From := ⟨false, false, true⟩
def fromOP : From := ⟨true, false, true⟩

/-- Whether the requester is named in the From column: O and C with a full binding, P with a provisional
one; A is O and C together. -/
def fromOk (s : State) (who : Nat) (f : From) : Bool :=
  (f.o && who == 0x300 && bound s who) || (f.c && isCtx who && bound s who) || (f.p && provisional s who)

/-- The body of a request: requester, request, state. -/
abbrev Body := Nat → ReqIn → State → Res

/-- One row of the request table: opcode, From, flight, shortest block in bytes (0: no parameters), reserved
bits of the words from word 1, locks, what its treads wait for, body. -/
structure ReqSpec where
  op : Nat
  src : From
  flight : Bool
  minLen : List Word → Nat
  rsv : List Word
  locks : Nat → ReqIn → State → List Lock
  wait : Wait
  body : Body

/-- SIZE of a block's first word. -/
def blkSize (b : List Word) : Nat := bits (wd b 0) 31 16
def blkMajor (b : List Word) : Nat := bits (wd b 0) 15 8

/-- No reserved bit is set: the words from word 1 against their reserved masks. -/
def rsvClear : List Word → List Word → Bool
  | w :: ws, m :: ms => (w &&& m == 0) && rsvClear ws ms
  | _, _ => true

/-- Check 4 of R525: SIZE against LEN_W, then version, reserved bits, shortest length, and zero bytes beyond
it. A request with no parameters follows R524. DETAIL holds the type code 0x20 + opcode.
(DEDUCED: log entry 12, DEDUCED: log entry 13). -/
def blockCheck (sp : ReqSpec) (r : ReqIn) : Option (Nat × Nat) :=
  let need := sp.minLen r.block
  if need = 0 ∧ r.lenW = 0 then none
  else if r.block.length ≠ r.lenW ∨ blkSize r.block ≠ r.lenW * 4 ∨ r.lenW = 0 then some (cRANGE, 0)
  else if blkMajor r.block ≠ 1 then some (cVERSION, 0x20 + sp.op)
  else if ¬ rsvClear (r.block.drop 1) sp.rsv then some (cRESERVED, 0x20 + sp.op)
  else if r.lenW * 4 < need then some (cRANGE, 0)
  else if ¬ allZero (r.block.drop (max need 4 / 4)) then some (cRESERVED, 0x20 + sp.op)
  else none

/-- The requester's flight is in progress: one for each context, one for each of OP0 to OP3 (R279). -/
def flightBusy (s : State) (mbox : Nat) : Bool :=
  s.nw.flights.any fun f => f.kind == .request && f.mbox == mbox

/-- A flight other than the requester's own holds one of the locks (R281). -/
def lockBusy (s : State) (mbox op : Nat) (ls : List Lock) : Bool :=
  s.nw.flights.any fun f => !(f.kind == .request && f.mbox == mbox && f.op == op) && f.locks.any fun l => ls.contains l

/-- Requests that report status: the only ones served after a Grave clock loss of islands 3 to 15 (R460). -/
def statusOnly (op : Nat) : Bool := [0x00, 0x13, 0x29, 0x54, 0x58].contains op

/-- Checks 1 to 5 and 7 of R525 that every request shares; check 6 and the checks of the defining rule are
the body's. -/
def precheck (sp : ReqSpec) (who : Nat) (r : ReqIn) (s : State) : Option (Nat × Nat) :=
  if r.rsv ≠ 0 then some (cRESERVED, 0)
  else if ¬ fromOk s who sp.src then some (cDENIED, 0)
  else match blockCheck sp r with
    | some e => some e
    | none =>
      if sp.flight ∧ flightBusy s r.mbox then some (cBUSY, 0)
      else if s.pw.onlyStatus ∧ ¬ statusOnly sp.op then some (cBADSTATE, 0) else none

/-- The size-and-version word of a block the part writes, version 1.0 (R524). -/
def sizeVer (bytes : Nat) : Word := BitVec.ofNat 32 (bytes * 65536 + 0x0100)

/-- Send the reply (R526): the result block goes to the staging entry, which is free again; the request
record keeps the reply of an OK request and is cleared otherwise (R276). (DEDUCED: log entry 17). -/
def sendReply (s : State) (op : Nat) (r : ReqIn) (isFlight : Bool) (status detail : Nat) (result : List Word) : State :=
  let who := mbxIdent r.mbox
  let w := replyWord op r.stage r.seq status r.coll false detail
  let blk := if status = cOK ∧ result ≠ [] then sizeVer (4 * (result.length + 1)) :: result else []
  let s := { s with nw := { s.nw with
    stage := tput s.nw.stage (stageKey who r.stage) ⟨false, (tgetD s.nw.stage (stageKey who r.stage) default).word, blk⟩,
    recs := if status = cOK then tput s.nw.recs r.mbox ⟨r.seq, op, some w, blk⟩ else tdel s.nw.recs r.mbox } }
  outPush s (outMbx r.mbox) ⟨w, if isFlight then .flightReply else .treadReply⟩

/-- Newel serves: Dynov has started, the part is in Run or Idle (R477), and no Grave fault has stopped the cores
(R460). (DEDUCED: log entry 18). -/
def newelRuns (s : State) : Bool := (s.pw.st == .run || s.pw.st == .idle) && decide (2 ≤ s.pw.phase) && !s.pw.newelHalt

/-- Whether a word of the mailbox is executed at all (R272): its writer has a bound session, full or
provisional, its context is not in TEARDOWN, and Newel serves. A SESSION_REKEY in TEARDOWN is answered BAD_STATE (R377).
(DEDUCED: log entry 17). -/
def liveRequester (s : State) (mbox op : Nat) : Bool :=
  let who := mbxIdent mbox
  decide (mbox < 0x20C ∧ mbox ≠ 0x200) && newelRuns s && (bound s who || provisional s who)
    && (decide (¬ (isCtx who ∧ ctxState s who = .teardown)) || op == 0x03)

/-- The request after its take, checked and executed whole: the checks of R525 in order, the body, the
reply. A flight's treads run together. (DESIGN CHOICE: log entry 4, DEDUCED: log entry 18). -/
def runRequest (sp : ReqSpec) (r : ReqIn) (s : State) : State :=
  if ¬ liveRequester s r.mbox sp.op then s
  else
    let who := mbxIdent r.mbox
    match precheck sp who r s with
    | some (st, d) => sendReply s sp.op r false st d []
    | none =>
      if lockBusy s r.mbox sp.op (sp.locks who r s) then
        let res := sp.body who r s
        -- checks 6 precedes check 7: an unknown or foreign object is answered before the lock
        if res.status = cBADHANDLE ∨ res.status = cNOTGRANTED ∨ res.status = cDENIED then
          sendReply s sp.op r false res.status res.detail []
        else sendReply s sp.op r false cBUSY 0 []
      else
        let res := sp.body who r s
        sendReply res.st sp.op r sp.flight res.status res.detail res.result

/-- The checks of R525 before the body's own let the request run: a live requester, checks 1 to 5, no lock. -/
def accepted (sp : ReqSpec) (r : ReqIn) (s : State) : Bool :=
  liveRequester s r.mbox sp.op && (precheck sp (mbxIdent r.mbox) r s).isNone && !lockBusy s r.mbox sp.op (sp.locks (mbxIdent r.mbox) r s)

/-- No locks, no waiting. -/
def noLocks : Nat → ReqIn → State → List Lock := fun _ _ _ => []

/-- A fixed shortest length. -/
def len (n : Nat) : List Word → Nat := fun _ => n

/-- Bytes [a, a + n) of a block. -/
def blkBytes (b : List Word) (a n : Nat) : List Byte := ((wordBytes b).drop a).take n

end Sys2Proof.Machine
end

