-- ==== Sys2Proof/Machine/Halls.lean ====
section
/-! DEFINITION. The Matrix Halls (spec/03): stores and regions, issue queues, the descriptor and its start
checks, vector passes and the epilogue, runs and slots, transfers, sequence batches, aborts, the array test. -/

namespace Sys2Proof.Machine
open Sys2Proof

/-! ### Halls, queues, batches -/

def hallOf (s : State) (h : Nat) : HallState := s.mh.halls.getD h default
def setHall (s : State) (h : Nat) (x : HallState) : State := { s with mh := { s.mh with halls := s.mh.halls.set h x } }
def modHall (s : State) (h : Nat) (f : HallState → HallState) : State := setHall s h (f (hallOf s h))
def hq (x : HallState) (load : Bool) (ctx : Nat) : HQueue := tgetD (if load then x.load else x.comp) ctx ⟨[], none⟩
def setHq (x : HallState) (load : Bool) (ctx : Nat) (q : HQueue) : HallState :=
  if load then { x with load := tput x.load ctx q } else { x with comp := tput x.comp ctx q }
def coreOf (s : State) (c : Nat) : Core := s.sh.cores.getD c default
def setCore (s : State) (c : Nat) (x : Core) : State := { s with sh := { s.sh with cores := s.sh.cores.set c x } }
def modCore (s : State) (c : Nat) (f : Core → Core) : State := setCore s c (f (coreOf s c))
def batchOf (s : State) (b : Nat) : Option Batch := tget s.mh.batches b
def setBatch (s : State) (b : Nat) (x : Batch) : State := { s with mh := { s.mh with batches := tput s.mh.batches b x } }
def bayOf (s : State) (b : Nat) : Bay := tgetD s.gal.bays b ⟨0x310, []⟩
def regionOf (s : State) (h ctx : Nat) : Region := tgetD (hallOf s h).regions ctx ⟨0, 0, 0, 0, false⟩

/-- Bytes of a 64 KiB unit. -/
def unitBytes : Nat := 65536

/-! ### The descriptor (R70) -/

def dOp (w : List Word) : Nat := bits (wd w 1) 3 0
def dAFmt (w : List Word) : Nat := bits (wd w 1) 6 4
def dBFmt (w : List Word) : Nat := bits (wd w 1) 9 7
def dBlk (w : List Word) : Nat := if bit (wd w 1) 10 then 32 else 16
def dAccIn (w : List Word) : Bool := bit (wd w 1) 11
def dAccHold (w : List Word) : Bool := bit (wd w 1) 12
def dOut (w : List Word) : Nat := bits (wd w 1) 15 13
def dAct (w : List Word) : Nat := bits (wd w 1) 17 16
def dASrc (w : List Word) : Nat := bits (wd w 1) 19 18
def dCDst (w : List Word) : Nat := bits (wd w 1) 21 20
def dBSrc (w : List Word) : Bool := bit (wd w 1) 22
def dLast (w : List Word) : Bool := bit (wd w 1) 23
def dDep (w : List Word) : Bool := bit (wd w 1) 24
def dM (w : List Word) : Nat := bits (wd w 2) 15 0
def dM1 (w : List Word) : Nat := bits (wd w 2) 31 16
def dK (w : List Word) : Nat := bits (wd w 3) 15 0
def dN (w : List Word) : Nat := bits (wd w 3) 31 16
def dABase (w : List Word) : Nat := (wd w 4).toNat
def dAS1 (w : List Word) : Nat := (wd w 5).toNat
def dAS2 (w : List Word) : Nat := (wd w 6).toNat
def dAUnit (w : List Word) : Nat := bits (wd w 7) 9 0
def dAExp (w : List Word) : Nat := (wd w 8).toNat
def dBBase (w : List Word) : Nat := (wd w 9).toNat
def dBExp (w : List Word) : Nat := (wd w 10).toNat
def dPBase (w : List Word) : Nat := (wd w 11).toNat
def dCBase (w : List Word) : Nat := (wd w 12).toNat
def dCS1 (w : List Word) : Nat := (wd w 13).toNat
def dCS2 (w : List Word) : Nat := (wd w 14).toNat
def dCUnit (w : List Word) : Nat := bits (wd w 15) 9 0
def dAcc (w : List Word) : Nat := (wd w 16).toNat
def dLo (w : List Word) : Nat := bits (wd w 17) 15 0
def dHi (w : List Word) : Nat := bits (wd w 17) 31 16
def dTag (w : List Word) : Nat := bits (wd w 18) 15 0
def dLen (w : List Word) : Nat := (wd w 19).toNat
def dVa (w : List Word) : Nat := (wd w 20).toNat + bits (wd w 21) 15 0 * 2 ^ 32

/-- Reserved bits of words 1 to 31 (R70). -/
def descRsv : List Word :=
  [0xFE000000, 0, 0, 0, 0, 0, 0xFFFFFC00, 0, 0, 0, 0, 0, 0, 0, 0xFFFFFC00, 0, 0, 0xFFFF0000, 0, 0, 0xFFFF0000]
    ++ List.replicate 10 0xFFFFFFFF

/-- A 4-bit element: S4, U4, BS4; a block-scaled one: BS8, BS4; a signed one (R103, R104). -/
def fmt4 (f : Nat) : Bool := f == 2 || f == 3 || f == 5
def fmtBs (f : Nat) : Bool := f == 4 || f == 5
def fmtSigned (f : Nat) : Bool := f == 0 || f == 2 || f == 4 || f == 5

/-- 4-bit mode (R61), tile depth, tiles along K and N (R82). -/
def dFour (w : List Word) : Bool := fmt4 (dAFmt w) && fmt4 (dBFmt w)
def dKc (w : List Word) : Nat := if dFour w then 512 else 256
def dKT (w : List Word) : Nat := (dK w + dKc w - 1) / dKc w
def dNT (w : List Word) : Nat := (dN w + 255) / 256
def dBs (w : List Word) : Bool := fmtBs (dAFmt w) || fmtBs (dBFmt w)

/-- Bits of an output element (R82). -/
def outBits (f : Nat) : Nat := if f < 2 then 8 else if f < 4 then 4 else if f = 4 then 16 else 32

/-- The descriptor reads or writes sequence state (R99). -/
def dSeq (w : List Word) : Bool := dASrc w == 3 || dCDst w == 3

/-- Vectors: the active count for a sequence-state descriptor, else M (R99). -/
def dVecs (w : List Word) (seqs : List (Nat × Nat)) : Nat := if dSeq w then seqs.length else dM w

/-- The batch slot a sequence-state descriptor names. Where A_UNIT and C_UNIT name different batches, A's gives the
active list and the slots; outside a SEQ_STEP, or for another batch than the step's, the named batch's active list at
the descriptor's start is used: R99 states none of these. (DESIGN CHOICE: log entry 98). -/
def dBatch (w : List Word) : Nat := if dASrc w = 3 then dAUnit w else dCUnit w

def dInner (w : List Word) (m : Nat) : Nat := if dM1 w = 0 then max m 1 else dM1 w

/-! ### Occupancy (R81, R82) -/

def cdiv (a b : Nat) : Nat := (a + b - 1) / b

/-- Occupancy in Hall cycles of a MATMUL of `m` vectors, at bay rates `ra` and `rc`. -/
def occupancyAt (w : List Word) (m ra rc : Nat) : Nat :=
  let wa := if fmt4 (dAFmt w) then 4 else 8
  let a := cdiv (dKc w * wa) (8 * ra)
  let c := if dAccHold w then 1 else cdiv (256 * outBits (dOut w)) (8 * rc)
  let lw := if dBSrc w then 256 else 64
  let tMid := max (m * a) lw
  let tLast := max (m * max a c) lw
  dNT w * ((dKT w - 1) * tMid + tLast) + (if dDep w then 48 else 0)

def rateA (src : Nat) : Nat := if src = 2 then 64 else 256
def rateC (dst : Nat) : Nat := if dst = 2 then 64 else if dst = 1 then 256 else 1024

def occupancy (w : List Word) (m : Nat) : Nat :=
  if dOp w = 0 then occupancyAt w m (rateA (dASrc w)) (rateC (dCDst w)) else cdiv (dLen w) 128 + 64 + 480

/-! ### Start checks (R8, R9, R68, R71, R72) -/

/-- Last byte offset, plus one, of a vector array. -/
def vecEnd (base s1 s2 inner m bytes : Nat) : Nat :=
  if m = 0 then base else base + (min inner m - 1) * s1 + (m / inner - 1) * s2 + bytes

/-- What a descriptor needs to know of its issue: the Hall, the context, whether it came from MX.ISSUE, the
local store's base and size, the list kind. -/
structure Issue where
  hall : Nat
  ctx : Nat
  single : Bool
  lsBase : Nat
  lsSize : Nat
  core : Nat
  load : Bool

/-- OP values of the list kind (R68). -/
def opAllowed (load : Bool) (op : Nat) : Bool := if load then 1 ≤ op && op ≤ 3 else op == 0 || op == 2 || op == 3

/-- A batch slot that R71 accepts in A_UNIT or C_UNIT: of the context, on the Hall. -/
def batchFor (s : State) (i : Issue) (b : Nat) : Bool :=
  match batchOf s b with
  | some x => x.ctx == i.ctx && x.hall == i.hall
  | none => false

/-- (DEDUCED: log entry 33). -/
def rangeBad (s : State) (i : Issue) (w : List Word) (m : Nat) : Bool :=
  5 < dAFmt w || 5 < dBFmt w || dOut w == 7 || dAct w == 3
    || (dASrc w != 3 && (dM w == 0 || 16384 < dM w)) || dK w == 0 || dN w == 0
    || (dBs w && dK w % dBlk w != 0) || (dOut w == 6 && dBs w)
    || (!i.single && (dASrc w == 1 || dCDst w == 1 || dBSrc w))
    || (dASrc w == 3 && !batchFor s i (dAUnit w)) || (dCDst w == 3 && !batchFor s i (dCUnit w))
    || (dM1 w != 0 && m % dM1 w != 0)
    || (dASrc w == 2 && 511 < dAUnit w) || (dCDst w == 2 && 511 < dCUnit w)
    || (dASrc w < 2 && dAUnit w != 0) || (dCDst w < 2 && dCUnit w != 0)

/-- Alignment of an operand's base and strides by its space: 256 in the activation region, 4 in a bay or local
store; a sequence-state operand keeps the alignment of the activation store it lies in. -/
def operandAlign (src base s1 s2 : Nat) : Bool :=
  if src = 0 then base % 256 == 0 && s1 % 256 == 0 && s2 % 256 == 0
  else if src = 3 then base % 256 == 0
  else base % 4 == 0 && s1 % 4 == 0 && s2 % 4 == 0

def alignBad (w : List Word) : Bool :=
  !operandAlign (dASrc w) (dABase w) (dAS1 w) (dAS2 w) || !operandAlign (dCDst w) (dCBase w) (dCS1 w) (dCS2 w)
    || dBBase w % 65536 != 0 || dAcc w % 1024 != 0 || dPBase w % 8 != 0

/-- Size of an operand space: activation region, local store from the block's base, bay. -/
def spaceSize (r : Region) (i : Issue) (src : Nat) : Nat :=
  if src = 1 then i.lsSize - i.lsBase else if src = 2 then 65536 else r.aSize * unitBytes

def accUsed (w : List Word) : Bool := dAccIn w || dAccHold w || 1 < dKT w

/-- Base of a vector of sequence state (R99). -/
def seqBase (b : Batch) (slot : Nat) : Nat := b.pool + slot * b.s

def boundsBad (s : State) (i : Issue) (w : List Word) (seqs : List (Nat × Nat)) : Bool :=
  let r := regionOf s i.hall i.ctx
  let m := dVecs w seqs
  let inner := dInner w m
  let ab := cdiv (dK w * (if fmt4 (dAFmt w) then 4 else 8)) 8
  let cb := cdiv (dN w * outBits (dOut w)) 8
  let wlim := if dBSrc w then i.lsSize - i.lsBase else r.wSize * unitBytes
  let tiles := dKT w * dNT w
  let seqOver (u base n : Nat) : Bool := match batchOf s u with
    | some b => seqs.any fun p => r.aSize * unitBytes < seqBase b p.2 + base + n
    | none => true
  (if dASrc w = 3 then seqOver (dAUnit w) (dABase w) ab
   else spaceSize r i (dASrc w) < vecEnd (dABase w) (dAS1 w) (dAS2 w) inner m ab)
  || wlim < dBBase w + tiles * 65536
  || (fmtBs (dAFmt w) && (if dASrc w = 3 then seqOver (dAUnit w) (dAExp w) (dK w / dBlk w)
        else spaceSize r i (dASrc w) < dAExp w + m * (dK w / dBlk w)))
  || (fmtBs (dBFmt w) && wlim < dBExp w + tiles * (dKc w / dBlk w) * 256)
  || (accUsed w && r.aSize * unitBytes < dAcc w + m * dNT w * 1024)
  || (!dAccHold w && (r.wSize * unitBytes < dPBase w + 8 * dN w
        || (if dCDst w = 3 then seqOver (dCUnit w) (dCBase w) cb
            else spaceSize r i (dCDst w) < vecEnd (dCBase w) (dCS1 w) (dCS2 w) inner m cb)))

/-- A bay the descriptor names carries another identity's tag (R72), whether or not it writes there.
(DEDUCED: log entry 37). -/
def tagBad (s : State) (i : Issue) (w : List Word) : Bool :=
  (dASrc w == 2 && (bayOf s (dAUnit w)).tag != i.ctx) || (dCDst w == 2 && (bayOf s (dCUnit w)).tag != i.ctx)

/-- The start checks in their order; none: the descriptor starts. MX.ISSUE copies 128 bytes (R85): where its SIZE is
larger, R70 does not say what the bytes up to SIZE are, and they are not checked.
(DEDUCED: log entry 33, DEDUCED: log entry 37, DESIGN CHOICE: log entry 98). -/
def checkDesc (s : State) (i : Issue) (w : List Word) (seqs : List (Nat × Nat)) : Option Nat :=
  match structOk w 128 descRsv with
  | some c => some c
  | none =>
    if 3 < dOp w ∨ ¬ opAllowed i.load (dOp w) then some cRANGE
    else if dOp w = 0 then
      if rangeBad s i w (dVecs w seqs) then some cRANGE
      else if alignBad w then some 0x06
      else if boundsBad s i w seqs then some cBOUNDS
      else if tagBad s i w then some 0x08
      else none
    else
      let off := if dOp w = 1 then dBBase w else dABase w
      let r := regionOf s i.hall i.ctx
      if 5 < dAFmt w ∨ 5 < dBFmt w ∨ dOut w = 7 ∨ dAct w = 3 then some cRANGE
      else if dLen w < 256 ∨ 25165824 < dLen w ∨ dLen w % 256 ≠ 0 then some cRANGE
      else if dVa w % 256 ≠ 0 ∨ off % 256 ≠ 0 then some 0x06
      else if (if dOp w = 1 then r.wSize else r.aSize) * unitBytes < off + dLen w then some cBOUNDS
      else none

/-! ### Store access (R64, R94, R345) -/

/-- A byte of a store as a context reads it: a unit that carries another identity, or none, reads zero.
(DEDUCED: log entry 34). -/
def storeByte (st : List Host.Cell) (own : List (Nat × Nat)) (ctx a : Nat) : Byte :=
  if tget own (a / unitBytes) = some ctx then memGet st a else 0

/-- A write takes the unit for its context; what another identity left there is gone (R345).
(DEDUCED: log entry 34). -/
def storePut (st : List Host.Cell) (own : List (Nat × Nat)) (ctx a : Nat) (b : Byte) : List Host.Cell × List (Nat × Nat) :=
  if tget own (a / unitBytes) = some ctx then (memPut st a b, own)
  else (memPut (memClear st (a / unitBytes * unitBytes) unitBytes) a b, tput own (a / unitBytes) ctx)

/-- A location an operand names. -/
inductive Loc where
  | wgt (a : Nat)
  | act (a : Nat)
  | ls (core a : Nat)
  | bay (b a : Nat)
deriving DecidableEq, Repr

/-- A number for each location, for the pipeline record of R90. -/
def locKey : Loc → Nat
  | .wgt a => 4 * a
  | .act a => 4 * a + 1
  | .ls c a => 4 * (a * 64 + c) + 2
  | .bay b a => 4 * (a * 1024 + b) + 3

/-- The byte a location holds. -/
def locByte (s : State) (h ctx : Nat) : Loc → Byte
  | .wgt a => storeByte (hallOf s h).wst (hallOf s h).wOwner ctx a
  | .act a => storeByte (hallOf s h).ast (hallOf s h).aOwner ctx a
  | .ls c a => memGet (coreOf s c).ls a
  | .bay b a => memGet (bayOf s b).data a

/-- A write may still be in the pipeline: fewer than 48 Hall cycles of work and no later tile cycle have passed. -/
def unsettled (s : State) (h : Nat) (f : Fresh) : Bool := (hallOf s h).clk < f.clk + 48 && s.now < f.now + 1060

/-- The byte a descriptor reads: where the newest write of the location is an earlier descriptor's and in the pipeline,
its old or its new value, by a free choice for the element (R90). (DESIGN CHOICE: log entry 36). -/
def pipeByte (s : State) (h ctx num elem : Nat) (l : Loc) : Byte :=
  match (hallOf s h).fresh.find? fun p => p.loc == locKey l with
  | some p => if p.num != num ∧ unsettled s h p ∧ bit (Config.freeWord (s.free * 2 ^ 40 + elem)) 0 then p.old else locByte s h ctx l
  | none => locByte s h ctx l

def setBayByte (s : State) (b a : Nat) (v : Byte) : State :=
  { s with gal := { s.gal with bays := tput s.gal.bays b { bayOf s b with data := memPut (bayOf s b).data a v } } }

/-- Write a byte; the row it lies in is readable again (R94). (DEDUCED: log entry 34). -/
def locStore (s : State) (h ctx : Nat) (l : Loc) (v : Byte) : State :=
  match l with
  | .wgt a => modHall s h fun x =>
      let p := storePut x.wst x.wOwner ctx a v
      { x with wst := p.1, wOwner := p.2, badRows := x.badRows.filter fun r => !(r == (0, a / 256)) }
  | .act a => modHall s h fun x =>
      let p := storePut x.ast x.aOwner ctx a v
      { x with ast := p.1, aOwner := p.2, badRows := x.badRows.filter fun r => !(r == (1, a / 256)) }
  | .ls c a => modCore s c fun y => { y with ls := memPut y.ls a v }
  | .bay b a => setBayByte s b a v

/-- Write a byte for a descriptor, recording what it replaced while it is in the pipeline (R90).
(DEDUCED: log entry 34, DESIGN CHOICE: log entry 36). -/
def locPut (s : State) (h ctx num : Nat) (l : Loc) (v : Byte) : State :=
  let x := hallOf s h
  locStore (setHall s h { x with fresh := ⟨locKey l, num, x.clk, s.now, locByte s h ctx l⟩ :: x.fresh }) h ctx l v

def locPuts (s : State) (h ctx num : Nat) : List (Loc × Byte) → State
  | [] => s
  | p :: r => locPuts (locPut s h ctx num p.1 p.2) h ctx num r

/-- Writes of a step boundary, which are over before the step's first vector enters (R97). -/
def boundaryPuts (s : State) (h ctx : Nat) (ps : List (Loc × Byte)) : State :=
  modHall (ps.foldl (fun s p => locStore s h ctx p.1 p.2) s) h fun x =>
    { x with fresh := x.fresh.filter fun f => !(ps.any fun p => locKey p.1 == f.loc) }

/-- The location lies in a row with an uncorrectable error (R94): store and row. -/
def locBad (s : State) (h : Nat) : Loc → Option (Nat × Nat)
  | .wgt a => if (hallOf s h).badRows.contains (0, a / 256) then some (0, a) else none
  | .act a => if (hallOf s h).badRows.contains (1, a / 256) then some (1, a) else none
  | _ => none

/-! ### Vector passes (R73 to R80) -/

/-- Offset of vector `m` in an operand array. -/
def vecOff (base s1 s2 inner m : Nat) : Nat := base + m % inner * s1 + m / inner * s2

/-- The location at an offset of an operand space, for vector `m`. -/
def operandLoc (s : State) (i : Issue) (src unit seqSlot off : Nat) : Loc :=
  let r := regionOf s i.hall i.ctx
  if src = 1 then .ls i.core (i.lsBase + off)
  else if src = 2 then .bay unit off
  else if src = 3 then .act (r.aBase * unitBytes + ((batchOf s unit).map fun b => seqBase b seqSlot).getD 0 + off)
  else .act (r.aBase * unitBytes + off)

/-- The location of a weight-space offset. (DEDUCED: log entry 34). -/
def weightLoc (s : State) (i : Issue) (bsrc : Bool) (off : Nat) : Loc :=
  if bsrc then .ls i.core (i.lsBase + off) else .wgt ((regionOf s i.hall i.ctx).wBase * unitBytes + off)

/-- The element value of a stored 4-bit or 8-bit element (R103, R104). (DEDUCED: log entry 34). -/
def elemVal (f b : Nat) (hiNib : Bool) : Int :=
  let v := if fmt4 f then (if hiNib then b / 16 % 16 else b % 16) else b % 256
  let n := if fmt4 f then 4 else 8
  if fmtSigned f then sext n v else (v : Nat)

/-- One vector pass: weight tile (kt, nt) and vector m of a MATMUL (R76: nt outer, kt inner). -/
structure Pass where
  nt : Nat
  kt : Nat
  m : Nat

def passOf (w : List Word) (m p : Nat) : Pass := ⟨p / (dKT w * m), p / m % dKT w, p % m⟩
/-- (DEDUCED: log entry 35). -/
def passCount (w : List Word) (m : Nat) : Nat := dNT w * dKT w * m

/-- Location of the byte of activation element k of a vector. -/
def aLoc (s : State) (i : Issue) (w : List Word) (m slot vec k : Nat) : Loc :=
  let b := if fmt4 (dAFmt w) then k / 2 else k
  let off := if dASrc w = 3 then dABase w else vecOff (dABase w) (dAS1 w) (dAS2 w) (dInner w m) vec
  operandLoc s i (dASrc w) (dAUnit w) slot (off + b)

/-- Location of the byte of weight element k of column n (R73). -/
def bLoc (s : State) (i : Issue) (w : List Word) (p : Pass) (k n : Nat) : Loc :=
  let j := k - p.kt * dKc w
  weightLoc s i (dBSrc w) (dBBase w + (p.nt * dKT w + p.kt) * 65536 + (if dFour w then j / 2 else j) * 256 + n % 256)

/-- Locations of the block exponents (R75). (DEDUCED: log entry 34). -/
def aExpLoc (s : State) (i : Issue) (w : List Word) (slot vec blk : Nat) : Loc :=
  operandLoc s i (dASrc w) (dAUnit w) slot
    (if dASrc w = 3 then dAExp w + blk else dAExp w + vec * (dK w / dBlk w) + blk)
def bExpLoc (s : State) (i : Issue) (w : List Word) (p : Pass) (blk n : Nat) : Loc :=
  weightLoc s i (dBSrc w) (dBExp w + ((p.nt * dKT w + p.kt) * (dKc w / dBlk w) + blk) * 256 + n % 256)

/-- Location of byte `b` of an accumulator (R78). -/
def accLoc (s : State) (i : Issue) (w : List Word) (m : Nat) (p : Pass) (n b : Nat) : Loc :=
  .act ((regionOf s i.hall i.ctx).aBase * unitBytes + dAcc w + (p.nt * m + p.m) * 1024 + n % 256 * 4 + b)

/-- Location of an output byte (R73, operand layouts). -/
def cLoc (s : State) (i : Issue) (w : List Word) (m slot vec b : Nat) : Loc :=
  let off := if dCDst w = 3 then dCBase w else vecOff (dCBase w) (dCS1 w) (dCS2 w) (dInner w m) vec
  operandLoc s i (dCDst w) (dCUnit w) slot (off + b)

/-- A pass in its context: issue, descriptor, descriptor number, vectors, state slot of the vector. -/
structure Work where
  i : Issue
  w : List Word
  num : Nat
  m : Nat
  p : Pass
  slot : Nat

def rd (s : State) (x : Work) (elem : Nat) (l : Loc) : Nat := (pipeByte s x.i.hall x.i.ctx x.num elem l).toNat

/-- Elements of the reduction in this tile. -/
def kRange (x : Work) : List Nat := (List.range (min (dKc x.w) (dK x.w - x.p.kt * dKc x.w))).map fun j => x.p.kt * dKc x.w + j

/-- Columns of this column block (R74). -/
def nRange (x : Work) : List Nat := (List.range (min 256 (dN x.w - x.p.nt * 256))).map fun n => x.p.nt * 256 + n

def prod (s : State) (x : Work) (n k : Nat) : Int :=
  elemVal (dAFmt x.w) (rd s x k (aLoc s x.i x.w x.m x.slot x.p.m k)) (k % 2 == 1)
    * elemVal (dBFmt x.w) (rd s x (2 ^ 20 + k) (bLoc s x.i x.w x.p k n)) (dFour x.w && k % 2 == 1)

/-- Exact column sum of one tile. -/
def colSum (s : State) (x : Work) (n : Nat) : Int := (kRange x).foldl (fun a k => a + prod s x n k) 0

/-- Pairwise tree over adjacent values in ascending order (R77). -/
def pairSums (keep : Bool) : List Fr → List Fr
  | a :: b :: r => { fAdd fp32 keep a.w b.w with flushed := (fAdd fp32 keep a.w b.w).flushed || a.flushed || b.flushed } :: pairSums keep r
  | l => l

def treeSum (keep : Bool) : Nat → List Fr → Fr
  | 0, l => l.headD ⟨0, false, false⟩
  | fuel + 1, l => if l.length ≤ 1 then l.headD ⟨0, false, false⟩ else treeSum keep fuel (pairSums keep l)

/-- A scaled block sum (R77, R106): NaN for exponent 0xFF. -/
def scaledBlock (s : State) (x : Work) (keep : Bool) (n blk : Nat) : Fr :=
  let ks := (kRange x).filter fun k => (k - x.p.kt * dKc x.w) / dBlk x.w == blk
  let gblk := x.p.kt * (dKc x.w / dBlk x.w) + blk
  let ea := if fmtBs (dAFmt x.w) then rd s x (2 ^ 21 + blk) (aExpLoc s x.i x.w x.slot x.p.m gblk) else 127
  let eb := if fmtBs (dBFmt x.w) then rd s x (2 ^ 22 + blk) (bExpLoc s x.i x.w x.p blk n) else 127
  if ks = [] then ⟨0, false, false⟩
  else if ea = 0xFF ∨ eb = 0xFF then fNan fp32 false
  else fScale fp32 keep (ks.foldl (fun a k => a + prod s x n k) 0) ((ea : Int) - 127 + ((eb : Int) - 127))

/-- The word of an accumulator before this tile: zero, or what the accumulator area holds (R78). -/
def accBefore (s : State) (x : Work) (n : Nat) : Nat :=
  if x.p.kt = 0 ∧ ¬ dAccIn x.w then 0
  else ofLe ((List.range 4).map fun b => BitVec.ofNat 8 (rd s x (2 ^ 23 + n) (accLoc s x.i x.w x.m x.p n b)))

/-- The accumulator after this tile: word, saturated, flushed (R76, R77). -/
def accAfter (s : State) (x : Work) (keep : Bool) (n : Nat) : Nat × Bool × Bool :=
  if dBs x.w then
    let t := treeSum keep 6 ((List.range (dKc x.w / dBlk x.w)).map fun b => scaledBlock s x keep n b)
    let r := fAdd fp32 keep (accBefore s x n) t.w
    (r.w, false, r.flushed || t.flushed)
  else
    let v := sext 32 (accBefore s x n) + colSum s x n
    (intBits 32 (clampI (-2147483648) 2147483647 v), decide (v < -2147483648 ∨ 2147483647 < v), false)

/-- One output of the epilogue (R79): bits, a NaN produced, saturated, flushed. -/
structure EpiOut where
  v : Nat
  nan : Bool
  sat : Bool
  fl : Bool

/-- FP activation: ReLU by the 2019 maximum with +0, clamp by the 2019 maximum and minimum. -/
def actF (keep : Bool) (w : List Word) (y : Nat) : Fr :=
  let bound (v : Nat) : Fr := if dOut w = 4 ∨ dOut w = 5 then fConv fp16 fp32 keep v else fOfInt fp32 (sext 16 v)
  if dAct w = 1 then fMax fp32 keep y 0
  else if dAct w = 2 then
    let lo := bound (dLo w)
    let hi := bound (dHi w)
    let a := fMax fp32 keep y lo.w
    let b := fMin fp32 keep a.w hi.w
    { b with flushed := b.flushed || a.flushed || lo.flushed || hi.flushed }
  else ⟨y, false, false⟩

def actI (w : List Word) (v : Int) : Int :=
  if dAct w = 1 then max v 0 else if dAct w = 2 then min (max v (sext 16 (dLo w))) (sext 16 (dHi w)) else v

/-- Is the FP32 word a NaN. -/
def isNan32 (y : Nat) : Bool := (fDecode fp32 true y).1 == .nan

def epilogue (keep : Bool) (w : List Word) (acc bias scale : Nat) : EpiOut :=
  let finish (y : Fr) (sat : Bool) : EpiOut :=
    let a := actF keep w y.w
    let nan := isNan32 y.w || isNan32 a.w
    if dOut w = 5 then ⟨a.w, nan, sat, y.flushed || a.flushed⟩
    else if dOut w = 4 then
      let r := fConv fp32 fp16 keep a.w
      ⟨r.w, nan, sat, y.flushed || a.flushed || r.flushed⟩
    else
      let r := fToInt fp32 keep (dOut w) a.w
      ⟨intBits (outBits (dOut w)) r.1, nan, sat, y.flushed || a.flushed || r.2.2⟩
  if dBs w then
    let t := fAdd fp32 keep acc bias
    let y := fMul fp32 keep t.w scale
    finish { y with flushed := y.flushed || t.flushed } false
  else
    let v := sext 32 acc + sext 32 bias
    let sat := decide (v < -2147483648 ∨ 2147483647 < v)
    let v := clampI (-2147483648) 2147483647 v
    if dOut w = 6 then ⟨intBits 32 (actI w v), false, sat, false⟩
    else finish (fMul fp32 keep (fOfInt fp32 v).w scale) sat

/-- Word `j` of the epilogue parameter record of column n: 0 BIAS, 1 SCALE. -/
def param (s : State) (x : Work) (n j : Nat) : Nat :=
  ofLe ((List.range 4).map fun b =>
    BitVec.ofNat 8 (rd s x (2 ^ 24 + 2 * n + j) (weightLoc s x.i false (dPBase x.w + 8 * n + 4 * j + b))))

/-- The output bytes of a vector's column block, two 4-bit elements to a byte; the upper half of an odd last
byte keeps what it holds (R74). (DEDUCED: log entry 34). -/
def outBytes (s : State) (x : Work) (os : List (Nat × EpiOut)) : List (Loc × Byte) :=
  let ob := outBits (dOut x.w)
  let loc (b : Nat) : Loc := cLoc s x.i x.w x.m x.slot x.p.m b
  if ob = 4 then
    (os.filter fun o => o.1 % 2 == 0).map fun o =>
      let up := match os.find? fun q => q.1 == o.1 + 1 with
        | some q => q.2.v % 16
        | none => (locByte s x.i.hall x.i.ctx (loc (o.1 / 2))).toNat / 16
      (loc (o.1 / 2), BitVec.ofNat 8 (o.2.v % 16 + 16 * up))
  else
    os.flatMap fun o => (List.range (ob / 8)).map fun b => (loc (o.1 * (ob / 8) + b), BitVec.ofNat 8 (o.2.v / 256 ^ b))

/-- What one vector pass did. -/
inductive PassRes where
  | done (s : State) (sat : Bool)
  | ecc (store off : Nat)
  | nan (s : State) (m n : Nat) (sat : Bool)
  | tag

/-- Locations a pass reads: the first with an uncorrectable error stops it (R94). (DESIGN CHOICE: log entry 36). -/
def passReads (s : State) (x : Work) : List Loc :=
  (kRange x).map (fun k => aLoc s x.i x.w x.m x.slot x.p.m k)
    ++ (kRange x).flatMap (fun k => (nRange x).map fun n => bLoc s x.i x.w x.p k n)
    ++ (if x.p.kt = 0 ∧ ¬ dAccIn x.w then [] else (nRange x).map fun n => accLoc s x.i x.w x.m x.p n 0)
    ++ (if fmtBs (dAFmt x.w) then (List.range (dKc x.w / dBlk x.w)).map fun b =>
          aExpLoc s x.i x.w x.slot x.p.m (x.p.kt * (dKc x.w / dBlk x.w) + b) else [])
    ++ (if fmtBs (dBFmt x.w) then (List.range (dKc x.w / dBlk x.w)).flatMap fun b =>
          (nRange x).map fun n => bExpLoc s x.i x.w x.p b n else [])
    ++ (if dAccHold x.w ∨ x.p.kt + 1 < dKT x.w then [] else (nRange x).map fun n => weightLoc s x.i false (dPBase x.w + 8 * n))

/-- Record a flush outside normal service (R119, R123). -/
def noteFlush (s : State) (unit : Nat) (fl : Bool) : State :=
  if fl ∧ s.num.svc ≠ 0 ∧ ¬ s.num.keep then
    { s with num := { s.num with flushed := true, firstUnit := if s.num.flushed then s.num.firstUnit else unit } }
  else s

/-- Run one vector pass. (DEDUCED: log entry 35). -/
def runPass (s : State) (x : Work) : PassRes :=
  let h := x.i.hall
  let keep := (hallOf s h).keep
  let last := x.p.kt + 1 = dKT x.w
  if (dASrc x.w == 2 && (bayOf s (dAUnit x.w)).tag != x.i.ctx)
      || (last && dCDst x.w == 2 && !dAccHold x.w && (bayOf s (dCUnit x.w)).tag != x.i.ctx) then .tag
  else match (passReads s x).findSome? fun l => locBad s h l with
  | some e => .ecc e.1 (e.2 - (if e.1 = 0 then (regionOf s h x.i.ctx).wBase else (regionOf s h x.i.ctx).aBase) * unitBytes)
  | none =>
    let accs := (nRange x).map fun n => (n, accAfter s x keep n)
    let sat := accs.any fun a => a.2.2.1
    let fl := accs.any fun a => a.2.2.2
    if last ∧ ¬ dAccHold x.w then
      let os := accs.map fun a => (a.1, epilogue keep x.w a.2.1 (param s x a.1 0) (param s x a.1 1))
      let sat := sat || os.any fun o => o.2.sat
      let s1 := noteFlush s h (fl || os.any fun o => o.2.fl)
      match os.find? fun o => o.2.nan with
      | some o =>
        if (hallOf s h).trap then .nan s1 x.p.m o.1 sat
        else .done (locPuts s1 h x.i.ctx x.num (outBytes s x os)) sat
      | none => .done (locPuts s1 h x.i.ctx x.num (outBytes s x os)) sat
    else
      .done (locPuts (noteFlush s h fl) h x.i.ctx x.num (accs.flatMap fun a =>
        (List.range 4).map fun b => (accLoc s x.i x.w x.m x.p a.1 b, BitVec.ofNat 8 (a.2.1 / 256 ^ b)))) sat

/-! ### Running descriptors -/

/-- The entry's issue. -/
def issueOf (h : Nat) (load : Bool) (e : HEntry) : Issue :=
  ⟨h, e.ref.ctx, e.single != [], e.lsBase, e.lsSize, e.core, load⟩

/-- Put a completion word into the token slot of its launch, in the core or in the state the core saved (R86,
R87, R159). -/
def setToken (s : State) (core tok launch : Nat) (word : Word) : State :=
  let put (ts : List Token) : List Token := ts.modify tok fun t => if t.launch = launch ∧ t.held then { t with word := some word } else t
  modCore s core fun c => { c with tokens := put c.tokens, saved := c.saved.map fun p => (p.1, { p.2 with tokens := put p.2.tokens }) }

/-- A descriptor that ends with a code other than OK is kept, until its token is waited for, for MX_CODE of its completion word (R156, R157). -/
def noteMxCode (s : State) (launch core tok : Nat) (word : Word) : State :=
  if bits word 7 0 = 0 then s
  else { s with sh := { s.sh with launches := tmod s.sh.launches launch fun l =>
           { l with mxCode := l.mxCode ++ [(core, tok, bits word 7 0)] } } }

/-- End the entry at the front of a queue: its token, or its command, completes. -/
def endEntry (s : State) (h : Nat) (load : Bool) (e : HEntry) (word : Word) (detail : Word) : State :=
  let q := hq (hallOf s h) load e.ref.ctx
  let s := modHall s h fun x => setHq x load e.ref.ctx ⟨q.entries.filter fun y => y.arrival != e.arrival, none⟩
  if e.single ≠ [] then noteMxCode (setToken s e.core e.tok e.launch word) e.launch e.core e.tok word
  else finishCmd s e.ref word detail

/-- The completion word of a descriptor (R88). (DEDUCED: log entry 35). -/
def mxWord (code : Nat) (sat : Bool) : Word := reg [fld 0 8 code, flg 8 sat]

/-- Record a descriptor's completion word in the list's completion (CW_VA). -/
def recordWord (s : State) (h : Nat) (e : HEntry) (word : Word) : State :=
  if e.cwVa = 0 ∨ e.single ≠ [] then s
  else engineWrite s (0x340 + h) h e.ref (e.cwVa + 4 * e.idx) (leBytes 4 word.toNat)

/-- A descriptor ends with a code: the next of the list follows, or the list ends (R88, R89). -/
def endDesc (s : State) (h : Nat) (load : Bool) (e : HEntry) (w : List Word) (code : Nat) (sat : Bool) : State :=
  let word := mxWord code sat
  let s := recordWord s h e word
  if e.single ≠ [] then endEntry s h load e word 0
  else if code ≠ 0 then endEntry s h load e word (BitVec.ofNat 32 e.idx)
  else if dLast w ∨ 4095 ≤ e.idx then endEntry s h load e 0 0xFFFFFFFF
  else
    let q := hq (hallOf s h) load e.ref.ctx
    modHall s h fun x => setHq x load e.ref.ctx
      ⟨q.entries.map fun y => if y.arrival = e.arrival then { y with idx := y.idx + 1 } else y, none⟩

/-- (DEDUCED: log entry 37). -/
def hallFault (kind h : Nat) (e : HEntry) (arg addr : Nat) (extra : List Nat) : FaultMsg :=
  { cmdFault (0x340 + h) kind h e.ref arg addr with extra := extra }

def modRun (s : State) (h : Nat) (load : Bool) (ctx : Nat) (f : Running → Running) : State :=
  modHall s h fun x => setHq x load ctx { hq x load ctx with run := (hq x load ctx).run.map f }

/-- Hall cycles of one vector pass (R82). -/
def passCycles (w : List Word) (last : Bool) : Nat :=
  let a := cdiv (dKc w * (if fmt4 (dAFmt w) then 4 else 8)) (8 * rateA (dASrc w))
  if last ∧ ¬ dAccHold w then max a (cdiv (256 * outBits (dOut w)) (8 * rateC (dCDst w))) else a

/-- Run up to `n` vector passes of the front descriptor, until a rule stops it. Passes run column block by column block
(R76), so with NT > 1 a NaN of a later column block stops the descriptor with the earlier blocks' outputs of that and
later vectors written, and the lowest m is that of the first pass in this order: R80 does not order the two.
(DESIGN CHOICE: log entry 38, DESIGN CHOICE: log entry 98). -/
def runPasses : Nat → State → Nat → Bool → HEntry → State
  | 0, s, _, _, _ => s
  | n + 1, s, h, load, e =>
    match (hq (hallOf s h) load e.ref.ctx).run with
    | none => s
    | some r =>
      let m := dVecs r.words r.seqs
      if passCount r.words m ≤ r.next then s
      else
        let p := passOf r.words m r.next
        let x : Work := ⟨issueOf h load e, r.words, r.num, m, p, (r.seqs.getD p.m (0, 0)).2⟩
        match runPass s x with
        | .done s' sat =>
          let c := passCycles r.words (p.kt + 1 == dKT r.words)
          let s' := modHall s' h fun y => { y with clk := y.clk + c, fresh := y.fresh.filter fun f => y.clk + c < f.clk + 48 }
          let s' := modRun (draw s') h load e.ref.ctx fun r => { r with next := r.next + 1, sat := r.sat || sat }
          runPasses n s' h load e
        | .ecc _ off =>
          let s := modHall s h fun y => { y with unc := satInc 0xFFFF y.unc }
          endDesc (raise s (hallFault 0x11 h e (dTag r.words) off [])) h load e r.words 0x0A r.sat
        | .nan s m n sat =>
          endDesc (raise s (hallFault 0x13 h e (dTag r.words) 0 [h, 0, dTag r.words, m, n, 0, 0])) h load e r.words 0x09 (r.sat || sat)
        | .tag =>
          endDesc (raise s (cmdFault 0x350 0x22 uGallery e.ref 0x08 0)) h load e r.words 0x08 r.sat

/-- The descriptor's vectors or bytes are done: it completes (R69). -/
def finishRun (s : State) (h : Nat) (load : Bool) (e : HEntry) : State :=
  match (hq (hallOf s h) load e.ref.ctx).run with
  | some r => if passCount r.words (dVecs r.words r.seqs) ≤ r.next then endDesc s h load e r.words 0 r.sat else s
  | none => s

/-! ### Transfers (R71, R94, R168, R169) -/

/-- A transfer of list kind: the permission it needs, and the store location of its byte k. -/
def xferNeed (w : List Word) : Nat := if dOp w = 3 then 2 else 1
def xferLoc (s : State) (h : Nat) (e : HEntry) (w : List Word) (k : Nat) : Loc :=
  let rg := regionOf s h e.ref.ctx
  if dOp w = 1 then .wgt (rg.wBase * unitBytes + dBBase w + k) else .act (rg.aBase * unitBytes + dABase w + k)

/-- CAUSE of the refusal of a transfer's byte k, or 8 for a read that an uncorrectable error ends. -/
def xferRefusal (s : State) (e : HEntry) (w : List Word) (k : Nat) : Option Nat :=
  match translateN s e.ref.ctx (dVa w + k) 1 (xferNeed w) with
  | .error c => some c
  | .ok ps => if xferNeed w = 1 ∧ lost s ps then some 8 else none

/-- The first refused byte of [a, b). -/
def xferStop (s : State) (e : HEntry) (w : List Word) (a b : Nat) : Option (Nat × Nat) :=
  (List.range (b - a)).findSome? fun k => (xferRefusal s e w (a + k)).map fun c => (a + k, c)

/-- End of the units whose translations a transfer that has moved `n` bytes has requested: the unit it is in and the
next (R168). -/
def lookTo (w : List Word) (n : Nat) : Nat := min (dLen w) ((n / unitBytes + 2) * unitBytes)

/-- Move up to `n` more bytes of a transfer: the state, and the code it ends with, none while bytes are left. A refused
access stops it (R71, R170), and so does a row with an uncorrectable error (R94). (DESIGN CHOICE: log entry 38). -/
def moveBytes (s : State) (h : Nat) (e : HEntry) (r : Running) (n : Nat) : State × Option Nat :=
  let w := r.words
  let loc := xferLoc s h e w
  let goal := min (dLen w) (r.moved + n)
  let cut (k : Option Nat) : Nat := k.getD goal
  let stop := r.stop.or (xferStop s e w r.moved (max goal (lookTo w goal)))
  let badRow := if dOp w = 3 then (List.range (goal - r.moved)).findSome? fun k => (locBad s h (loc (r.moved + k))).map fun _ => r.moved + k else none
  let upto := min (cut badRow) (cut ((stop.map Prod.fst).filter fun k => k < goal))
  let m := upto - r.moved
  let va := dVa w + r.moved
  let s1 :=
    if dOp w = 3 then
      match devWrite s e.ref.ctx va ((List.range m).map fun k => pipeByte s h e.ref.ctx r.num k (loc (r.moved + k))) with
      | .ok s' => s'
      | .error _ => s
    else
      match devRead s e.ref.ctx va m with
      | .ok bs => locPuts (sawRange s e.ref.ctx va m 1) h e.ref.ctx r.num ((List.range m).zip bs |>.map fun p => (loc (r.moved + p.1), p.2))
      | .error _ => s
  let s1 := modHall s1 h fun y => { y with clk := y.clk + m / 128 }
  if upto < goal then
    match stop with
    | some (k, c) =>
      if k = upto then (raiseMem s1 (memFault (0x340 + h) h e.ref (if xferNeed w = 2 then 1 else 0) c (dVa w + k)), some (if c = 8 then 0x0A else cBOUNDS))
      else rowStop s1 upto
    | none => rowStop s1 upto
  else if goal = dLen w then (s1, some 0)
  else (modRun s1 h (slotLoadOf s h) e.ref.ctx fun r => { r with moved := goal, stop := stop }, none)
where
  rowStop (s : State) (k : Nat) : State × Option Nat :=
    let s := modHall s h fun y => { y with unc := satInc 0xFFFF y.unc }
    (raise s (hallFault 0x11 h e (dTag r.words) (dABase r.words + k) []), some 0x0A)
  slotLoadOf (s : State) (h : Nat) : Bool := ((hq (hallOf s h) true e.ref.ctx).run.map Running.num) == some r.num

/-- Advance a transfer; one that ends completes its descriptor. -/
def advanceXfer (s : State) (h : Nat) (load : Bool) (e : HEntry) (r : Running) (n : Nat) : State :=
  let p := moveBytes s h e r n
  match p.2 with
  | some c => endDesc (draw p.1) h load e r.words c false
  | none => p.1

/-- Before a mapping of a context changes, its started transfers move the units whose translations they have requested
(R169): an access translated before the change completes under the old mapping. (DESIGN CHOICE: log entry 38). -/
def drainXfers (s : State) (ctx : Nat) : State :=
  (List.range 8).foldl (fun s k =>
    let h := k / 2
    let load := k % 2 == 1
    let q := hq (hallOf s h) load ctx
    match q.entries, q.run with
    | e :: _, some r => if dOp r.words = 0 then s else advanceXfer s h load e r (lookTo r.words r.moved - r.moved)
    | _, _ => s) s

/-! ### Sequence batches (R96 to R99) -/

/-- A batch notice of Newel's Hall mailbox: join or leave completed, or a join waits (R529).
(DEDUCED: log entry 30). -/
def batchNotice (s : State) (h status b q : Nat) : State := notify s (0x212 + h) 0x21 (fld 0 6 b + fld 16 10 q + fld 26 8 status)

/-- Process the waiting leaves, in arrival order. (DEDUCED: log entry 30). -/
def doLeaves : List SeqReq → State → Nat → State
  | [], s, _ => s
  | l :: r, s, b =>
    match batchOf s b with
    | none => s
    | some x =>
      let s :=
        if x.active.any fun p => p.1 == l.seq then
          batchNotice (finishCmd (setBatch s b { x with active := x.active.filter fun p => p.1 != l.seq }) l.ref 0x51 0)
            x.hall 0x51 b l.seq
        else match x.waiting.find? fun j => j.join && j.seq == l.seq with
          | some j =>
            let s := setBatch s b { x with waiting := x.waiting.filter fun y => !(y == j) }
            batchNotice (finishCmd (batchNotice (finishCmd s j.ref 0x52 0) x.hall 0x52 b j.seq) l.ref 0x51 0) x.hall 0x51 b l.seq
          | none => batchNotice (finishCmd s l.ref 0x54 0) x.hall 0x54 b l.seq
      doLeaves r s b

/-- The lowest state slot of the pool that no active sequence holds. -/
def freeSlot (x : Batch) : Option Nat := (List.range x.p).find? fun k => !(x.active.any fun p => p.2 == k)

/-- Insert by ascending identity. -/
def insSeq (l : List (Nat × Nat)) (p : Nat × Nat) : List (Nat × Nat) := tput l p.1 p.2

/-- Byte `k` of a batch's initial-state template (R96). -/
def tplLoc (s : State) (x : Batch) (k : Nat) : Loc := .act ((regionOf s x.hall x.ctx).aBase * unitBytes + x.tpl + k)

/-- Offset of the first byte of the template in a row with an uncorrectable error (R94). -/
def tplBad (s : State) (x : Batch) : Option Nat :=
  if x.tpl = 0xFFFFFFFF then none
  else (List.range x.s).findSome? fun k => (locBad s x.hall (tplLoc s x k)).map fun _ => x.tpl + k

/-- Process up to J_MAX waiting joins; without a free state slot the join and those after it stay.
A join beyond J_MAX raises no event. (DEDUCED: log entry 30). -/
def doJoins : Nat → List SeqReq → State → Nat → State
  | 0, _, s, _ => s
  | _, [], s, _ => s
  | n + 1, j :: r, s, b =>
    match batchOf s b with
    | none => s
    | some x =>
      match freeSlot x with
      | none =>
        -- a join within J_MAX that stays waiting for the first time reports it
        (j :: r).take (n + 1) |>.foldl (fun s j =>
          if j.told then s
          else
            let s := { s with mh := { s.mh with batches := tmod s.mh.batches b fun x =>
              { x with waiting := x.waiting.map fun y => if y == j then { y with told := true } else y } } }
            batchNotice s x.hall 0x55 b j.seq) s
      | some slot =>
        let rg := regionOf s x.hall x.ctx
        let tplByte (k : Nat) : Byte :=
          if x.tpl = 0xFFFFFFFF then 0 else locByte s x.hall x.ctx (tplLoc s x k)
        let s := boundaryPuts s x.hall x.ctx ((List.range x.s).map fun k =>
          (.act (rg.aBase * unitBytes + x.pool + slot * x.s + k), tplByte k))
        let s := setBatch s b { x with active := insSeq x.active (j.seq, slot), waiting := x.waiting.filter fun y => !(y == j) }
        doJoins n r (batchNotice (finishCmd s j.ref 0x50 (BitVec.ofNat 32 slot)) x.hall 0x50 b j.seq) b

/-- The step boundary of R97: leaves, joins, the active table. Where a join would fill its state from a template in a row
with an uncorrectable error, the joins stay waiting and the error's offset is answered.
(DESIGN CHOICE: log entry 98). -/
def stepBoundary (s : State) (b : Nat) : State × Option Nat :=
  let s := boundaryLeaves s b
  let bad := (batchOf s b).bind fun x => if (freeSlot x).isSome ∧ x.waiting.any SeqReq.join then tplBad s x else none
  (boundaryTable (if bad.isSome then s else boundaryJoins s b) b, bad)
where
  boundaryLeaves (s : State) (b : Nat) : State :=
    match batchOf s b with
    | none => s
    | some x =>
      doLeaves (x.waiting.filter fun j => !j.join) (setBatch s b { x with waiting := x.waiting.filter SeqReq.join }) b
  boundaryJoins (s : State) (b : Nat) : State :=
    match batchOf s b with
    | none => s
    | some x => doJoins x.jmax x.waiting s b
  boundaryTable (s : State) (b : Nat) : State :=
    match batchOf s b with
    | none => s
    | some x =>
      let rg := regionOf s x.hall x.ctx
      let bytes := leBytes 4 x.active.length ++ x.active.flatMap fun p => leBytes 2 p.1
      boundaryPuts s x.hall x.ctx ((List.range bytes.length).zip bytes |>.map fun p =>
        (.act (rg.aBase * unitBytes + x.tab + p.1), p.2))

/-! ### Hazards between the two queues (R91) -/

/-- The 64 KiB units [lo, hi) of a store range: (store, unit). -/
def unitSpan (store lo hi : Nat) : List (Nat × Nat) :=
  if hi ≤ lo then [] else (List.range ((hi - 1) / unitBytes - lo / unitBytes + 1)).map fun k => (store, lo / unitBytes + k)

/-- Units of the vectors of an operand array in the activation region, or of the sequence state it names. -/
def vecUnits (s : State) (w : List Word) (seqs : List (Nat × Nat)) (src unit base s1 s2 n : Nat) : List (Nat × Nat) :=
  let m := dVecs w seqs
  if src = 0 then ((List.range m).flatMap fun k => unitSpan 1 (vecOff base s1 s2 (dInner w m) k) (vecOff base s1 s2 (dInner w m) k + n)).eraseDups
  else if src = 3 then
    (seqs.flatMap fun p => ((batchOf s unit).map fun b => unitSpan 1 (seqBase b p.2 + base) (seqBase b p.2 + base + n)).getD []).eraseDups
  else []

/-- Units of a context's regions that a descriptor reads. -/
def unitsRead (s : State) (w : List Word) (seqs : List (Nat × Nat)) : List (Nat × Nat) :=
  let m := dVecs w seqs
  if dOp w = 3 then unitSpan 1 (dABase w) (dABase w + dLen w)
  else if dOp w ≠ 0 then []
  else
    let ab := cdiv (dK w * (if fmt4 (dAFmt w) then 4 else 8)) 8
    let tiles := dKT w * dNT w
    vecUnits s w seqs (dASrc w) (dAUnit w) (dABase w) (dAS1 w) (dAS2 w) ab
    ++ (if fmtBs (dAFmt w) then
          (if dASrc w = 0 then unitSpan 1 (dAExp w) (dAExp w + m * (dK w / dBlk w))
           else vecUnits s w seqs (dASrc w) (dAUnit w) (dAExp w) 0 0 (dK w / dBlk w)) else [])
    ++ (if dBSrc w then [] else unitSpan 0 (dBBase w) (dBBase w + tiles * 65536))
    ++ (if fmtBs (dBFmt w) ∧ ¬ dBSrc w then unitSpan 0 (dBExp w) (dBExp w + tiles * (dKc w / dBlk w) * 256) else [])
    ++ (if dAccHold w then [] else unitSpan 0 (dPBase w) (dPBase w + 8 * dN w))
    ++ (if dAccIn w ∨ 1 < dKT w then unitSpan 1 (dAcc w) (dAcc w + m * dNT w * 1024) else [])

def unitsWritten (s : State) (w : List Word) (seqs : List (Nat × Nat)) : List (Nat × Nat) :=
  let m := dVecs w seqs
  if dOp w = 1 then unitSpan 0 (dBBase w) (dBBase w + dLen w)
  else if dOp w = 2 then unitSpan 1 (dABase w) (dABase w + dLen w)
  else if dOp w ≠ 0 then []
  else
    (if dAccHold w ∨ 1 < dKT w then unitSpan 1 (dAcc w) (dAcc w + m * dNT w * 1024) else [])
    ++ (if dAccHold w then [] else
          vecUnits s w seqs (dCDst w) (dCUnit w) (dCBase w) (dCS1 w) (dCS2 w) (cdiv (dN w * outBits (dOut w)) 8))

/-- The words of descriptor `k` of an entry, for the hazard rule. (DEDUCED: log entry 33). -/
def entryDesc (s : State) (e : HEntry) (k : Nat) : Option (List Word) :=
  if e.single ≠ [] then some e.single
  else match readStruct s e.ref.ctx (e.va + 128 * k) 128 1 with
    | .ok w => some w
    | .error _ => none

/-- Descriptors of an entry that have not completed. -/
def entryRest (s : State) (e : HEntry) : Nat → Nat → List (List Word)
  | 0, _ => []
  | fuel + 1, k =>
    match entryDesc s e k with
    | none => []
    | some w => w :: (if dLast w ∨ e.single ≠ [] then [] else entryRest s e fuel (k + 1))

/-- A descriptor of the other queue that arrived earlier and has not completed conflicts (R91). -/
def hazard (s : State) (h : Nat) (load : Bool) (e : HEntry) (w : List Word) (seqs : List (Nat × Nat)) : Bool :=
  let rd := unitsRead s w seqs
  let wr := unitsWritten s w seqs
  (hq (hallOf s h) (!load) e.ref.ctx).entries.any fun o =>
    o.arrival < e.arrival && (entryRest s o (4096 - o.idx) o.idx).any fun v =>
      let sq := ((batchOf s (dBatch v)).map Batch.active).getD []
      let orr := unitsRead s v sq
      let ow := unitsWritten s v sq
      (wr.any fun u => orr.contains u || ow.contains u) || (rd.any fun u => ow.contains u)

/-! ### The steps of a run -/

/-- The queue a Hall serves in its current slot (R66): load in load slots, compute in house and tenant slots. -/
def slotLoad (x : HallState) : Bool := x.kind == 3

/-- An MX.ISSUE descriptor that reads or writes the issuing core's local store. -/
def usesLocal (e : HEntry) (w : List Word) : Bool := e.single != [] && (dASrc w == 1 || dCDst w == 1 || dBSrc w)

/-- It makes progress only while its core runs the launch (R89). -/
def coreRuns (s : State) (e : HEntry) (w : List Word) : Bool :=
  !usesLocal e w
    || ((coreOf s e.core).kind != 0 && (coreOf s e.core).ctx == e.ref.ctx && (coreOf s e.core).xfer == 0)

/-- The started descriptor of a queue may make progress (R89). -/
def mayRun (s : State) (e : HEntry) (r : Running) : Bool := coreRuns s e r.words && !r.susp

/-- The core's slot ends: the started descriptors that use its local store are suspended at their vector boundary until
their context's next Hall slot (R89). What their vectors in flight write is written when they enter. -/
def suspendLocal (s : State) (core : Nat) : State :=
  { s with mh := { s.mh with halls := s.mh.halls.map fun x =>
      { x with comp := x.comp.map fun p =>
          match p.2.entries with
          | e :: _ => if e.core = core ∧ (p.2.run.any fun r => usesLocal e r.words) then
              (p.1, { p.2 with run := p.2.run.map fun r => { r with susp := true } }) else p
          | [] => p } } }

/-- A run starts in the Hall's current slot: the numeric controls and the trap are sampled (R120, R125); rows
in which the run meets corrected errors are counted, rows with an uncorrectable error are marked (R94). -/
def hallRunStart (s : State) (h corr : Nat) (bad : List (Nat × Nat)) : State :=
  let x := hallOf s h
  if 4 ≤ h ∨ x.kind = 0 ∨ x.kind = 4 then s
  else
    let q := hq x (slotLoad x) x.ctx
    let s := setHall s h { x with
      busy := q.entries != [], keep := s.num.keep && s.num.svc != 0,
      trap := x.ctx == 0x200 || ((ctxOf s x.ctx).map Ctx.nanTrap).getD false,
      corr := sat 0xFFFF (x.corr + corr), badRows := x.badRows ++ bad.filter fun b => !x.badRows.contains b }
    (List.range corr).foldl (fun s _ => raise s (ctxFault (0x340 + h) 0x10 h x.ctx 0 0)) s

/-- The Hall takes the next descriptor of the queue it serves: the step boundary, the checks, the hazard.
(DEDUCED: log entry 33, DESIGN CHOICE: log entry 38). -/
def descriptorStart (s : State) (h : Nat) : State :=
  let x := hallOf s h
  let load := slotLoad x
  let q := hq x load x.ctx
  if 4 ≤ h ∨ ¬ x.busy ∨ x.kind = 0 ∨ x.kind = 4 ∨ q.run.isSome then s
  else match q.entries with
  | [] => s
  | e :: _ =>
    -- the step boundary falls when the first descriptor of the step enters the run
    let sb := match e.batch with
      | some b => if e.stepped then (s, none) else stepBoundary s b
      | none => (s, none)
    let e' := { e with stepped := true }
    let s := modHall sb.1 h fun y => setHq y load y.ctx { hq y load y.ctx with entries := (hq y load y.ctx).entries.map fun z =>
      if z.arrival = e.arrival then e' else z }
    match (if e.single ≠ [] then Except.ok e.single else readStruct s e.ref.ctx (e.va + 128 * e.idx) 128 1) with
    | .error (va, c) => endDesc (raiseMem s (memFault (0x340 + h) h e.ref 0 c va)) h load e' [] (if c = 8 then 0x0A else cBOUNDS) false
    | .ok w =>
      let s := if e.single ≠ [] then s else sawStruct s e.ref.ctx (e.va + 128 * e.idx) w
      let seqs := if dSeq w then ((batchOf s (dBatch w)).map Batch.active).getD [] else []
      let skip : Bool := match e.batch with
        | some b => dOp w == 0 && (((batchOf s b).map Batch.active).getD []).isEmpty
        | none => false
      match sb.2 with
      | some off =>
        let s := modHall s h fun y => { y with unc := satInc 0xFFFF y.unc }
        endDesc (raise s (hallFault 0x11 h e' (dTag w) off [])) h load e' w 0x0A false
      | none =>
      if skip ∧ (structOk w 128 descRsv).isNone then endDesc s h load e' w 0 false
      else match checkDesc s (issueOf h load e') w seqs with
      | some c => endDesc (raise s (hallFault 0x14 h e' (dTag w) 0 [])) h load e' w c false
      | none =>
        if hazard s h load e' w seqs then { s with tt := { s.tt with waited := (h, x.ctx) :: s.tt.waited.erase (h, x.ctx) } }
        else if ¬ coreRuns s e' w then s
        else modHall s h fun y =>
          let y := if dDep w then { y with fresh := [], clk := y.clk + 48 } else y
          let stop := if dOp w = 0 then none else xferStop s e' w 0 (lookTo w 0)
          setHq { y with started := y.started + 1 } load y.ctx
            { hq y load y.ctx with run := some ⟨w, y.started + 1, 0, false, seqs, 0, stop, false⟩ }

/-- The running descriptor completes: its last vectors, or its transfer. (DESIGN CHOICE: log entry 38). -/
def descriptorComplete (s : State) (h : Nat) : State :=
  let x := hallOf s h
  let load := slotLoad x
  let q := hq x load x.ctx
  if 4 ≤ h ∨ ¬ x.busy then s
  else match q.entries, q.run with
  | e :: _, some r =>
    if ¬ mayRun s e r then s
    else if dOp r.words = 0 then
      finishRun (runPasses (passCount r.words (dVecs r.words r.seqs) - r.next) s h load e) h load e
    else advanceXfer s h load e r (dLen r.words)
  | _, _ => s

/-- The input stage stops at the end of a slot after `n` more vectors of the running descriptor, or `n` more 128 B of
its transfer; what is left is suspended, and a descriptor with nothing left completes (R69). The Hall is idle until its
next slot. (DESIGN CHOICE: log entry 38). -/
def hallSlotEnd (s : State) (h n : Nat) : State :=
  let x := hallOf s h
  let load := slotLoad x
  let q := hq x load x.ctx
  if 4 ≤ h then s
  else
    let s := match q.entries, q.run with
      | e :: _, some r =>
        if ¬ x.busy ∨ ¬ mayRun s e r then s
        else if dOp r.words = 0 then finishRun (runPasses n s h load e) h load e
        else advanceXfer s h load e r (128 * n)
      | _, _ => s
    let s := modRun s h load x.ctx fun r => { r with susp := false }
    modHall s h fun y => { y with busy := false, kind := 0, ctx := 0, fresh := [] }

/-! ### Dispatch into the queues (R66, R67) -/

/-- The queue has a free entry. (DEDUCED: log entry 30). -/
def hallRoom (s : State) (h : Nat) (load : Bool) (ctx : Nat) : Bool := (hq (hallOf s h) load ctx).entries.length < 64

/-- Place an entry. A Hall whose run of that queue is in progress serves it in the same run. -/
def hallPush (s : State) (h : Nat) (load : Bool) (e : HEntry) : State :=
  modHall s h fun x =>
    let q := hq x load e.ref.ctx
    let x := setHq { x with arrivals := x.arrivals + 1 } load e.ref.ctx { q with entries := q.entries ++ [{ e with arrival := x.arrivals + 1 }] }
    if x.ctx = e.ref.ctx ∧ slotLoad x = load ∧ x.kind ≠ 0 ∧ x.kind ≠ 4 then { x with busy := true } else x

/-- An MX_LIST or SEQ_STEP entry. -/
def listEntry (ref : CmdRef) (va cw : Nat) (batch : Option Nat) : HEntry :=
  ⟨ref, [], 0, 0, 0, va, cw, 0, 0, batch, false, 0, 0⟩

/-! ### Abort (R92, R93) -/

/-- Discard the entries of a queue selected by `pick`: the running one completes with ABORTED and the index
of the descriptor it stopped at, each with its token or command; every discarded descriptor's word is ABORTED.
(DEDUCED: log entry 35). -/
def abortHall (s : State) (h : Nat) (load : Bool) (ctx : Nat) (pick : HEntry → Bool) : State :=
  ((hq (hallOf s h) load ctx).entries.filter pick).foldl (fun s e =>
    let q := hq (hallOf s h) load ctx
    let s := modHall s h fun x => setHq x load ctx
      ⟨q.entries.filter fun y => y.arrival != e.arrival,
       if (q.entries.head?.map HEntry.arrival) = some e.arrival then none else q.run⟩
    let sat := (q.entries.head?.map HEntry.arrival) == some e.arrival && (q.run.any Running.sat)
    let word := mxWord cABORTED sat
    let s := (List.range (max 1 (entryRest s e (4096 - e.idx) e.idx).length)).foldl (fun s k => recordWord s h { e with idx := e.idx + k } (mxWord cABORTED (sat && k == 0))) s
    if e.single ≠ [] then noteMxCode (setToken s e.core e.tok e.launch word) e.launch e.core e.tok word
    else finishCmd s e.ref word (BitVec.ofNat 32 e.idx)) s

/-- Discard the work of a queue on one Hall, both kinds. -/
def abortHallQueue (s : State) (h q : Nat) : State :=
  let ctxs := ((hallOf s h).comp.map Prod.fst ++ (hallOf s h).load.map Prod.fst).eraseDups
  ctxs.foldl (fun s c =>
    abortHall (abortHall s h false c fun e => e.ref.queue == q) h true c fun e => e.ref.queue == q) s

/-- Discard the descriptors that a launch issued, on every Hall (R126, R151). -/
def abortLaunchDescs (s : State) (ctx launch : Nat) : State :=
  (List.range 4).foldl (fun s h => abortHall s h false ctx fun e => e.single != [] && e.launch == launch) s

/-- Requests of a batch that belong to a queue are discarded with ABORTED (R321). -/
def abortSeq (s : State) (h q : Nat) : State :=
  s.mh.batches.foldl (fun s p =>
    if p.2.hall = h then
      let gone := p.2.waiting.filter fun j => j.ref.queue == q
      gone.foldl (fun s j => finishCmd s j.ref (BitVec.ofNat 32 cABORTED) 0)
        (setBatch s p.1 { p.2 with waiting := p.2.waiting.filter fun j => j.ref.queue != q })
    else s) s

/-! ### Requests on batches (R96, R98) -/

def bodySeqBatchCreate : Body := fun who r s =>
  let b := r.block
  let x : Batch := ⟨who, (wd b 1).toNat, (wd b 2).toNat, (wd b 3).toNat, (wd b 4).toNat, (wd b 5).toNat,
                    (wd b 6).toNat, (wd b 7).toNat, (wd b 8).toNat, [], []⟩
  let size := (regionOf s x.hall who).aSize * unitBytes
  if 4 ≤ x.hall ∨ x.s < 256 ∨ 4096 < x.s ∨ x.s % 256 ≠ 0 ∨ x.p < 1 ∨ 1024 < x.p ∨ x.q < 1 ∨ 1024 < x.q ∨ x.q < x.p
      ∨ x.jmax < 1 ∨ 1024 < x.jmax ∨ x.pool % 256 ≠ 0 ∨ x.tab % 256 ≠ 0
      ∨ (x.tpl ≠ 0xFFFFFFFF ∧ x.tpl % 256 ≠ 0) then errRes s cRANGE
  else if size < x.pool + x.p * x.s ∨ size < x.tab + 4 + 2 * x.q
      ∨ (x.tpl ≠ 0xFFFFFFFF ∧ size < x.tpl + x.s) then errRes s cRANGE
  else if ((ctxOf s who).map fun c => c.quota.batches).getD 0 ≤ (s.mh.batches.filter fun p => p.2.ctx == who).length then errRes s cQUOTA
  else match tfree s.mh.batches 64 with
    | none => errRes s cNOSLOT
    | some k => okRes (setBatch s k x) [BitVec.ofNat 32 k]

/-- Destroy a batch: every waiting join and leave completes with CANCELLED. -/
def dropBatch (s : State) (b : Nat) : State :=
  match batchOf s b with
  | none => s
  | some x =>
    x.waiting.foldl (fun s j => finishCmd s j.ref 0x52 0) { s with mh := { s.mh with batches := tdel s.mh.batches b } }

def bodySeqBatchDestroy : Body := fun who r s =>
  let b := (wd r.block 1).toNat
  match batchOf s b with
  | none => errRes s cBADHANDLE
  | some x => if x.ctx ≠ who then errRes s cNOTGRANTED else okRes (dropBatch s b) []

/-! ### The array test (R95) -/

/-- The Hall's array test in the maintenance slot: it runs while the Hall holds no slot but maintenance
and its house-free time lasts (R330), else it is deferred; a failed row or column raises MX_LINE with its physical line number. -/
def hallArrayTest (s : State) (h : Nat) (failed : List (Bool × Nat)) : State :=
  if 4 ≤ h ∨ (hallOf s h).kind ≠ 4 ∨ ((s.tt.readyPrev.getD h none).any fun c => c ≤ s.tt.cycle) then s
  else failed.foldl (fun s l =>
    let s := wantSpare s (100 + h) (2 * l.2 + (if l.1 then 1 else 0))
    raise s (plainFault (0x340 + h) 0x12 h (if l.1 then 1 else 0) l.2)) s

end Sys2Proof.Machine
end

