-- ==== Sys2Proof/Machine/ReqContexts.lean ====
section
/-! DEFINITION. The requests on contexts, memory objects, queues and fences (spec/10; rows 0x10 to 0x2A of
R527), and the release of an object. -/

namespace Sys2Proof.Machine
open Sys2Proof

/-! ### The free frame pool (R295, R166) -/

/-- Take `n` frames, the lowest free ones. (DESIGN CHOICE: log entry 24). -/
def takeFrames : List (Nat × Nat) → Nat → Option (List (Nat × Nat) × List (Nat × Nat))
  | rs, 0 => some ([], rs)
  | [], _ + 1 => none
  | (f, c) :: r, n + 1 =>
    if n + 1 < c then some ([(f, n + 1)], (f + (n + 1), c - (n + 1)) :: r)
    else (takeFrames r (n + 1 - c)).map fun p => ((f, c) :: p.1, p.2)

/-- Take `n` runs of 32 frames, each on a 2 MiB boundary, as they lie free together. (DESIGN CHOICE: log entry 24). -/
def takeBig : List (Nat × Nat) → Nat → Option (List (Nat × Nat) × List (Nat × Nat))
  | rs, 0 => some ([], rs)
  | [], _ + 1 => none
  | (f, c) :: r, n + 1 =>
    let a := (f + 31) / 32 * 32
    let k := min (n + 1) ((f + c - a) / 32)
    if k = 0 then (takeBig r (n + 1)).map fun p => (p.1, (f, c) :: p.2)
    else
      (takeBig r (n + 1 - k)).map fun p =>
        ((a, 32 * k) :: p.1,
          (if f < a then [(f, a - f)] else []) ++
          (if a + 32 * k < f + c then [(a + 32 * k, f + c - (a + 32 * k))] else []) ++ p.2)

/-- Return one run to the pool, in ascending order, joined with its neighbours. -/
def addRun : List (Nat × Nat) → Nat × Nat → List (Nat × Nat)
  | [], x => [x]
  | (f, c) :: r, (a, n) =>
    if a + n < f then (a, n) :: (f, c) :: r
    else if a + n = f then (a, n + c) :: r
    else if f + c = a then addRun r (f, c + n)
    else (f, c) :: addRun r (a, n)

def addRuns (pool rs : List (Nat × Nat)) : List (Nat × Nat) := rs.foldl addRun pool

/-- Frames that go back to the pool: the withdrawn ones do not (R194). -/
def backToPool (s : State) (rs : List (Nat × Nat)) : List (Nat × Nat) := s.cx.withdrawn.foldl cutFrame rs

/-! ### Use and slots (R292, R293, R468) -/

def ownedObjs (s : State) (who : Nat) : Nat := (s.cx.objs.filter fun p => p.2.st != .free && p.2.owner == who).length
def ownedBytes (s : State) (who : Nat) : Nat :=
  (s.cx.objs.filter fun p => p.2.st != .free && p.2.owner == who && p.2.policy != 2).foldl (fun n p => n + p.2.bytes) 0
def ownedQueues (s : State) (who : Nat) : Nat := (s.cc.queues.filter fun p => p.2.st != .free && p.2.owner == who).length
def ownedFences (s : State) (who : Nat) : Nat := (s.cc.fences.filter fun p => p.2.owner == who).length

/-- The object slot the next allocation takes, least recently freed first: slots never used stand before
those freed later (R468). (DESIGN CHOICE: log entry 24). -/
def nextObjSlot (s : State) : Option Nat :=
  if s.cx.objs.length < 65536 then some s.cx.objs.length else s.cx.freed.head?

def nextGen (s : State) (slot : Nat) : Nat :=
  match objOf s slot with
  | none => 1
  | some o => if o.gen = 0xFFFF then 1 else o.gen + 1

/-- Create an object in its slot. -/
def newObj (s : State) (slot : Nat) (o : Obj) : State :=
  let s := setObj s slot o
  { s with cx := { s.cx with freed := s.cx.freed.filter fun x => x != slot } }

/-- Quota left for one more object of `bytes` bytes; the operator driver has none (R292, R293). -/
def objQuotaOk (s : State) (who bytes : Nat) : Bool :=
  match ctxOf s who with
  | none => true
  | some c => who == 0x300 || decide (ownedObjs s who < c.quota.objects ∧ ownedBytes s who + bytes ≤ c.quota.memBytes)

/-! ### Contexts (R293, R294, R322) -/

def quotaOk (q : Quota) : Bool :=
  decide (1 ≤ q.queues ∧ q.queues ≤ 64 ∧ 16 ≤ q.objects ∧ q.objects ≤ 8192 ∧ 16 ≤ q.fences ∧ q.fences ≤ 1024
    ∧ 65536 ≤ q.memBytes ∧ q.memBytes ≤ 45 * 2 ^ 30 ∧ q.memBytes % 65536 = 0 ∧ q.cmpSlots ≤ 32 ∧ q.batches ≤ 8)

/-- (DEDUCED: log entry 25). -/
def sumQuota (s : State) (f : Quota → Nat) : Nat :=
  (s.cx.ctxs.filter fun p => p.2.st != .free).foldl (fun n p => n + f p.2.quota) 0

/-- The sums over all contexts stay within the slot counts; what the operator driver holds counts (R292,
R293). (DEDUCED: log entry 25). -/
def quotaSumsOk (s : State) (q : Quota) : Bool :=
  decide (sumQuota s Quota.queues + ownedQueues s 0x300 + q.queues ≤ 2048
    ∧ sumQuota s Quota.objects + ownedObjs s 0x300 + q.objects ≤ 65536
    ∧ sumQuota s Quota.fences + ownedFences s 0x300 + q.fences ≤ 16384
    ∧ sumQuota s Quota.cmpSlots + q.cmpSlots ≤ 256 ∧ sumQuota s Quota.batches + q.batches ≤ 64)

/-- An entry flight to Deep Sleep or Off runs (R480). (DEDUCED: log entry 47). -/
def deepEntry (s : State) : Bool := s.pw.entering == some .deepSleep || s.pw.entering == some .off

def freshCtx (q : Quota) (owner : List Byte) (incarn : Nat) : Ctx :=
  ⟨.created, q, owner, incarn, false, [], [], [], 0, 0, []⟩

def bodyCtxCreate : Body := fun _ r s =>
  let b := r.block
  let id := bits (wd b 1) 11 0
  let q : Quota := ⟨(wd b 18).toNat, (wd b 19).toNat, (wd b 20).toNat, dwd b 21, (wd b 23).toNat, (wd b 24).toNat⟩
  if deepEntry s then errRes s cBUSY
  else if ¬ (isTenant id ∨ (0x201 ≤ id ∧ id ≤ 0x207)) then errRes s cRANGE
  else if ctxState s id ≠ .free then errRes s cRANGE
  else if ¬ quotaOk q ∨ ¬ quotaSumsOk s q then errRes s cRANGE
  else
    let n := s.cx.incarnNext
    let s := setCtx s id (freshCtx q (blkBytes b 8 64) n)
    okRes (newKey { s with cx := { s.cx with incarnNext := n + 1, maps := tput s.cx.maps id [] } } id)
      [BitVec.ofNat 32 n]

/-- Start a context's teardown: TEARDOWN, the context's flights end, the class-A flight (R294, R281, R322).
A teardown already begun keeps the lowest cause (R366). (DEDUCED: log entry 22). -/
def startTeardown (s : State) (id cause : Nat) : State :=
  match ctxState s id with
  | .teardown => modCtx s id fun c => { c with tearCause := min c.tearCause cause }
  | .free => s
  | _ =>
    if id = 0x200 then s
    else
      let s := modCtx s id fun c => { c with st := .teardown, tearCause := cause }
      { s with nw := { s.nw with flights :=
          (s.nw.flights.filter fun f => !(f.kind == .request && f.mbox == id && f.op != 0x21))
            ++ [⟨0x300, 0x310, 0, default, .teardown id cause, .ready, [.ctx id], 0⟩] } }

/-- (DEDUCED: log entry 16). -/
def bodyCtxDestroy : Body := fun _ r s =>
  let id := bits (wd r.block 1) 11 0
  if ¬ (isTenant id ∨ (0x201 ≤ id ∧ id ≤ 0x207)) then errRes s cRANGE
  else match ctxState s id with
    | .free => errRes s cBADSTATE
    | .teardown => errRes s cBUSY
    | _ => okRes (startTeardown s id 2) []

def bodyCtxNumeric : Body := fun who r s =>
  okRes (modCtx s who fun c => { c with nanTrap := bit (wd r.block 1) 0 }) []

/-- A fault record as read: its own words, or the size-and-version word and zeros while nothing is recorded.
(DEDUCED: log entry 26). -/
def recordWords (rec : List Word) (bytes : Nat) : List Word :=
  if rec = [] then sizeVer bytes :: List.replicate (bytes / 4 - 1) 0 else rec

/-- (DEDUCED: log entry 26). -/
def bodyCtxFaultRead : Body := fun who r s =>
  let w := wd r.block 1
  let clear := bit w 2
  match ctxOf s who, bits w 1 0 with
  | some c, 0 => okRes (if clear then setCtx s who { c with nanRec := [] } else s) (recordWords c.nanRec 64)
  | some c, 1 => okRes (if clear then setCtx s who { c with collRec := [] } else s) (recordWords c.collRec 64)
  | some c, 2 => okRes (if clear then setCtx s who { c with memRec := [] } else s) (recordWords c.memRec 48)
  | _, _ => errRes s cRANGE

/-! ### Memory objects (R295 to R298) -/

def bodyMemAlloc : Body := fun who r s =>
  let bytes := dwd r.block 1
  let w := wd r.block 3
  let big := bit w 0
  let page := if big then 2 * 2 ^ 20 else 65536
  if bytes = 0 ∨ bytes % page ≠ 0 ∨ 2 ≤ bits w 2 1 then errRes s cRANGE
  else if ¬ objQuotaOk s who bytes then errRes s cQUOTA
  else match nextObjSlot s with
    | none => errRes s cNOSLOT
    | some slot =>
      match (if s.pw.hbmReady then (if big then takeBig s.cx.freeFrames (bytes / page) else takeFrames s.cx.freeFrames (bytes / page)) else none) with
      | none => errRes s cNOMEMORY
      | some (runs, rest) =>
        let o : Obj := ⟨nextGen s slot, .live, who, bytes, big, bits w 2 1, runs, [], 0, 0⟩
        let s := newObj s slot o
        okRes { s with cx := { s.cx with freeFrames := rest },
                       mem := { s.mem with cells := memClearRuns s.mem.cells runs } }
          [BitVec.ofNat 32 (handleOf slot o)]

def pageOf (o : Obj) : Nat := if o.big then 2 * 2 ^ 20 else 65536

def overlaps (m : Mapping) (va len : Nat) : Bool := decide (0 < len ∧ m.va < va + len ∧ va < m.va + m.len)

/-- Permissions a requester may ask for: everything as owner, the grant as grantee. -/
def mayMap (o : Obj) (who perm : Nat) : Bool :=
  o.owner == who || (let g := (grantOf o who).getD 0; decide (perm % 8 &&& g = perm % 8))

def bodyMemMap : Body := fun who r s =>
  let b := r.block
  let perm := bits (wd b 2) 2 0
  let va := dwd b 3
  let off := dwd b 5
  match needObj s who (wd b 1).toNat with
  | .error c => errRes s c
  | .ok (slot, o) =>
    let pg := pageOf o
    let ln := if dwd b 7 = 0 then o.bytes - off else dwd b 7
    if va < 0x10000 ∨ 0xFFFF00000000 < va + ln ∨ va % pg ≠ 0 ∨ off % pg ≠ 0 ∨ ln % pg ≠ 0 then errRes s cRANGE
    else if o.bytes ≤ off ∨ o.bytes < off + ln then errRes s cRANGE
    else if (tgetD s.cx.maps who []).any fun m => overlaps m va ln then errRes s cRANGE
    else if perm / 4 = 1 ∧ perm / 2 % 2 = 1 then errRes s cRANGE
    else if ¬ mayMap o who perm then errRes s cNOTGRANTED
    else okRes { s with cx := { s.cx with maps := tput s.cx.maps who (tgetD s.cx.maps who [] ++ [⟨va, ln, slot, off, perm⟩]) } } []

/-- What is left of a mapping when [lo, hi) is unmapped. -/
def cutMap (m : Mapping) (lo hi : Nat) : List Mapping :=
  if overlaps m lo (hi - lo) then
    (if m.va < lo then [{ m with len := lo - m.va }] else [])
      ++ (if hi < m.va + m.len then [{ m with va := hi, len := m.va + m.len - hi, off := m.off + (hi - m.va) }] else [])
  else [m]

/-- The edge falls inside a 2 MiB page of the mapping. -/
def splitsBig (s : State) (m : Mapping) (a : Nat) : Bool :=
  ((objOf s m.slot).map Obj.big).getD false && decide (m.va < a ∧ a < m.va + m.len ∧ a % (2 * 2 ^ 20) ≠ 0)

/-- A frame of an object that a context's mappings in [lo, hi) reach. -/
def reached (s : State) (ms : List Mapping) (lo hi f : Nat) : Bool :=
  ms.any fun m => match objOf s m.slot with
    | none => false
    | some o => o.policy != 2 && (frameIndex o.runs f 0).any fun i =>
        let va := m.va + i * frameBytes - m.off
        decide (m.off ≤ i * frameBytes ∧ i * frameBytes < m.off + m.len ∧ lo ≤ va ∧ va < hi)
where
  /-- The index in an object's runs of a frame. -/
  frameIndex : List (Nat × Nat) → Nat → Nat → Option Nat
    | [], _, _ => none
    | (a, n) :: r, f, i => if a ≤ f ∧ f < a + n then some (i + (f - a)) else frameIndex r f (i + n)

/-- The accesses translated through a context's mappings in [lo, hi) complete (R169). -/
def settleRange (s : State) (who lo hi : Nat) : State :=
  let s := drainXfers s who
  dropLines s fun a => reached s (tgetD s.cx.maps who []) lo hi (a / frameBytes)

/-- An unmap first lets every access translated before it complete (R169). -/
def bodyMemUnmap : Body := fun who r s =>
  let va := dwd r.block 1
  let ln := dwd r.block 3
  let ms := tgetD s.cx.maps who []
  if va % 65536 ≠ 0 ∨ ln % 65536 ≠ 0 ∨ va < 0x10000 ∨ 0xFFFF00000000 < va + ln then errRes s cRANGE
  else if ms.any fun m => splitsBig s m va || splitsBig s m (va + ln) then errRes s cRANGE
  else
    let s := settleRange s who va (va + ln)
    okRes { s with cx := { s.cx with maps := tput s.cx.maps who (ms.flatMap fun m => cutMap m va (va + ln)) } } []

/-- The accesses translated through the mappings of an object complete (R169). (DEDUCED: log entry 25). -/
def settleObj (s : State) (slot : Nat) (who : Option Nat) : State :=
  let users := (s.cx.maps.filter fun p => (who = none ∨ who = some p.1) && p.2.any fun m => m.slot == slot).map Prod.fst
  let s := users.foldl drainXfers s
  let runs := ((objOf s slot).map Obj.runs).getD []
  if users = [] then s else dropLines s fun a => runs.any fun r => decide (r.1 ≤ a / frameBytes ∧ a / frameBytes < r.1 + r.2)

/-- Remove every mapping of an object, in every address space or in one (R169, R297). -/
def unmapObj (s : State) (slot : Nat) (who : Option Nat) : State :=
  let s := settleObj s slot who
  { s with cx := { s.cx with maps := s.cx.maps.map fun p =>
      if who = none ∨ who = some p.1 then (p.1, p.2.filter fun m => m.slot != slot) else p } }

/-- Release an object whose last reference is gone: unmapped, frames back to the pool, the slot FREE,
OBJ_RELEASED to the owner (R298). -/
def releaseObj (s : State) (slot : Nat) (event : Bool) : State :=
  match objOf s slot with
  | none => s
  | some o =>
    if o.st = .free then s
    else
      let s := unmapObj s slot none
      let s := setObj s slot { o with st := .free, runs := [], grants := [] }
      let s := { s with cx := { s.cx with freed := s.cx.freed ++ [slot],
                                          badFrames := s.cx.badFrames.filter fun f => !(o.runs.any fun r => decide (r.1 ≤ f ∧ f < r.1 + r.2)),
                                          freeFrames := if o.policy = 2 then s.cx.freeFrames else addRuns s.cx.freeFrames (backToPool s o.runs) },
                        mem := { s.mem with cells := memClearRuns s.mem.cells o.runs,
                                            mz := s.mem.mz.filter fun l => !(o.runs.any fun q =>
                                              decide (q.1 * 512 ≤ l.line ∧ l.line < (q.1 + q.2) * 512)) },
                        ob := { s.ob with windows := s.ob.windows.filter fun w => w.slot != slot } }
      if event then sendEvent s o.owner 0x82 o.owner (handleOf slot o) else s

/-- A live queue's ring or status record lies in the object (R298). -/
def holdsQueue (s : State) (slot : Nat) : Bool :=
  s.cc.queues.any fun p => p.2.st != .free && (p.2.ringObj == slot || p.2.statusObj == slot)

/-- (DEDUCED: log entry 25). -/
def bodyMemFree : Body := fun who r s =>
  match needOwn s who (wd r.block 1).toNat with
  | .error c => errRes s c
  | .ok (slot, o) =>
    if holdsQueue s slot then errRes s cINUSE
    else
      let s := setObj s slot { o with st := .freeing }
      okRes (if objRefd s slot then s else notify s 0x210 0x03 (handleOf slot o)) []

/-- The grantee checks of R297, which FENCE_EXPORT shares (R315). -/
def granteeCheck (s : State) (who g : Nat) : Option Nat :=
  if g = who ∨ ¬ isCtx g then some cRANGE
  else match ctxState s g with
    | .free => some cBADSTATE
    | .teardown => some cBADSTATE
    | _ => none

/-- Reduce a grantee's mappings of an object to the permissions left; where one loses a permission, the accesses
translated through it complete first (R297, R169). -/
def reduceMaps (s : State) (g slot perm : Nat) : State :=
  let cut := (tgetD s.cx.maps g []).any fun m => m.slot == slot && (m.perm &&& perm) != m.perm
  let s := if cut then settleObj s slot (some g) else s
  { s with cx := { s.cx with maps := tmod s.cx.maps g (fun ms =>
      ms.map fun m => if m.slot = slot then { m with perm := m.perm &&& perm } else m) } }

def bodyMemGrant : Body := fun who r s =>
  let g := bits (wd r.block 2) 11 0
  let p := bits (wd r.block 3) 1 0
  match needOwn s who (wd r.block 1).toNat with
  | .error c => errRes s c
  | .ok (slot, o) =>
    match granteeCheck s who g with
    | some c => errRes s c
    | none =>
      if p ≠ 1 ∧ p ≠ 3 then errRes s cRANGE
      else okRes (reduceMaps (setObj s slot { o with grants := tput o.grants g p }) g slot p) []

def bodyMemRevoke : Body := fun who r s =>
  let g := bits (wd r.block 2) 11 0
  match needOwn s who (wd r.block 1).toNat with
  | .error c => errRes s c
  | .ok (slot, o) =>
    let gone := if g = 0xFFF then o.grants.map Prod.fst else (o.grants.map Prod.fst).filter fun x => x == g
    let s := setObj s slot { o with grants := o.grants.filter fun p => !gone.contains p.1 }
    okRes (gone.foldl (fun s x => unmapObj s slot (some x)) s) []

/-! ### Objects of the operator driver (R461, R471, R482) -/

/-- The operator's object for a ring: 0 unsets, else at least `bytes` long. (DEDUCED: log entry 25). -/
def ringObject (s : State) (h bytes : Nat) : Except Nat Nat :=
  if h = 0 then .ok 0
  else match findObj s h with
    | none => .error cBADHANDLE
    | some (_, o) => if o.owner ≠ 0x300 then .error cNOTGRANTED else if o.bytes < bytes then .error cRANGE else .ok h

/-- (DEDUCED: log entry 25). -/
def bodyErrqSet : Body := fun _ r s =>
  match ringObject s (wd r.block 1).toNat (128 * 1024) with
  | .error c => errRes s c
  | .ok h => okRes { s with fc := { s.fc with errqObj := h } } []

/-- (DEDUCED: log entry 25). -/
def bodyTlmSet : Body := fun _ r s =>
  match ringObject s (wd r.block 1).toNat (2 ^ 20) with
  | .error c => errRes s c
  | .ok h => okRes { s with fc := { s.fc with tlmObj := h } } []

def bodyDsRetain : Body := fun _ r s =>
  let n := (wd r.block 1).toNat
  let hs := ((r.block.drop 2).take n).map BitVec.toNat
  let os := hs.map fun h => findObj s h
  if 96 < n then errRes s cRANGE
  else if os.any fun o => o == none then errRes s cBADHANDLE
  else if os.any fun o => ((o.map fun p => p.2.owner != 0x300).getD true) then errRes s cNOTGRANTED
  else if os.any fun o => ((o.map fun p => p.2.big || p.2.policy == 2).getD true) then errRes s cRANGE
  else if 96 < (os.map fun o => (o.map fun p => p.2.bytes / 65536).getD 0).foldl (· + ·) 0 then errRes s cRANGE
  else okRes { s with pw := { s.pw with dsRetain := hs } } []

/-! ### Queues (R299, R319, R320) -/

/-- A range lies in one LIVE object of the owner mapped R and W: its slot. (DEDUCED: log entry 25). -/
def liveRange (s : State) (who va n : Nat) : Option Nat :=
  match findMap s who va with
  | none => none
  | some m =>
    match objOf s m.slot with
    | none => none
    | some o =>
      if o.st = .live ∧ o.owner = who ∧ o.policy ≠ 2 ∧ m.perm % 4 = 3
          ∧ (List.range (n / 65536 + 1)).all fun i =>
              (findMap s who (min (va + 65536 * i) (va + n - 1))).map (fun x => (x.slot, x.perm % 4)) == some (m.slot, 3)
      then some m.slot else none

/-- (DEDUCED: log entry 25). -/
def bodyQueueCreate : Body := fun who r s =>
  let b := r.block
  let ring := dwd b 1
  let lg := (wd b 3).toNat
  let stat := dwd b 4
  let ms := (wd b 6).toNat
  if ring % 4096 ≠ 0 ∨ lg < 4 ∨ 16 < lg ∨ stat % 64 ≠ 0 ∨ ms = 0 ∨ 600000 < ms then errRes s cRANGE
  else match liveRange s who ring (32 * 2 ^ lg), liveRange s who stat 64 with
    | some ro, some so =>
      if who ≠ 0x300 ∧ ((ctxOf s who).map fun c => c.quota.queues).getD 0 ≤ ownedQueues s who then errRes s cQUOTA
      else match tfree s.cc.queues 2048 with
        | none => errRes s cNOSLOT
        | some q =>
          let s := setQueue s q ⟨.active, who, ring, lg, stat, ms, ro, so, 0, 0, 0, [], [], none, 0, 0, 0, true, [], false⟩
          okRes (writeStatus s q) [BitVec.ofNat 32 q]
    | _, _ => errRes s cRANGE

/-- A queue named by a request (R525, check 6; R354). (DEDUCED: log entry 14). -/
def needQueue (s : State) (who q : Nat) : Except Nat Queue :=
  match queueOf s q with
  | none => .error cBADHANDLE
  | some x =>
    if x.st = .free then .error cBADHANDLE
    else if x.owner = who then .ok x
    else if who = 0x300 ∧ isTenant x.owner then .error cDENIED
    else .error cNOTGRANTED

/-- (DEDUCED: log entry 16, DEDUCED: log entry 31). -/
def bodyQueueDestroy : Body := fun who r s =>
  let q := (wd r.block 1).toNat
  match needQueue s who q with
  | .error c => errRes s c
  | .ok x =>
    if x.st = .destroying then errRes s cBUSY
    else
      let s := beginDestroy s q
      -- the flight goes on until the queue is quiescent (R526); its lock stands until then
      let s := { s with nw := { s.nw with flights := s.nw.flights ++ [⟨r.mbox, who, 0x21, r, .request, .engine, [.queue q], 0⟩] } }
      okRes (quiesceQueue s q) []

def bodyQueueReset : Body := fun who r s =>
  let q := (wd r.block 1).toNat
  match needQueue s who q with
  | .error c => errRes s c
  | .ok x => if x.st = .faulted then okRes (resetQueue s q) [] else errRes s cBADSTATE

/-! ### Fences (R313 to R315) -/

/-- (DEDUCED: log entry 14). -/
def needFence (s : State) (who f : Nat) (ownOnly : Bool) : Except Nat Fence :=
  match fenceOf s f with
  | none => .error cBADHANDLE
  | some x =>
    if x.owner = who then .ok x
    else if who = 0x300 ∧ isTenant x.owner then .error cDENIED
    else if (tget x.imports who).isSome then (if ownOnly then .error cDENIED else .ok x)
    else .error cNOTGRANTED

def bodyFenceCreate : Body := fun who r s =>
  if who ≠ 0x300 ∧ ((ctxOf s who).map fun c => c.quota.fences).getD 0 ≤ ownedFences s who then errRes s cQUOTA
  else match tfree s.cc.fences 16384 with
    | none => errRes s cNOSLOT
    | some f =>
      okRes { s with cc := { s.cc with fences := tput s.cc.fences f ⟨who, dwd r.block 1, .ok, [], []⟩ } } [BitVec.ofNat 32 f]

def bodyFenceDestroy : Body := fun who r s =>
  let f := (wd r.block 1).toNat
  match needFence s who f true with
  | .error c => errRes s c
  | .ok _ =>
    if fenceNamed s f then errRes s cBUSY
    else okRes { s with cc := { s.cc with fences := tdel s.cc.fences f } } []

def bodyFenceSet : Body := fun who r s =>
  let f := (wd r.block 1).toNat
  match needFence s who f false with
  | .error c => errRes s c
  | .ok x => if fenceRight x who / 2 = 1 then okRes (wake (raiseFence s f (dwd r.block 2))) [] else errRes s cNOTGRANTED

def bodyFenceClear : Body := fun who r s =>
  let f := (wd r.block 1).toNat
  match needFence s who f true with
  | .error c => errRes s c
  | .ok _ => okRes (modFence s f fun x => { x with st := .ok }) []

def bodyFenceExport : Body := fun who r s =>
  let f := (wd r.block 1).toNat
  let g := bits (wd r.block 2) 11 0
  let p := bits (wd r.block 3) 1 0
  match needFence s who f true with
  | .error c => errRes s c
  | .ok _ =>
    match granteeCheck s who g with
    | some c => errRes s c
    | none =>
      if p ≠ 1 ∧ p ≠ 3 then errRes s cRANGE
      else okRes (modFence s f fun x => { x with exports := tput x.exports g p }) []

def bodyFenceImport : Body := fun who r s =>
  let f := (wd r.block 1).toNat
  match fenceOf s f with
  | none => errRes s cBADHANDLE
  | some x =>
    match tget x.exports who with
    | none => errRes s cNOTGRANTED
    | some p => okRes (modFence s f fun x => { x with imports := tput x.imports who p }) [BitVec.ofNat 32 p]

def bodyFenceQuery : Body := fun who r s =>
  let f := (wd r.block 1).toNat
  match needFence s who f false with
  | .error c => errRes s c
  | .ok x => okRes s [lo32 x.value, hi32 x.value, BitVec.ofNat 32 (fenceStCode x.st)]

/-! ### The rows of the request table -/

def m12 : Word := 0xFFFFF000

def specCtxCreate : ReqSpec :=
  ⟨0x10, fromO, true, len 100, [m12], fun _ r _ => [.ctx (bits (wd r.block 1) 11 0)], .ready, bodyCtxCreate⟩
def specCtxDestroy : ReqSpec := ⟨0x11, fromO, true, len 8, [m12], noLocks, .ready, bodyCtxDestroy⟩
def specCtxNumeric : ReqSpec := ⟨0x12, fromC, false, len 8, [0xFFFFFFFE], noLocks, .ready, bodyCtxNumeric⟩
def specCtxFaultRead : ReqSpec := ⟨0x13, fromC, false, len 8, [0xFFFFFFF8], noLocks, .ready, bodyCtxFaultRead⟩
def objLock (_ : Nat) (r : ReqIn) (_ : State) : List Lock := [.obj (bits (wd r.block 1) 15 0)]
def specMemAlloc : ReqSpec := ⟨0x14, fromCO, true, len 16, [0, 0, 0xFFFFFFF8], noLocks, .ready, bodyMemAlloc⟩
def specMemMap : ReqSpec := ⟨0x15, fromCO, true, len 36, [0, 0xFFFFFFF8], objLock, .ready, bodyMemMap⟩
def specMemUnmap : ReqSpec := ⟨0x16, fromCO, true, len 20, [], noLocks, .ready, bodyMemUnmap⟩
def specMemFree : ReqSpec := ⟨0x17, fromCO, false, len 8, [], objLock, .ready, bodyMemFree⟩
def specMemGrant : ReqSpec := ⟨0x18, fromC, false, len 16, [0, m12, 0xFFFFFFFC], objLock, .ready, bodyMemGrant⟩
def specMemRevoke : ReqSpec := ⟨0x19, fromC, true, len 12, [0, m12], objLock, .ready, bodyMemRevoke⟩
def specErrqSet : ReqSpec := ⟨0x1D, fromO, false, len 8, [], objLock, .ready, bodyErrqSet⟩
def specTlmSet : ReqSpec := ⟨0x1E, fromO, false, len 8, [], objLock, .ready, bodyTlmSet⟩
def specDsRetain : ReqSpec :=
  ⟨0x1F, fromO, false, fun b => 8 + 4 * (wd b 1).toNat, [], noLocks, .ready, bodyDsRetain⟩
def queueLock (_ : Nat) (r : ReqIn) (_ : State) : List Lock := [.queue (wd r.block 1).toNat]
def specQueueCreate : ReqSpec := ⟨0x20, fromCO, false, len 28, [], noLocks, .ready, bodyQueueCreate⟩
def specQueueDestroy : ReqSpec := ⟨0x21, fromCO, true, len 8, [], queueLock, .ready, bodyQueueDestroy⟩
def specQueueReset : ReqSpec := ⟨0x22, fromCO, false, len 8, [], queueLock, .ready, bodyQueueReset⟩
def specFenceCreate : ReqSpec := ⟨0x23, fromCO, false, len 12, [], noLocks, .ready, bodyFenceCreate⟩
def specFenceDestroy : ReqSpec := ⟨0x24, fromCO, false, len 8, [], noLocks, .ready, bodyFenceDestroy⟩
def specFenceSet : ReqSpec := ⟨0x25, fromCO, false, len 16, [], noLocks, .ready, bodyFenceSet⟩
def specFenceClear : ReqSpec := ⟨0x26, fromCO, false, len 8, [], noLocks, .ready, bodyFenceClear⟩
def specFenceExport : ReqSpec := ⟨0x27, fromCO, false, len 16, [0, m12, 0xFFFFFFFC], noLocks, .ready, bodyFenceExport⟩
def specFenceImport : ReqSpec := ⟨0x28, fromCO, false, len 8, [], noLocks, .ready, bodyFenceImport⟩
def specFenceQuery : ReqSpec := ⟨0x29, fromCO, false, len 8, [], noLocks, .ready, bodyFenceQuery⟩

/-! ### Meanings -/

def execCtxCreate (r : ReqIn) (s : State) : Out := .next (runRequest specCtxCreate r s)
def execCtxDestroy (r : ReqIn) (s : State) : Out := .next (runRequest specCtxDestroy r s)
def execCtxNumeric (r : ReqIn) (s : State) : Out := .next (runRequest specCtxNumeric r s)
def execCtxFaultRead (r : ReqIn) (s : State) : Out := .next (runRequest specCtxFaultRead r s)
def execMemAlloc (r : ReqIn) (s : State) : Out := .next (runRequest specMemAlloc r s)
def execMemMap (r : ReqIn) (s : State) : Out := .next (runRequest specMemMap r s)
def execMemUnmap (r : ReqIn) (s : State) : Out := .next (runRequest specMemUnmap r s)
def execMemFree (r : ReqIn) (s : State) : Out := .next (runRequest specMemFree r s)
def execMemGrant (r : ReqIn) (s : State) : Out := .next (runRequest specMemGrant r s)
def execMemRevoke (r : ReqIn) (s : State) : Out := .next (runRequest specMemRevoke r s)
def execErrqSet (r : ReqIn) (s : State) : Out := .next (runRequest specErrqSet r s)
def execTlmSet (r : ReqIn) (s : State) : Out := .next (runRequest specTlmSet r s)
def execDsRetain (r : ReqIn) (s : State) : Out := .next (runRequest specDsRetain r s)
def execQueueCreate (r : ReqIn) (s : State) : Out := .next (runRequest specQueueCreate r s)
def execQueueDestroy (r : ReqIn) (s : State) : Out := .next (runRequest specQueueDestroy r s)
def execQueueReset (r : ReqIn) (s : State) : Out := .next (runRequest specQueueReset r s)
def execFenceCreate (r : ReqIn) (s : State) : Out := .next (runRequest specFenceCreate r s)
def execFenceDestroy (r : ReqIn) (s : State) : Out := .next (runRequest specFenceDestroy r s)
def execFenceSet (r : ReqIn) (s : State) : Out := .next (runRequest specFenceSet r s)
def execFenceClear (r : ReqIn) (s : State) : Out := .next (runRequest specFenceClear r s)
def execFenceExport (r : ReqIn) (s : State) : Out := .next (runRequest specFenceExport r s)
def execFenceImport (r : ReqIn) (s : State) : Out := .next (runRequest specFenceImport r s)
def execFenceQuery (r : ReqIn) (s : State) : Out := .next (runRequest specFenceQuery r s)

end Sys2Proof.Machine
end

