-- ==== Sys2Proof/Machine/Timetable.lean ====
section
/-! DEFINITION. The frame timetable as it runs (spec/11, R327 to R331, R335, R345, R350): frame arithmetic,
the slot a unit holds in the current tile cycle, activation of an image, handover of overlaid regions. -/

namespace Sys2Proof.Machine
open Sys2Proof

/-! ### Frames (R327) -/

/-- NUM and DEN of a rate code. -/
def rateFrac (r : Nat) : Nat × Nat :=
  match r with
  | 0 => (50, 1) | 1 => (60000, 1001) | 2 => (60, 1) | 3 => (100, 1) | 4 => (120000, 1001) | _ => (120, 1)

/-- Tile cycle at which frame k begins, from the epoch. -/
def frameStart (r k : Nat) : Nat := k * (1000000 * (rateFrac r).2) / (rateFrac r).1

/-- The frame that tile cycle n lies in: the last one that has begun. -/
def frameOf (r n : Nat) : Nat := ((n + 1) * (rateFrac r).1 - 1) / (1000000 * (rateFrac r).2)

/-- The period P. -/
def period (r : Nat) : Nat :=
  match r with
  | 0 => 20000 | 1 => 16684 | 2 => 16667 | 3 => 10000 | 4 => 8342 | _ => 8334

/-- The rate has a trim cycle. -/
def hasTrim (r : Nat) : Bool := r == 1 || r == 2 || r == 4 || r == 5

/-- Length of the shortest frame. -/
def shortFrame (r : Nat) : Nat := if hasTrim r then period r - 1 else period r

/-- Frame time in ns, for times that the manual gives in frame periods. -/
def frameNs (r : Nat) : Nat := 1000000000 * (rateFrac r).2 / (rateFrac r).1

/-! ### Slots (R328 to R331, R350) -/

/-- Length of the maintenance slot. -/
def maintLen : Nat := 40

def inMaint (s : State) : Bool := s.tt.set && s.tt.cycle < maintLen

/-- The entries of the active image on a unit that cover a tile cycle of the frame and are not idle. -/
def entryAt (s : State) (unit cyc : Nat) : Option TtEntry :=
  match s.tt.active with
  | none => none
  | some im => im.entries.find? fun e => e.unit == unit && !e.idle && e.start ≤ cyc && cyc < e.start + e.len

/-- The throttle withholds a tenant slot of the unit in the current tile cycle (R350). -/
def withheld (s : State) (unit : Nat) : Bool :=
  if unit < 4 then s.tt.total % 4 < s.tt.level else s.tt.frame % 4 < s.tt.levelFrame

/-- A logical core that no physical core carries, or whose tenant slots are withheld for a substitution (R465,
R466). -/
def coreOut (s : State) (unit : Nat) : Bool :=
  decide (16 ≤ unit ∧ unit < 48) &&
    (s.ms.scMap.getD ((unit - 16) / 8) 0 / 16 ^ ((unit - 16) % 8) % 16 == 0xF || s.tt.heldCores.contains (unit - 16))

/-- The slot a unit holds now: KIND (2 tenant, 3 load), context, tag. A withheld slot is none. -/
def slotNow (s : State) (unit : Nat) : Option (Nat × Nat × Nat) :=
  match entryAt s unit s.tt.cycle with
  | none => none
  | some e =>
    if (e.kind = 2 ∧ (withheld s unit ∨ coreOut s unit)) ∨ ((e.kind = 2 ∨ e.kind = 3) ∧ s.tt.gated) then none else some (e.kind, e.ctx, e.tag)

/-- The context that holds a shader core, the raster back end or a coder now. -/
def slotCtx (s : State) (unit : Nat) : Option Nat := (slotNow s unit).map fun p => p.2.1

/-! ### Regions (R343 to R345) -/

/-- Set the units of a range that carry another identity to the zero state. (DEDUCED: log entry 39). -/
def zeroForeign (st : List Host.Cell) (own : List (Nat × Nat)) (ctx lo n : Nat) : List Host.Cell × List (Nat × Nat) :=
  (List.range n).foldl (fun p k =>
    match tget p.2 (lo + k) with
    | some c => if c = ctx then p else (memClear p.1 ((lo + k) * unitBytes) unitBytes, tdel p.2 (lo + k))
    | none => p) (st, own)

/-- Handover of a context's overlaid region at its load window: what another identity left reads zero.
(DEDUCED: log entry 39). -/
def handover (s : State) (h ctx : Nat) : State :=
  let r := regionOf s h ctx
  if r.overlaid then
    modHall s h fun x =>
      let w := zeroForeign x.wst x.wOwner ctx r.wBase r.wSize
      let a := zeroForeign x.ast x.aOwner ctx r.aBase r.aSize
      { x with wst := w.1, wOwner := w.2, ast := a.1, aOwner := a.2 }
  else s

/-- Put the units of a region that a torn-down context left on a Hall in the zero state (R65).
(DEDUCED: log entry 80). -/
def zeroRegion (s : State) (h ctx : Nat) (r : Region) : State :=
  modHall s h fun x =>
    let w := (List.range r.wSize).foldl (fun (p : List Host.Cell × List (Nat × Nat)) k =>
      if tget p.2 (r.wBase + k) = some ctx then (memClear p.1 ((r.wBase + k) * unitBytes) unitBytes, tdel p.2 (r.wBase + k)) else p) (x.wst, x.wOwner)
    let a := (List.range r.aSize).foldl (fun (p : List Host.Cell × List (Nat × Nat)) k =>
      if tget p.2 (r.aBase + k) = some ctx then (memClear p.1 ((r.aBase + k) * unitBytes) unitBytes, tdel p.2 (r.aBase + k)) else p) (x.ast, x.aOwner)
    { x with wst := w.1, wOwner := w.2, ast := a.1, aOwner := a.2 }

/-! ### Activation (R333, R335, R337, R343) -/

/-- Entries whose incarnation is gone are idle. -/
def idleGone (s : State) (es : List TtEntry) : List TtEntry :=
  es.map fun e =>
    if ((ctxOf s e.ctx).map fun c => c.incarn == e.incarn && c.st != .free && c.st != .teardown).getD false then e else { e with idle := true }

/-- A context gets a region on a Hall: what another identity left in a fixed one is zeroed first, at the start of the
frame's maintenance slot; an overlaid one is zeroed at its handovers (R65, R343, R345). (DEDUCED: log entry 80). -/
def assign (s : State) (h ctx : Nat) (r : Region) : State :=
  modHall s h fun x =>
    let w := if r.overlaid then (x.wst, x.wOwner) else zeroForeign x.wst x.wOwner ctx r.wBase r.wSize
    let a := if r.overlaid then (x.ast, x.aOwner) else zeroForeign x.ast x.aOwner ctx r.aBase r.aSize
    { x with regions := tput x.regions ctx r, wst := w.1, wOwner := w.2, ast := a.1, aOwner := a.2 }

/-- The pending image becomes active: schedule images take their place, regions are placed, TT_ACTIVE.
(DEDUCED: log entry 69). -/
def activate (s : State) : State :=
  match s.tt.pendingImg with
  | none => s
  | some im =>
    let im := { im with entries := idleGone s im.entries }
    let s := { s with tt := { s.tt with
      active := some im, pendingImg := none,
      sched := s.tt.schedNext.foldl (fun t p => tput t p.1 p.2) s.tt.sched, schedNext := [] } }
    let s := im.place.foldl (fun s p => assign s p.1 p.2.1 p.2.2) s
    sendEvent s 0x300 0x80 0xFFF im.id

/-- A torn-down incarnation's entries become idle time (R335). -/
def idleCtx (s : State) (ctx : Nat) : State :=
  let f (im : TtImage) : TtImage := { im with entries := im.entries.map fun e => if e.ctx = ctx then { e with idle := true } else e }
  { s with tt := { s.tt with active := s.tt.active.map f, sched := tdel s.tt.sched ctx, schedNext := tdel s.tt.schedNext ctx } }

/-! ### Hall windows -/

/-- The Hall's window opens: the house slot of the tile cycle is over, and the timetable gives the window to
a context's tenant or load slot. In the maintenance slot there is none. (DEDUCED: log entry 39). -/
def openWindow (s : State) (h : Nat) : State :=
  if 4 ≤ h ∨ s.tt.cycle < maintLen ∨ (s.fc.hallOut.getD h false) then s
  else match slotNow s h with
    | none => modHall s h fun x => { x with kind := 0, ctx := 0, busy := false }
    | some (k, c, _) =>
      let s := modHall s h fun x => { x with kind := k, ctx := c, busy := false, fresh := [] }
      if k = 3 then handover s h c else s

/-! ### Meanings -/

/-- HALL_RUN_START: the window of Hall `h` begins, with the rows whose reads in the run met a corrected error
counted and those with an uncorrectable error named (store, row). A Hall whose slot already runs, started by
the same window, starts no second run. (DEDUCED: log entry 39). -/
def execHallRunStart (h corr : Nat) (bad : List (Nat × Nat)) (s : State) : Out :=
  if 4 ≤ h ∨ (hallOf s h).kind = 2 ∨ (hallOf s h).kind = 3 then .next s
  else .next (hallRunStart (openWindow s h) h corr bad)


def specSeqBatchCreate : ReqSpec := ⟨0x2A, fromC, true, len 36, [], fun _ _ _ => [.batches], .ready, bodySeqBatchCreate⟩
def specSeqBatchDestroy : ReqSpec := ⟨0x2B, fromC, false, len 8, [], noLocks, .ready, bodySeqBatchDestroy⟩
def execSeqBatchCreate (r : ReqIn) (s : State) : Out := .next (runRequest specSeqBatchCreate r s)
def execSeqBatchDestroy (r : ReqIn) (s : State) : Out := .next (runRequest specSeqBatchDestroy r s)

end Sys2Proof.Machine
end

