-- ==== Sys2Proof/Machine/Schedule.lean ====
section
/-! DEFINITION. Reading a schedule image (spec/11, R336, R337): its header, its tasks, the occupancy that Newel
recomputes from each listed descriptor. -/

namespace Sys2Proof.Machine
open Sys2Proof

/-- A structure in an object, read for SIZE bytes: VERSION, RANGE where it does not lie in the object, RESERVED, or its
words (R8, R9). In an image's array of records the bytes from a record's `n` to a larger SIZE are the next record's.
(DEDUCED: log entry 12, DEDUCED: log entry 69). -/
def objStruct (s : State) (o : Obj) (off n : Nat) (rsv : List Word) : Except Nat (List Word) :=
  if o.bytes < off + 4 then .error cRANGE
  else
    let h := bytesWords (objRead s o off 4)
    let size := bits (wd h 0) 31 16
    if ¬ headOk (wd h 0) n then .error cVERSION
    else if o.bytes < off + size then .error cRANGE
    else
      let ws := padWords (objRead s o off size)
      match structOk ws n rsv with
      | some c => .error c
      | none => .ok ws

def ones : Word := 0xFFFFFFFF

/-- Reserved bits of a schedule header and of a task record (R336). -/
def schedHeadRsv : List Word := [0xFFFFE000, 0xFFFFFFF0, ones, 0, 0, 0, 0] ++ List.replicate 8 ones
def taskRsv : List Word := [0xFFC000F0, 0, 0xFFFF0000, 0xFFFFE000, ones, ones, ones]

/-- What the descriptors of a list sum to. -/
structure ListSum where
  occ : Nat
  bays : List Nat
  xfer : Bool

/-- Occupancy of a listed descriptor: in a house band list a bay path moves 16 bytes per cycle, the worst share of one
bank among the four Halls (R83). -/
def listedOcc (house : Bool) (w : List Word) (m : Nat) : Nat :=
  if dOp w = 0 ∧ house then
    occupancyAt w m (if dASrc w = 2 then 16 else rateA (dASrc w)) (if dCDst w = 2 then 16 else rateC (dCDst w))
  else occupancy w m

/-- One listed descriptor, checked and counted (R337); a bay's tag is no part of these checks. -/
def sumDesc (house : Bool) (s : State) (i : Issue) (w : List Word) (seqs : List (Nat × Nat)) (last : Bool) (a : ListSum) : Except Nat ListSum :=
  let c := (checkDesc s i w seqs).getD 0
  if c ≠ 0 ∧ c ≠ 0x08 then .error c
  else if dLast w ≠ last then .error cRANGE
  else
    let b := (if dOp w = 0 ∧ dASrc w = 2 then [dAUnit w] else []) ++ (if dOp w = 0 ∧ dCDst w = 2 then [dCUnit w] else [])
    .ok ⟨a.occ + listedOcc house w (dVecs w seqs), a.bays ++ b.filter fun x => !a.bays.contains x, a.xfer || dOp w != 0⟩

/-- The descriptors of a list from the k-th on. -/
def sumList (house : Bool) (s : State) (i : Issue) (va n : Nat) (seqs : List (Nat × Nat)) : Nat → Nat → ListSum → Except Nat ListSum
  | 0, _, a => .ok a
  | fuel + 1, k, a =>
    match readStruct s i.ctx (va + 128 * k) 128 1 with
    | .error (_, c) => .error (memCode c)
    | .ok w =>
      match sumDesc house s i w seqs (decide (k + 1 = n)) a with
      | .error c => .error c
      | .ok a => sumList house s i va n seqs fuel (k + 1) a

/-- A task record of a context. -/
def readTask (house : Bool) (s : State) (ctx : Nat) (w : List Word) : Except Nat Task :=
    let hall := bits (wd w 1) 1 0
    let load := bit (wd w 1) 2
    let seq := bit (wd w 1) 3
    let b := bits (wd w 1) 21 16
    let n := bits (wd w 4) 12 0
    let bt := batchOf s b
    let good := (bt.map fun x => x.ctx == ctx && x.hall == hall).getD false
    if n = 0 ∨ 4096 < n ∨ (seq ∧ (load ∨ ¬ good)) ∨ (¬ seq ∧ b ≠ 0) then .error cRANGE
    else
      let seqs : List (Nat × Nat) := match seq, bt with
        | true, some x => (List.range x.q).map fun k => (k, min k (x.p - 1))
        | _, _ => []
      match sumList house s ⟨hall, ctx, false, 0, 0, 0, load⟩ (dwd w 2 % 2 ^ 48) n seqs n 0 ⟨0, [], false⟩ with
      | .error c => .error c
      | .ok a =>
        let extra := match seq, bt with
          | true, some x => x.jmax * x.s / 256
          | _, _ => 0
        .ok ⟨hall, load, bits (wd w 1) 15 8, a.occ + extra, a.bays, a.xfer, dwd w 2 % 2 ^ 48⟩

def readTasks (house : Bool) (s : State) (ctx : Nat) (o : Obj) (off : Nat) : Nat → Nat → List Task → Except (Nat × Nat) (List Task)
  | 0, _, a => .ok a
  | fuel + 1, k, a =>
    match objStruct s o (off + 64 + 32 * k) 32 taskRsv with
    | .error c => .error (c, k)
    | .ok w =>
      match readTask house s ctx w with
      | .error c => .error (c, k)
      | .ok t => readTasks house s ctx o off fuel (k + 1) (a ++ [t])

/-- The context's regions as the image declares them, for the checks of its lists. -/
def declare (s : State) (ctx : Nat) (regs : List (Nat × Nat)) : State :=
  (List.range 4).foldl (fun s h =>
    let r := regs.getD h (0, 0)
    modHall s h fun x => { x with regions := tput x.regions ctx ⟨0, r.1, 0, r.2, false⟩ }) s

/-- A whole schedule image; an error is a status with DETAIL, the task's index or 0x3FFF for the header. -/
def readSched (house : Bool) (s : State) (ctx : Nat) (o : Obj) (off : Nat) : Except (Nat × Nat) Sched :=
  match objStruct s o off 64 schedHeadRsv with
  | .error c => .error (c, 0x3FFF)
  | .ok h =>
      let n := bits (wd h 1) 12 0
      let regs := (List.range 4).map fun k => (bits (wd h (4 + k)) 15 0, bits (wd h (4 + k)) 31 16)
      if 4096 < n ∨ o.bytes < off + 64 + 32 * n then .error (cRANGE, 0x3FFF)
      else match readTasks house (declare s ctx regs) ctx o off n 0 [] with
        | .error e => .error e
        | .ok ts => .ok ⟨ts, bits (wd h 2) 3 0, regs, objRead s o off (64 + 32 * n)⟩

end Sys2Proof.Machine
end

