-- ==== Sys2Proof/Machine/House.lean ====
section
/-! DEFINITION. The house pipeline (spec/02): stream descriptors and the house configuration, CSI-2 packets,
lines, bands, tiles and their versions, output slots, export, frame statistics, FSYNC. -/

namespace Sys2Proof.Machine
open Sys2Proof

/-! ### Stream descriptors (R32 to R35) -/

def hEn (d : List Word) : Bool := bit (wd d 1) 0
def hGang (d : List Word) : Nat := bits (wd d 1) 2 1
def hMeter (d : List Word) : Bool := bit (wd d 1) 3
def hPorts (d : List Word) : List Nat := (List.range 4).filter fun p => bit (wd d 1) (4 + p)
def hVc (d : List Word) : Nat := bits (wd d 1) 9 8
def hDt (d : List Word) : Nat := bits (wd d 1) 15 10
def hW (d : List Word) : Nat := bits (wd d 2) 15 0
def hH (d : List Word) : Nat := bits (wd d 2) 31 16
def hLineNs (d : List Word) : Nat := (wd d 3).toNat
def hFsOfs (d : List Word) : Nat := bits (wd d 6) 23 0
def hFsW (d : List Word) : Nat := bits (wd d 6) 31 24
def hMbps (d : List Word) : Nat := bits (wd d 10) 15 0
def hInteg (d : List Word) : Nat := (wd d 11).toNat
def hCols (d : List Word) : Nat := cdiv (hW d) 64
def hRows (d : List Word) : Nat := cdiv (hH d) 64
/-- Bits per pixel of the data type. -/
def hBits (d : List Word) : Nat := 2 * (hDt d - 0x2B) + 10
/-- Black level of the phase of pixel (x, y), row first. -/
def hBlack (d : List Word) (x y : Nat) : Nat :=
  let w := wd d (4 + y % 2)
  if x % 2 = 0 then bits w 15 0 else bits w 31 16

/-- Reserved bits of the stream descriptor (R33). -/
def streamRsv : List Word := [0xFFFC0000, 0, 0, 0, 0, 0, 0, 0, 0xFFFF0000, 0xFFFF0000, 0, ones, ones, ones, ones]

/-- Descriptor of a stream of the accepted configuration; empty while there is none. -/
def hdesc (s : State) (st : Nat) : List Word := ((s.hp.cfg.map HouseCfg.descs).getD []).getD st []
def streamOn (s : State) (st : Nat) : Bool := hEn (hdesc s st)

/-- The enabled stream that uses a port. -/
def streamOfPort (s : State) (p : Nat) : Option Nat :=
  if streamOn s 0 ∧ (hPorts (hdesc s 0)).contains p then some 0
  else if streamOn s 1 ∧ (hPorts (hdesc s 1)).contains p then some 1 else none

/-- R32: the ports of one stream. GANG 0 with more than one port, and LINE, STRIPE or GANG 3 with one, answer HC_PORTS:
R32 and R33 give no code for a GANG that does not fit PORTS. (DEDUCED: log entry 64, DESIGN CHOICE: log entry 99). -/
def portsOk (d : List Word) : Bool :=
  let p := hPorts d
  let n := p.length
  (if hGang d = 0 then n == 1 else p == [0, 1] || p == [2, 3] || p == [0, 1, 2, 3])
    && (hGang d != 2 || hW d % (64 * n) == 0)

/-- R33: the field ranges. (DEDUCED: log entry 64). -/
def rangesOk (d : List Word) : Bool :=
  hGang d != 3 && decide (0x2B ≤ hDt d ∧ hDt d ≤ 0x2E ∧ hW d % 2 = 0 ∧ 640 ≤ hW d ∧ hW d ≤ 7680
    ∧ hH d % 2 = 0 ∧ 360 ≤ hH d ∧ hH d ≤ 4320 ∧ 1 ≤ hFsW d)

/-- R35, rules 1 and 2: a line period in ns against the streams, and against the aggregate lane rate in Mb/s.
(DEDUCED: log entry 64). -/
def lineOk (d : List Word) (n lineNs rate : Nat) : Bool :=
  decide (n * hW d * 1000 ≤ lineNs * 4096 ∧ hW d * hBits d * 10000 ≤ lineNs * 9 * rate)

/-- Tiles of a stream that hold output bay slots when a tile row's band 0 becomes ready, its line `ph` lines ago
(R41, R46): rows begun 64 lines apart, tile c held for 48 lines, 48 tile cycles and c. (DEDUCED: log entry 67). -/
def heldTiles (d : List Word) (ph : Nat) : Nat :=
  (List.range 8).foldl (fun n i =>
    let age := (ph + 64 * i) * hLineNs d / 1000
    let hold := 48 * hLineNs d / 1000 + 48
    n + (if age ≤ hold then hCols d else hCols d - min (hCols d) (age - hold))) 0

/-- Input bays in use when a tile row's first line arrives (R37, R41): a row's inputs are held from its first line, 80
lines before its last, until its last band's Hall work and its base path have ended, taken as 48 µs after its last line
at the latest, or two rows. (DEDUCED: log entry 67). -/
def heldInputs (d : List Word) : Nat :=
  let rows := 1 + cdiv (80 * hLineNs d + 48000 - 64 * hLineNs d) (64 * max 1 (hLineNs d))
  min (hRows d) (max 2 rows) * cdiv (hCols d) 5

/-- The table's size of the pool for a reference arrangement at the shortest permitted line period. -/
def tablePool (en : List (List Word)) : Option Nat :=
  if en.map hW = [7680] then some 188 else if en.map hW = [7680, 7680] then some 282 else if en.map hW = [3840] then some 100 else none

/-- Size of the house bay pool (R41): the peak of the holdings with 8 work bays and 2 metadata bays; a reference
arrangement never needs more than its figure at the shortest permitted line period. (DEDUCED: log entry 67). -/
def poolBays (ds : List (List Word)) : Nat :=
  let en := ds.filter hEn
  let inp := en.foldl (fun n d => n + heldInputs d) 0
  let out := match en with
    | [d] => min (heldTiles d 0) (hCols d * hRows d)
    | [d, e] => min (heldTiles d 0) (hCols d * hRows d) + min (heldTiles e 32) (hCols e * hRows e)
    | _ => 0
  let n := inp + cdiv out 2 + 10
  let short := en.all fun d => !lineOk d en.length (hLineNs d - 1) (4 * (hPorts d).length * hMbps d)
  match tablePool en with
  | some k => if short then k else min k n
  | none => n

/-- The checks of R34 in their order. (DEDUCED: log entry 64). -/
def houseCheck (ds : List (List Word)) (exps : List Nat) : Option Nat :=
  let en := ds.filter hEn
  let lines := en.map fun d => lineOk d en.length (hLineNs d) (4 * (hPorts d).length * hMbps d)
  let same : Bool := match en with
    | [d, e] => hW d == hW e && hH d == hH e && hDt d == hDt e && hLineNs d == hLineNs e
    | _ => true
  let disjoint : Bool := match en with
    | [d, e] => (hPorts d).all fun p => !(hPorts e).contains p
    | _ => true
  if en = [] then some cRANGE
  else if ¬ en.all portsOk ∨ ¬ disjoint then some 0x90
  else if ¬ en.all rangesOk ∨ (en.filter hMeter).length ≠ 1 ∨ (exps.any fun e => e == 1 || 8 < e) then some cRANGE
  else if ¬ lines.all id ∨ ¬ same then some 0x91
  else if 384 < poolBays ds then some 0x92
  else none

/-- A stream descriptor at word `k` of a request block: its version, its bytes to SIZE within the block, its reserved
bits and trailing bytes (R8, R9, R33); those of a stream that is not enabled are checked too.
(DEDUCED: log entry 64). -/
def streamStruct (block : List Word) (k : Nat) : Option Nat :=
  let ws := block.drop k
  let n := max 16 (bits (wd ws 0) 31 16 / 4)
  if ¬ headOk (wd ws 0) 64 then some cVERSION else if ws.length < n then some cRANGE else structOk (ws.take n) 64 streamRsv

/-! ### Frame rings (R54) -/

/-- Bytes of a tile in the house frame ring: the version and its metadata record. (DEDUCED: log entry 67). -/
def ringTile : Nat := 16512

/-- Allocate a system object of the house context. -/
def houseObj (s : State) (bytes : Nat) : Option (State × Nat) :=
  let n := cdiv bytes frameBytes
  match nextObjSlot s, takeFrames s.cx.freeFrames n with
  | some slot, some (runs, rest) =>
    let s := newObj s slot ⟨nextGen s slot, .live, 0x200, n * frameBytes, false, 0, runs, [], 0, 0⟩
    some ({ s with cx := { s.cx with freeFrames := rest }, mem := { s.mem with cells := memClearRuns s.mem.cells runs } }, slot)
  | _, _ => none

/-- Write to an object by offset, byte by byte across its frames. -/
def objPut : List Host.Cell → Obj → Nat → List Byte → List Host.Cell
  | m, _, _, [] => m
  | m, o, off, b :: bs =>
    match runFrame o.runs (off / frameBytes) with
    | none => m
    | some f => objPut (memPut m (f * frameBytes + off % frameBytes) b) o (off + 1) bs

def objStore (s : State) (slot off : Nat) (bs : List Byte) : State :=
  match objOf s slot with
  | some o => if o.st = .live then { s with mem := { s.mem with cells := objPut s.mem.cells o off bs } } else s
  | none => s

/-- Replace the frame rings by those of a new configuration. (DEDUCED: log entry 67). -/
def makeRings : List (Nat × List Word) → State → Option State
  | [], s => some s
  | (n, d) :: r, s =>
    if n = 0 ∨ ¬ hEn d then makeRings r { s with hp := { s.hp with rings := s.hp.rings ++ [⟨0, 0, []⟩] } }
    else match houseObj s (n * hCols d * hRows d * ringTile) with
      | none => none
      | some (s, slot) => makeRings r { s with hp := { s.hp with rings := s.hp.rings ++ [⟨n, slot, []⟩] } }

/-- The house context's frame ring objects end. -/
def dropRings (s : State) : State :=
  { s.hp.rings.foldl (fun s r => if r.frames = 0 then s else releaseObj s r.obj false) s with
    hp := { s.hp with rings := [] } }

/-! ### House requests -/

/-- R58: a replacement house schedule image of the operator driver: every list within 288 Hall cycles with its run's
fill, its shader stages within the cores, its weights within the house reservation.
(DEDUCED: log entry 67, DESIGN CHOICE: log entry 68). -/
def houseSched (s : State) (who h : Nat) : Except Nat Unit :=
  if h = 0 then .ok ()
  else match needOwn s who h with
    | .error c => .error c
    | .ok (_, o) =>
      match readSched true s who o 0 with
      | .error e => .error e.1
      | .ok x =>
        if (x.tasks.all fun t => t.occ + 6 ≤ 288) ∧ Config.stagesFit x.bytes ∧ (x.regions.all fun r => r.1 ≤ 128) then .ok () else .error cRANGE

/-- A checked configuration comes into force: new frame rings; after a stop the epoch is open again (R334).
(DEDUCED: log entry 67, DESIGN CHOICE: log entry 68, DEDUCED: log entry 88). -/
def applyHouse (s : State) (d0 d1 : List Word) (e0 e1 h : Nat) : Option State :=
  (makeRings [(e0, d0), (e1, d1)] (dropRings s)).map fun s =>
    { s with hp := { s.hp with cfg := some ⟨[d0, d1], [e0, e1], h, poolBays [d0, d1], Config.netId h⟩, stopped := false },
             tt := { s.tt with set := s.tt.set && !s.hp.stopped } }

/-- (DEDUCED: log entry 64). -/
def bodyHouseConfig : Body := fun who r s =>
  let d0 := (r.block.drop 1).take 16
  let d1 := (r.block.drop 17).take 16
  let e0 := bits (wd r.block 33) 3 0
  let e1 := bits (wd r.block 33) 7 4
  let h := (wd r.block 34).toNat
  match houseSched s who h with
  | .error c => errRes s c
  | .ok _ =>
    if s.hp.running ∨ s.hp.starting then errRes s cBADSTATE
    else match (streamStruct r.block 1).or (streamStruct r.block 17) with
    | some c => errRes s c
    | none =>
      match houseCheck [d0, d1] [e0, e1] with
      | some c => errRes s c
      | none =>
        match applyHouse s d0 d1 e0 e1 h with
        | none => errRes s cNOMEMORY
        | some s => okRes s [BitVec.ofNat 32 (poolBays [d0, d1]), Config.netId h]

def bodyHouseStart : Body := fun _ r s =>
  let free := bit (wd r.block 1) 0
  if s.hp.cfg.isNone ∨ ¬ s.tt.set ∨ s.hp.running ∨ s.hp.starting then errRes s cBADSTATE
  else if ¬ s.ring.gSync ∧ ¬ free then errRes s cNOTREADY
  else
    let s := if s.pw.st = .idle then powerTo s .run 0 else s
    okRes { s with hp := { s.hp with starting := true, freeRun := free } } []

/-- The pipeline stops at the next frame boundary; one that has not started yet does not start. -/
def bodyHouseStop : Body := fun _ _ s =>
  if s.hp.running then okRes { s with hp := { s.hp with stopping := true } } []
  else if s.hp.starting then okRes { s with hp := { s.hp with starting := false, stopped := true } } []
  else errRes s cBADSTATE

/-- (DEDUCED: log entry 88). -/
def bodyTestMode : Body := fun _ _ s =>
  if s.hp.running ∨ s.hp.starting then errRes s cBADSTATE else okRes { s with num := { s.num with svc := 2 } } []

/-- (DEDUCED: log entry 88). -/
def bodySetNumMode : Body := fun _ r s =>
  if s.num.svc = 0 then errRes s cBADMODE else okRes { s with num := { s.num with keep := bit (wd r.block 1) 0 } } []

/-- SYS_GRANT: a read-only grant of a house object (R54, R224, R297). (DEDUCED: log entry 64). -/
def bodySysGrant : Body := fun _ r s =>
  let k := (wd r.block 1).toNat
  let g := bits (wd r.block 2) 11 0
  let slot : Option Nat :=
    if k < 2 then (match s.hp.rings[k]? with
      | some x => if x.frames = 0 then none else some x.obj
      | none => none)
    else if s.pw.houseCtxReady then some s.hp.poseRing else none
  if 3 ≤ k then errRes s cRANGE
  else match slot with
    | none => errRes s cBADSTATE
    | some sl =>
      match objOf s sl with
      | none => errRes s cBADSTATE
      | some o =>
        match granteeCheck s 0x300 g with
        | some c => errRes s c
        | none => okRes (setObj s sl { o with grants := tput o.grants g 1 }) [BitVec.ofNat 32 (handleOf sl o)]

/-! ### Faults of the cameras (R40, R531) -/

def modStream (s : State) (st : Nat) (f : Stream → Stream) : State :=
  { s with hp := { s.hp with streams := upd s.hp.streams st f } }
def streamOf (s : State) (st : Nat) : Stream := s.hp.streams.getD st default

/-- Set a status bit in receivers. -/
def csiBit (s : State) (ports : List Nat) (b : Nat) : State :=
  { s with hp := { s.hp with csi := ports.foldl (fun l p => upd l p fun c => { c with errs := c.errs ||| 2 ^ b }) s.hp.csi } }

/-- Intake marks a frame of a stream: it does not count as lost (R469). -/
def markFrame (s : State) (st : Nat) : State :=
  let f := (streamOf s st).frame
  if s.hp.marked.contains (st, f) then s
  else { s with hp := { s.hp with marked := s.hp.marked.drop (s.hp.marked.length - 15) ++ [(st, f)] } }

/-- A frame is lost to the part, counted once (R469). -/
def frameLost (s : State) (st f : Nat) : State :=
  if s.hp.marked.contains (st, f) ∨ s.hp.lostAt.getD st none = some f then s
  else { s with hp := { s.hp with lostAt := s.hp.lostAt.set st (some f) },
                fc := { s.fc with availLost := satInc 0xFFFFFFFF s.fc.availLost } }

/-- An intake event: a bit of one port, or of every port of its stream, and its fault. -/
def csiErr (s : State) (st : Nat) (port : Option Nat) (b kind line : Nat) : State :=
  let ps := match port with
    | some p => [p]
    | none => hPorts (hdesc s st)
  let s := csiBit s ps b
  let s := if kind = 5 ∨ kind = 7 then markFrame s st else s
  raise s (plainFault 0x350 kind (72 + ps.headD 0) st line)

/-! ### Conditioning (R37) -/

/-- Keys of a defect map table in force (R284). -/
def defectKeys (s : State) (st : Nat) : List Nat := (tgetD s.nw.calEff (5 + st) []).map CalRec.key

/-- The mean of two values, ties to even. -/
def meanEven (a b : Nat) : Nat :=
  let v := (a + b) / 2
  if (a + b) % 2 = 0 then v else if v % 2 = 0 then v else v + 1

/-- Pixels from column `x0` of line y: the black level of the phase subtracted and clamped at zero, then shifted to 16 bits
(R37, steps 1 and 2). (DEDUCED: log entry 66). -/
def blackLine (d : List Word) (y x0 : Nat) (raw : List Nat) : List Nat :=
  (List.range raw.length).map fun i => (raw.getD i 0 - hBlack d (x0 + i) y) * 2 ^ (16 - hBits d)

/-- The listed pixels of a whole line take the mean of their neighbours of the same phase; columns that were replaced
with another line's stay (R37, step 3). A neighbour that is listed itself gives its unreplaced value: R37 does not say
which. (DEDUCED: log entry 66, DESIGN CHOICE: log entry 99). -/
def defectLine (defects : List Nat) (y : Nat) (bad : List (Nat × Nat × Nat)) (v : List Nat) : List Nat :=
  if defects.any fun k => k / 65536 == y then
    (List.range v.length).map fun i =>
      if defects.contains (i + 65536 * y) && !(bad.any fun f => f.2.1 ≤ i && i < f.2.2) then
        let a := if 2 ≤ i then some (v.getD (i - 2) 0) else none
        let b := v[i + 2]?
        match a, b with
        | some a, some b => meanEven a b
        | some a, none => a
        | none, some b => b
        | none, none => v.getD i 0
      else v.getD i 0
  else v

/-- A line shorter than the packet's columns repeats the last pixel of the same phase; excess is discarded.
(DEDUCED: log entry 66). -/
def fitLine (n : Nat) (px : List Nat) : List Nat :=
  (List.range n).map fun i =>
    if i < px.length then px.getD i 0
    else
      let k := px.length
      if k = 0 then 0 else if k = 1 then px.getD 0 0 else px.getD (if (i + k) % 2 = 0 then k - 2 else k - 1) 0

/-! ### Lines become bands and tiles (R38, R39, R46) -/

/-- Reflection of a coordinate into the image (R38). -/
def reflect (n : Nat) (v : Int) : Nat := if v < 0 then (-v).toNat else if (n : Int) ≤ v then (2 * ((n : Int) - 1) - v).toNat else v.toNat

/-- The bytes of a tile's input in row order: 80 rows of 80 little-endian 16-bit values. -/
def tileInput (d : List Word) (lines : List (Nat × List Nat)) (c r : Nat) : List Byte :=
  (List.range 80).flatMap fun (j : Nat) =>
    let row := tgetD lines (reflect (hH d) (64 * (r : Int) - 8 + (j : Nat))) []
    (List.range 80).flatMap fun (i : Nat) => leBytes 2 (row.getD (reflect (hW d) (64 * (c : Int) - 8 + (i : Nat))) 0)

/-- The tile contains replaced pixels. -/
def tileFixed (d : List Word) (fixed : List (Nat × Nat × Nat)) (c r : Nat) : Bool :=
  let ys := (List.range 80).map fun (j : Nat) => reflect (hH d) (64 * (r : Int) - 8 + (j : Nat))
  let xs := (List.range 80).map fun (i : Nat) => reflect (hW d) (64 * (c : Int) - 8 + (i : Nat))
  fixed.any fun f => ys.contains f.1 && xs.any fun x => f.2.1 ≤ x && x < f.2.2

def validW (d : List Word) (c : Nat) : Nat := min 64 (hW d - 64 * c)
def validH (d : List Word) (r : Nat) : Nat := min 64 (hH d - 64 * r)

def tileEdge (d : List Word) (c r : Nat) : Bool :=
  c == 0 || r == 0 || decide (hW d < 64 * c + 72 ∨ hH d < 64 * r + 72)

/-- The digital gain of a frame: that posted for the latest frame not above it, else the controller's own (R56). -/
def gainFor (s : State) (frame : Nat) : Nat :=
  (((s.hp.gains.filter fun g => decide (g.1 ≤ frame)).getLast?).map Prod.snd).getD s.mc.gain

/-- A tile whose first input line has arrived. -/
def newTile (s : State) (st : Nat) (d : List Word) (frame c r : Nat) : Tile :=
  ⟨st, frame, c, r, (List.range 4).map fun k => if hH d ≤ 64 * r + 16 * k then .absent else .waiting,
   false, 0, 0, 0, false, tileEdge d c r, 0, none, 0, none, 0, gainFor s frame, false, [], [], none, none⟩

/-- Lines 0, 1, … that have arrived without a gap. -/
def linePrefix (lines : List (Nat × List Nat)) : Nat → Nat → Nat
  | 0, y => y
  | fuel + 1, y => if (tget lines y).isSome then linePrefix lines fuel (y + 1) else y

def tileIs (t : Tile) (st frame col row : Nat) : Bool := t.stream == st && t.frame == frame && t.col == col && t.row == row

def setTiles (s : State) (f : Tile → Tile) : State := { s with hp := { s.hp with tiles := s.hp.tiles.map f } }

/-! ### Bays of the pool (R29, R41) -/

/-- Bays of the house pool that hold nothing. -/
def freePool (s : State) : List Nat :=
  (s.gal.bays.filter fun p => p.2.tag == 0x200 && !(s.hp.tiles.any fun t => t.ibay == some p.1 || (t.obay.map Prod.fst) == some p.1)).map Prod.fst

/-- Write bytes of a bay. -/
def bayPut (s : State) (b off : Nat) (bs : List Byte) : State :=
  { s with gal := { s.gal with bays := tmod s.gal.bays b fun y => { y with data := memPutN y.data off bs } } }

/-- The rows of its 80-row input that a line of the image gives to tile row r. -/
def inputRows (d : List Word) (r y : Nat) : List Nat :=
  (List.range 80).filter fun (j : Nat) => reflect (hH d) (64 * (r : Int) - 8 + (j : Nat)) == y

/-- Tile rows that have line y in their input. -/
def rowsOf (d : List Word) (y : Nat) : List Nat :=
  (List.range (hRows d)).filter fun r =>
    decide (y ≤ 64 * r + 71) && (decide (64 * r ≤ y + 8) || (r + 1 == hRows d && decide (2 * (hH d - 1) ≤ y + 64 * r + 71)))

/-- The bytes of one row of a tile's input. -/
def inputRow (d : List Word) (px : List Nat) (c : Nat) : List Byte :=
  (List.range 80).flatMap fun (i : Nat) => leBytes 2 (px.getD (reflect (hW d) (64 * (c : Int) - 8 + (i : Nat))) 0)

/-- A line goes to the input bays of the tiles of row r of the stream's frame (R29, R41). -/
def stashLine (s : State) (st r y : Nat) (px : List Nat) : State :=
  let d := hdesc s st
  let x := streamOf s st
  (s.hp.tiles.filter fun t => t.stream == st && t.frame == x.frame && t.row == r).foldl (fun s t =>
    match t.ibay with
    | some b => (inputRows d r y).foldl (fun s j => bayPut s b (12800 * (t.col % 5) + 160 * j) (inputRow d px t.col)) s
    | none => s) s

/-- The first line of tile row r arrives: its tiles take their slots of input bays, five tiles to a bay, and the lines
of their input that arrived before are there too (R41). -/
def openRow (s : State) (st r : Nat) : State :=
  let d := hdesc s st
  let x := streamOf s st
  if s.hp.tiles.any fun t => t.stream == st && t.frame == x.frame && t.row == r then s
  else
    let free := freePool s
    let s := { s with hp := { s.hp with tiles := s.hp.tiles ++ (List.range (hCols d)).map fun c =>
      { newTile s st d x.frame c r with ibay := free[c / 5]? } } }
    x.lines.foldl (fun s l => if (rowsOf d l.1).contains r then stashLine s st r l.1 l.2 else s) s

/-- A conditioned line enters the input bays (R29, R37). -/
def stash (s : State) (st y : Nat) (px : List Nat) : State :=
  (rowsOf (hdesc s st) y).foldl (fun s r => stashLine (openRow s st r) st r y px) s

/-- Two tiles share an output bay: the free slots, in bays of which one slot is taken first. -/
def freeOut (s : State) : List (Nat × Nat) :=
  let used := s.hp.tiles.filterMap Tile.obay
  (used.filterMap fun p => if used.contains (p.1, 1 - p.2) then none else some (p.1, 1 - p.2))
    ++ (freePool s).flatMap fun b => [(b, 0), (b, 1)]

/-- The tiles of a row whose band 0 becomes ready take their slots of output bays (R41). -/
def takeOut (s : State) (st frame r : Nat) : State :=
  let free := freeOut s
  setTiles s fun x => if x.stream = st ∧ x.frame = frame ∧ x.row = r ∧ x.obay.isNone then { x with obay := free[x.col]? } else x

/-- A tile whose last band's Hall work and whose base path have both ended frees its input bay slot (R41). -/
def freeInput (s : State) (st frame c r : Nat) : State :=
  setTiles s fun x =>
    if tileIs x st frame c r ∧ x.base.isSome ∧ (x.bands.all fun b => match b with
      | .waiting => false | .ready _ => false | .hall _ => false | _ => true) then { x with ibay := none } else x

/-- The bytes of a tile's input, as its input bay holds them. -/
def bayInput (s : State) (t : Tile) : List Byte :=
  match t.ibay with
  | some b => memGetN (bayOf s b).data (12800 * (t.col % 5)) 12800
  | none => []

/-- Band k of tile row r becomes ready at time t. (DEDUCED: log entry 66). -/
def bandReady (s : State) (st frame r k t : Nat) : State :=
  let s := if k = 0 then takeOut s st frame r else s
  setTiles s fun x => if x.stream = st ∧ x.frame = frame ∧ x.row = r then
    { x with bands := upd x.bands k fun b => if b = .waiting then .ready t else b } else x

/-- Tile row r is complete at time t, in the present tile cycle. -/
def rowComplete (s : State) (st frame r t : Nat) : State :=
  let d := hdesc s st
  let x := streamOf s st
  setTiles s fun y => if y.stream = st ∧ y.frame = frame ∧ y.row = r then
    { y with complete := true, tr := s.hp.slots, tlast := t, ichk := crc32c (tileInput d x.lines y.col r),
             fix := tileFixed d x.fixed y.col r } else y

/-- What the lines from `a` up to but not including `b`, newly arrived, make ready. (DEDUCED: log entry 66). -/
def linesDone (s : State) (st a b t : Nat) : State :=
  let d := hdesc s st
  let f := (streamOf s st).frame
  (List.range (hRows d)).foldl (fun s r =>
    let s := (List.range 4).foldl (fun s k =>
      let l := min (64 * r + 16 * k + 23) (hH d - 1)
      if 64 * r + 16 * k < hH d ∧ a ≤ l ∧ l < b then bandReady s st f r k t else s) s
    let l := min (64 * r + 71) (hH d - 1)
    if a ≤ l ∧ l < b then rowComplete s st f r t else s) s

/-- The arrival time a(y_m) and the mid-exposure time of the row whose line y_m is `y` go to the Motion Controller (R222). -/
def sendTm (s : State) (st y t : Nat) : State :=
  let d := hdesc s st
  let r := y / 64
  if r < hRows d ∧ y = 64 * r + validH d r / 2 then
    { s with hp := { s.hp with tm := s.hp.tm ++ [(st, (streamOf s st).frame, r, t - hInteg d / 2, t)] } }
  else s

/-- A frame that breaks a timing rule raises SENS_TIMING once (R35). (DEDUCED: log entry 64). -/
def timingFault (s : State) (st line : Nat) : State :=
  if (streamOf s st).timingTold then s
  else raise (modStream (markFrame s st) st fun x => { x with timingTold := true }) (plainFault 0x350 0x06 (72 + (hPorts (hdesc s st)).headD 0) st line)

/-- Measured aggregate lane rate of a stream's ports, from the receivers, or the expected one on four lanes. -/
def laneRate (s : State) (st : Nat) : Nat :=
  let d := hdesc s st
  (hPorts d).foldl (fun n p =>
    let c := s.hp.csi.getD p default
    n + (if c.rate = 0 ∨ c.lanes = 0 then 4 * hMbps d else ((List.range 4).filter fun i => c.lanes / 2 ^ i % 2 == 1).length * c.rate)) 0

def enabled (s : State) : Nat := (List.range 2).foldl (fun n st => n + (if streamOn s st then 1 else 0)) 0

/-- Rules 1, 2 and 4 of R35 on a line's arrival, whichever stream's line arrives later; a line that was missing has no
arrival of its own to measure. (DEDUCED: log entry 64). -/
def lineTiming (s : State) (st y t : Nat) : State :=
  let d := hdesc s st
  let x := streamOf s st
  if x.missed.contains y then s
  else
    let s := match (if y = 0 ∨ x.missed.contains (y - 1) then none else tget x.arrive (y - 1)) with
      | some a => if a ≤ t ∧ ¬ lineOk d (enabled s) (t - a) (laneRate s st) then timingFault s st y else s
      | none => s
    let o := streamOf s (1 - st)
    if enabled s = 2 ∧ st < 2 ∧ o.frame = x.frame ∧ ¬ o.missed.contains y then
      match tget o.arrive y with
      | some a =>
        let a0 := if st = 0 then t else a
        let a1 := if st = 0 then a else t
        if a1 + 1000 < a0 + 32 * hLineNs d ∨ a0 + 32 * hLineNs d + 1000 < a1 then timingFault s 1 y else s
      | none => s
    else s

/-- Deposit a line into the bays: it has arrived. (DEDUCED: log entry 67). -/
def deposit (s : State) (st y : Nat) (px : List Nat) (fixed : List (Nat × Nat × Nat)) (t : Nat) : State :=
  let x := streamOf s st
  let a := linePrefix x.lines (hH (hdesc s st)) 0
  let s := modStream s st fun x =>
    { x with lines := tput x.lines y px, arrive := tput x.arrive y t, fixed := x.fixed ++ fixed,
             held := x.held.filter fun h => h != y, stripes := x.stripes.filter fun p => p.1 != y }
  let b := linePrefix (streamOf s st).lines (hH (hdesc s st)) 0
  linesDone (stash (sendTm (lineTiming s st y t) st y t) st y px) st a b t

/-! ### Pieces of lines: one packet each (R32, R40) -/

/-- Pieces of a line: one, or one for each port of a STRIPE gang. -/
def pieces (d : List Word) : Nat := if hGang d = 2 then (hPorts d).length else 1
def pieceW (d : List Word) : Nat := hW d / pieces d

/-- The whole line of its pieces; a failed piece (empty) takes the columns of the given line. -/
def assemble (d : List Word) (ps : List (Nat × List Nat)) (src : List Nat) : List Nat :=
  (List.range (pieces d)).flatMap fun k =>
    let p := tgetD ps k []
    if p = [] then (List.range (pieceW d)).map fun i => src.getD (k * pieceW d + i) 0 else p

def fixedCols (d : List Word) (y : Nat) (ps : List (Nat × List Nat)) : List (Nat × Nat × Nat) :=
  ((List.range (pieces d)).filter fun k => tgetD ps k [] == []).map fun k => (y, k * pieceW d, (k + 1) * pieceW d)

def piecesOf (x : Stream) (y : Nat) : List (Nat × List Nat) := (x.stripes.filter fun p => p.1 == y).map fun p => (p.2.1, p.2.2)

/-- The line its pieces make: assembled, then its listed pixels replaced. -/
def lineOf (s : State) (st y : Nat) (ps : List (Nat × List Nat)) (src : List Nat) : List Nat :=
  defectLine (s.hp.defects.getD st []) y (fixedCols (hdesc s st) y ps) (assemble (hdesc s st) ps src)

/-- A line that waits is written from the given line, or as zero. -/
def resolveHeld (s : State) (st y : Nat) (src : List Nat) (t : Nat) : State :=
  let d := hdesc s st
  let ps := piecesOf (streamOf s st) y
  deposit s st y (lineOf s st y ps src) (fixedCols d y ps) t

/-- Lines that wait for their replacement: lines 0 and 1 for the lines two below, once those have passed their check or
are known to have failed; a later line for the line two above, where a LINE gang brings it first (R32, R40). -/
def settleHeld : Nat → State → Nat → Nat → State
  | 0, s, _, _ => s
  | fuel + 1, s, st, t =>
    let x := streamOf s st
    let ready (y : Nat) : Option (List Nat) :=
      if 2 ≤ y then tget x.lines (y - 2)
      else (tget x.lines (y + 2)).map fun src => if x.fixed.any fun f => f.1 == y + 2 then [] else src
    match x.held.findSome? fun y => (ready y).map fun src => (y, src) with
    | some (y, src) => settleHeld fuel (resolveHeld s st y src t) st t
    | none => s

/-- Every piece of line y is in: it is deposited, replaced or held. A failed line 2 or 3 whose line 0 or 1 waits for it
leaves that line zero (R40). -/
def finishLine (s : State) (st y t : Nat) : State :=
  let d := hdesc s st
  let x := streamOf s st
  let ps := piecesOf x y
  if fixedCols d y ps = [] then settleHeld ((streamOf s st).held.length + 1) (deposit s st y (lineOf s st y ps []) [] t) st t
  else
    let s := if 2 ≤ y ∧ y < 4 ∧ x.held.contains (y - 2) then resolveHeld s st (y - 2) [] t else s
    settleHeld (x.held.length + 2) (modStream s st fun x => { x with held := sins x.held y }) st t

/-- Take one piece of line y. -/
def takePiece (s : State) (st y k : Nat) (px : List Nat) (t : Nat) : State :=
  let s := modStream s st fun x => { x with stripes := x.stripes ++ [(y, k, px)] }
  if (piecesOf (streamOf s st) y).length = pieces (hdesc s st) then finishLine s st y t else s

/-- Line and piece of packet j of a port of the stream. -/
def packetLine (d : List Word) (port j : Nat) : Nat × Nat :=
  let ps := hPorts d
  let k := (ps.takeWhile fun p => p != port).length
  if hGang d = 1 then (j * ps.length + k, 0) else if hGang d = 2 then (j, k) else (j, 0)

/-- Packets a port carries in a frame. -/
def portPackets (d : List Word) (port : Nat) : Nat :=
  if hGang d = 1 then
    let n := (hPorts d).length
    (hH d + n - 1 - (packetLine d port 0).1) / n
  else hH d

/-- Packets of the port below `j` that never came: each makes its line a missing line, told once, and is filled (R40).
(DEDUCED: log entry 66). -/
def fillGaps (s : State) (st port j t : Nat) : State :=
  let d := hdesc s st
  (List.range (min j (portPackets d port))).foldl (fun s i =>
    let (y, k) := packetLine d port i
    let x := streamOf s st
    if (tget x.lines y).isSome ∨ (tget (piecesOf x y) k).isSome then s
    else
      let s := if x.missed.contains y then s else modStream (csiErr s st none 5 0x04 y) st fun x => { x with missed := sins x.missed y }
      takePiece s st y k [] t) s

/-! ### Frames -/

/-- Close the frame: missing lines are filled, held lines written as zero, rule 3 of R35 is checked.
(DEDUCED: log entry 66). -/
def closeFrame (s : State) (st t : Nat) : State :=
  let d := hdesc s st
  let s := (hPorts d).foldl (fun s p => fillGaps s st p (portPackets d p) t) s
  let s := (streamOf s st).held.foldl (fun s y => resolveHeld s st y [] t) s
  let x := streamOf s st
  let b := s.tt.epoch + 1000 * frameStart s.tt.rate s.tt.frame
  let b' := s.tt.epoch + 1000 * frameStart s.tt.rate (s.tt.frame + 1)
  let early := (tgetD x.arrive 0 b) < b
  let late := b' < tgetD x.arrive (hH d - 1) 0 + 120000
  let s := if s.tt.set ∧ (early ∨ late) then timingFault s st (hH d - 1) else s
  modStream s st fun x => { x with opened := false }

/-- A frame opens on its first Frame Start, which increments FRAME (R51).
(PRESUMED: log entry 65, DEDUCED: log entry 66). -/
def openFrame (s : State) (st port fnum : Nat) : State :=
  let x := streamOf s st
  let next := if x.fnum = 0xFFFF then 1 else x.fnum + 1
  let s := if x.seen ∧ ¬ (fnum = next) ∧ ¬ (fnum = 0 ∧ x.fnum = 0) then csiErr s st none 9 0x05 0 else s
  let s := { s with hp := { s.hp with defects := upd s.hp.defects st fun _ => defectKeys s st } }
  modStream s st fun x =>
    { x with opened := true, seen := true, frame := (x.frame + 1) % 2 ^ 32, fnum := fnum, lines := [],
             arrive := [], fixed := [], held := [], counts := [0, 0, 0, 0], stripes := [], began := [port], ended := [],
             startAt := s.now, timingTold := false, missed := [] }

/-- Header protection of a packet: 0 good, 1 corrected, 2 uncorrectable (the packet is discarded).
(PRESUMED: log entry 65). -/
def headerCheck (s : State) (st port hdr line : Nat) : State :=
  if hdr = 1 then csiErr s st (some port) 0 0x01 line else if hdr = 0 then s else csiErr s st (some port) 1 0x02 line

/-- (PRESUMED: log entry 65). -/
def csiFrameStart (s : State) (port vc fnum hdr : Nat) : State :=
  match (if s.hp.running then streamOfPort s port else none) with
  | none => s
  | some st =>
    let s := headerCheck s st port hdr 0
    let x := streamOf s st
    if 2 ≤ hdr ∨ vc ≠ hVc (hdesc s st) then s
    else if ¬ x.opened then openFrame s st port fnum
    else if x.began.contains port then openFrame (closeFrame (csiErr s st none 6 0x05 0) st s.now) st port fnum
    else modStream s st fun x => { x with began := x.began ++ [port] }

/-- (PRESUMED: log entry 65). -/
def csiFrameEnd (s : State) (port vc hdr t : Nat) : State :=
  match (if s.hp.running then streamOfPort s port else none) with
  | none => s
  | some st =>
    let s := headerCheck s st port hdr 0
    let x := streamOf s st
    if 2 ≤ hdr ∨ vc ≠ hVc (hdesc s st) ∨ ¬ x.opened then s
    else
      let s := modStream s st fun x => { x with ended := if x.ended.contains port then x.ended else x.ended ++ [port] }
      if (hPorts (hdesc s st)).all fun p => (streamOf s st).ended.contains p then closeFrame s st t else s

/-- A Line Start names the line, from 0, that the port's next packet carries. (PRESUMED: log entry 65). -/
def csiLineStart (s : State) (port vc line hdr t : Nat) : State :=
  match (if s.hp.running then streamOfPort s port else none) with
  | none => s
  | some st =>
    let d := hdesc s st
    let s := headerCheck s st port hdr line
    let x := streamOf s st
    if 2 ≤ hdr ∨ vc ≠ hVc d ∨ ¬ x.opened then s
    else
      let j := if hGang d = 1 then line / (hPorts d).length else line
      if x.counts.getD port 0 < j then
        modStream (fillGaps s st port j t) st fun x => { x with counts := x.counts.set port j }
      else s

/-- A long packet: its pixels in sensor code units, whether its CRC-16 holds, when its last byte arrived. One shorter
than W is filled and sets no LINE_FIX: R40 does not say that its filled pixels count as replaced.
(PRESUMED: log entry 65, DESIGN CHOICE: log entry 99). -/
def csiLongPacket (s : State) (port vc dt hdr : Nat) (crcOk : Bool) (px : List Nat) (t : Nat) : State :=
  match (if s.hp.running then streamOfPort s port else none) with
  | none => s
  | some st =>
    let d := hdesc s st
    let x := streamOf s st
    let j := x.counts.getD port 0
    let (y, k) := packetLine d port j
    let s := headerCheck s st port hdr y
    if 2 ≤ hdr then modStream s st fun x => { x with counts := x.counts.set port (j + 1) }
    else if dt = 0x12 then s
    else if vc ≠ hVc d then csiBit s [port] 8
    else if dt ≠ hDt d then csiBit s [port] 7
    else if ¬ x.opened then s
    else
      let s := modStream s st fun x => { x with counts := x.counts.set port (j + 1) }
      if hH d ≤ y then csiErr s st none 11 0x04 y
      else
        let s := fillGaps s st port j t
        if crcOk then
          let s := if px.length < pieceW d then csiErr s st (some port) 3 0x04 y
            else if pieceW d < px.length then csiErr s st (some port) 4 0x04 y else s
          takePiece s st y k (blackLine d y (k * pieceW d) (fitLine (pieceW d) px)) t
        else takePiece (csiErr s st (some port) 2 0x03 y) st y k [] t

/-- No Frame Start within 1.5 frame periods of the expected one. -/
def sensLoss (s : State) (st : Nat) : State :=
  if s.hp.running ∧ streamOn s st then csiErr s st none 10 0x07 0 else s

/-! ### Receivers (R27, R59) -/

/-- Rounded to the nearest, ties to even. -/
def divEven (a b : Nat) : Nat :=
  let q := a / b
  let r := a % b
  if 2 * r < b then q else if b < 2 * r then q + 1 else if q % 2 = 0 then q else q + 1

def hsTransition (s : State) (port : Nat) (clk data : Bool) (lanes rate : Nat) : State :=
  if 4 ≤ port then s
  else
    let was := (s.ms.islands.getD (17 + port) default).locked
    { s with
      hp := { s.hp with csi := upd s.hp.csi port fun c =>
        { c with hs := data, lanes := if data then lanes % 16 else 0, rate := min rate 8191,
                 skewSeen := c.skewSeen && !(clk && !was) } },
      ms := { s.ms with islands := upd s.ms.islands (17 + port) fun i =>
        { i with locked := clk, freq := if clk then divEven rate 8 else 0 } } }

def skewCalibration (s : State) (port : Nat) : State :=
  { s with hp := { s.hp with csi := upd s.hp.csi port fun c => { c with skewSeen := true } } }

/-! ### House slots and stages (R42 to R44, R48) -/

def isReady : BandSt → Option Nat
  | .ready t => some t
  | _ => none

/-- Readiness order of R43, as one key: time, stream, column, band. -/
def bandKey (t st col k : Nat) : Nat := ((t * 2 + st) * 256 + col) * 4 + k

/-- The ready bands whose tile's output slot has not passed, in the order of R43: key, tile, band. -/
def readyBands (s : State) : List (Nat × Tile × Nat) :=
  let l := s.hp.tiles.flatMap fun t =>
    if t.slot ≠ 0 ∧ t.slot ≤ s.hp.slots then []
    else (List.range 4).filterMap fun k => (isReady (t.bands.getD k .absent)).map fun x => (bandKey x t.stream t.col k, t, k)
  l.mergeSort fun a b => a.1 ≤ b.1

def setBand (s : State) (t : Tile) (k : Nat) (b : BandSt) : State :=
  setTiles s fun x => if tileIs x t.stream t.frame t.col t.row then { x with bands := x.bands.set k b } else x

/-- Each ready band goes to the next house slot, MH0 to MH3; a withdrawn Hall takes none. In the maintenance slot
a Hall without a band has maintenance time (R330). -/
def houseSlots (s : State) : State :=
  let halls := (List.range 4).filter fun h => !(s.fc.hallOut.getD h false)
  let s := (List.range 4).foldl (fun s h => modHall s h fun x =>
    { x with kind := if s.tt.cycle < maintLen then 4 else 1, ctx := if s.tt.cycle < maintLen then 0 else 0x200, busy := false, fresh := [] }) s
  let s := (halls.zip (readyBands s)).foldl (fun s p =>
    let s := { s with tt := { s.tt with ready := upd s.tt.ready p.1 fun r => some (r.getD s.tt.cycle) } }
    let s := modHall s p.1 fun x => { x with kind := 1, ctx := 0x200 }
    setBand s p.2.2.1 p.2.2.2 (.hall p.1)) s
  -- the house slot starts a run of context 0x200's compute queue too (R66)
  (List.range 4).foldl (fun s h => if (hallOf s h).kind = 1 then hallRunStart s h 0 [] else s) s

/-- The network path of a tile is abandoned after a fault (LATE_CAUSE 4). -/
def abandonBand (s : State) (t : Tile) (k : Nat) : State :=
  let s := setTiles (setBand s t k .dropped) fun x =>
    if tileIs x t.stream t.frame t.col t.row then { x with faulted := true } else x
  freeInput s t.stream t.frame t.col t.row

/-- A band's Hall work ends, with the corrected errors it met, the rows it read and those it wrote (store 0 weight, 1
activation; row), the tag of its last descriptor, and 1 for an uncorrectable error, 2 for a NaN at (m, n). A band whose
descriptors read a row with an uncorrectable error is abandoned until that row is rewritten; the row of a new error is the
last it read (R42, R94, R127, R128). (DESIGN CHOICE: log entry 98). -/
def bandHallDone (s : State) (h fault m n corr tag : Nat) (reads writes : List (Nat × Nat)) : State :=
  match s.hp.tiles.findSome? fun t => ((List.range 4).find? fun k => t.bands.getD k .absent == .hall h).map fun k => (t, k) with
  | none => s
  | some (t, k) =>
    let known := reads.find? fun r => (hallOf s h).badRows.contains r
    let s := (List.range corr).foldl (fun s _ => raise s (ctxFault (0x340 + h) 0x10 h 0x200 0 0)) s
    let s := modHall s h fun y => { y with
      corr := sat 0xFFFF (y.corr + corr), badRows := y.badRows.filter fun b => !(writes.contains b) || known == some b }
    let bad := if fault = 1 then some ((known.or reads.getLast?).getD (0, 0)) else known
    let drop (s : State) : State := abandonBand s t k
    match bad with
    | some r =>
      let s := modHall (drop s) h fun y => { y with unc := satInc 0xFFFF y.unc, badRows := if y.badRows.contains r then y.badRows else y.badRows ++ [r] }
      raise s (ctxFault (0x340 + h) 0x11 h 0x200 tag (256 * r.2))
    | none =>
      if fault = 0 then
        let s := setTiles s fun x => if tileIs x t.stream t.frame t.col t.row then
          { x with netSeed := Config.versionOf (bayInput s x) [1, bits (wd (hdesc s t.stream) 1) 17 16, ((s.hp.cfg.map HouseCfg.netId).getD 0).toNat] } else x
        freeInput (setBand s t k .shader) t.stream t.frame t.col t.row
      else raise (drop s) { ctxFault (0x340 + h) 0x13 h 0x200 tag 0 with extra := [h, 0, tag, m, n, 0, 0] }

def findTile (s : State) (st frame col row : Nat) : Option Tile := s.hp.tiles.find? fun t => tileIs t st frame col row

/-- A band's shader stages end; a NaN trap in them abandons the band: logical core, destination register, layer tag,
thread coordinates and code offset of the trap (R126 to R128). -/
def shaderStageDone (s : State) (st frame col row k : Nat) (nan : List Nat) : State :=
  match findTile s st frame col row with
  | none => s
  | some t =>
    if t.bands.getD k .absent ≠ .shader then s
    else if nan = [] then setBand s t k .colour
    else
      let u := 16 + nan.headD 0
      raise (abandonBand s t k) { ctxFault 0x370 0x18 u 0x200 0x09 0 with extra := u :: nan.drop 1 }

/-! ### Versions (R44, R52, R53) -/

/-- Sample i of a version: its planes Y, Cb, Cr; outside the image zero; inside, what the networks and the
colour stage produce. (DESIGN CHOICE: log entry 15). -/
def versionSample (seed vw vh i : Nat) : Nat :=
  let inside := if i < 4096 then i % 64 < vw ∧ i / 64 < vh else (i - 4096) % 32 * 2 < vw ∧ (i - 4096) % 2048 / 32 < vh
  if inside then (Config.networkPixel seed i).toNat else 0

/-- The 16,384 bytes of a version in plane order; a version of zeros has seed 0. (DESIGN CHOICE: log entry 15). -/
def versionBytes (seed vw vh : Nat) : List Byte :=
  if seed = 0 then List.replicate 16384 0 else (List.range 8192).flatMap fun i => leBytes 2 (versionSample seed vw vh i)

def tileFault (s : State) (source unit st tseq : Nat) : State := raise s (ctxFault source 0x0A unit 0x200 st tseq)

/-- The sequence number a tile will leave with: those of the tiles before it in the order of slots (R46, R51). -/
def tseqAhead (s : State) (t : Tile) : Nat :=
  let before (x : Tile) : Bool :=
    if t.slot ≠ 0 then x.slot != 0 && x.slot < t.slot
    else x.slot != 0 || (x.complete && (x.tr * 2 + x.stream) * 256 + x.col < (t.tr * 2 + t.stream) * 256 + t.col)
  (s.hp.tseq + (s.hp.tiles.filter before).length) % 2 ^ 48

/-- What names a version of a tile: its input in its bay, the version, the colour phase, the network set, the gain. -/
def versionSeed (s : State) (t : Tile) (kind : Nat) : Nat :=
  Config.versionOf (bayInput s t) [kind, bits (wd (hdesc s t.stream) 1) 17 16, ((s.hp.cfg.map HouseCfg.netId).getD 0).toNat, gainFor s t.frame] + 1

/-- The tile's output slot has begun: a version completed now counts as not sealed (R47). -/
def slotPassed (s : State) (t : Tile) : Bool := t.slot != 0 && decide (t.slot ≤ s.hp.slots)

/-- The base path ends: ICHK is verified, the base version is complete in its output bay with BCHK.
(DESIGN CHOICE: log entry 15). -/
def baseComplete (s : State) (st frame col row : Nat) (ichkOk : Bool) : State :=
  match findTile s st frame col row with
  | none => s
  | some t =>
    if ¬ t.complete ∨ t.base.isSome ∨ slotPassed s t then s
    else
      let d := hdesc s st
      let seed := versionSeed s t 0
      let bytes := versionBytes seed (validW d col) (validH d row)
      let s := match t.obay with
        | some (b, j) => bayPut s b (32768 * j) bytes
        | none => s
      let s := if ichkOk then s else tileFault s 0x350 uGallery st (tseqAhead s t)
      let s := setTiles s fun x => if tileIs x st frame col row then
        { x with base := some (crc32c bytes), baseSeed := seed, gain := gainFor s frame } else x
      freeInput s st frame col row

/-- A house band runs on the Hall. -/
def bandOn (s : State) (h : Nat) : Bool := s.hp.tiles.any fun t => t.bands.contains (.hall h)

/-! ### Frame statistics (R55) -/

/-- The stream whose descriptor has METER, and its window clipped to the stream's tiles. -/
def meterStream (s : State) : Option Nat := (List.range 2).find? fun st => streamOn s st && hMeter (hdesc s st)
def meterWin (d : List Word) : Nat × Nat × Nat × Nat :=
  let w := wd d 7
  (bits w 7 0, min (bits w 15 8) (hCols d - 1), bits w 23 16, min (bits w 31 24) (hRows d - 1))

def inMeter (s : State) (st col row : Nat) : Bool :=
  let w := meterWin (hdesc s st)
  meterStream s == some st && decide (w.1 ≤ col ∧ col ≤ w.2.1 ∧ w.2.2.1 ≤ row ∧ row ≤ w.2.2.2)

/-- FOCUS as a signed measure: bit 15 is the defocus sign. -/
def focusVal (v : Nat) : Int := if v / 32768 % 2 = 1 then -((v % 32768 : Nat) : Int) else (v % 32768 : Nat)

def addLists (a b : List Nat) : List Nat := (List.range 16).map fun i => (a.getD i 0 + b.getD i 0) % 2 ^ 32

/-- A metering tile is finished (`hist` present) or leaves as LATE; after the last of its frame the statistics go
to the Motion Controller. -/
def meterTile (s : State) (t : Tile) (contributes : Bool) : State :=
  if ¬ inMeter s t.stream t.col t.row then s
  else
    let w := meterWin (hdesc s t.stream)
    let nr := w.2.2.2 + 1 - w.2.2.1
    let nc := w.2.1 + 1 - w.1
    let h := s.hp
    let h := if h.statFrame = t.frame ∧ h.statDone ≠ 0 then h
      else { h with statFrame := t.frame, statHist := List.replicate 16 0, statGrid := List.replicate 16 0, statTiles := 0, statDone := 0 }
    let cell := 4 * (t.row - w.2.2.1) / nr * 4 + 4 * (t.col - w.1) / nc
    let h := { h with statDone := h.statDone + 1 }
    let h := if contributes then
      { h with statHist := addLists h.statHist t.hist,
               statGrid := upd h.statGrid cell fun g => g + t.focus.foldl (fun a v => a + focusVal v) 0,
               statTiles := h.statTiles + 1 } else h
    if nr * nc ≤ h.statDone then
      { s with hp := { h with sent := h.sent ++ [(h.statFrame, h.statHist, h.statGrid, h.statTiles)], statDone := 0 } }
    else { s with hp := h }

/-- The network version of a tile: what the networks made of its input, under the gain. -/
def netSeedOf (s : State) (t : Tile) : Nat := Config.versionOf [] [2, t.netSeed, gainFor s t.frame] + 1

/-- A tile's network version is complete and its NCHK sealed: every computed band has passed the shader stage
and the colour stage ends. (DESIGN CHOICE: log entry 15). -/
def tileSealed (s : State) (st frame col row : Nat) : State :=
  match findTile s st frame col row with
  | none => s
  | some t =>
    if t.net.isSome ∨ t.faulted ∨ slotPassed s t ∨ ¬ (t.bands.all fun b => b == .colour || b == .absent) then s
    else
      let d := hdesc s st
      let seed := netSeedOf s t
      let bytes := versionBytes seed (validW d col) (validH d row)
      let t' := { t with net := some (crc32c bytes), netSeed := seed,
                         bands := t.bands.map fun b => if b = .colour then .done else b,
                         gain := gainFor s frame,
                         hist := (List.range 16).map fun i => (Config.networkPixel seed (10000 + i)).toNat,
                         focus := (List.range 16).map fun i => (Config.networkPixel seed (20000 + i)).toNat }
      let s := match t.obay with
        | some (b, j) => bayPut s b (32768 * j + 16384) bytes
        | none => s
      let s := setTiles s fun x => if tileIs x st frame col row then t' else x
      meterTile s t' true

/-! ### Output slots (R46 to R51, R54) -/

/-- Slots for the complete tiles that have none, in the order of T(r), then stream, then column. -/
def assignSlots (s : State) : State :=
  let todo := (s.hp.tiles.filter fun t => t.complete && t.slot == 0).mergeSort fun a b =>
    (a.tr * 2 + a.stream) * 256 + a.col ≤ (b.tr * 2 + b.stream) * 256 + b.col
  todo.foldl (fun s t =>
    let n := max (t.tr + 48 + t.col) (s.hp.lastSlot + 1)
    setTiles { s with hp := { s.hp with lastSlot := n } } fun x =>
      if tileIs x t.stream t.frame t.col t.row then { x with slot := n } else x) s

/-- A tile as it leaves: what composition needs of it. -/
structure Left where
  t : Tile
  tseq : Nat
  late : Bool
  seed : Nat
  chk : Nat
  vw : Nat
  vh : Nat

/-- LATE_CAUSE: the first unfinished stage. (DEDUCED: log entry 66). -/
def lateCause (t : Tile) : Nat :=
  if t.faulted then 4
  else if t.bands.any fun b => match b with
    | .waiting => true | .ready _ => true | .hall _ => true | .dropped => true | _ => false then 1
  else if t.bands.any fun b => b == .shader then 2 else 3

/-- The metadata record (R50). -/
def metaWords (s : State) (t : Tile) (tseq : Nat) (late : Bool) (cause : Nat) : List Word :=
  let d := hdesc s t.stream
  let pair (l : List Nat) : List Word := (List.range 8).map fun i => reg [fld 0 16 (l.getD (2 * i) 0), fld 16 16 (l.getD (2 * i + 1) 0)]
  [sizeVer 128,
   reg [flg 0 (t.stream == 1), flg 1 (inMeter s t.stream t.col t.row), flg 2 late, flg 3 t.fix, flg 4 t.edge, fld 8 4 cause],
   lo32 tseq, reg [fld 0 16 (tseq / 2 ^ 32)], BitVec.ofNat 32 t.frame, reg [fld 0 16 t.col, fld 16 16 t.row],
   reg [fld 0 16 (validW d t.col), fld 16 16 (validH d t.row)], BitVec.ofNat 32 t.slot, lo32 t.tlast, hi32 t.tlast,
   BitVec.ofNat 32 t.ichk, BitVec.ofNat 32 (t.base.getD 0), BitVec.ofNat 32 (if late then 0 else t.net.getD 0),
   (s.hp.cfg.map HouseCfg.netId).getD 0] ++ pair t.hist ++ pair t.focus ++ [0, 0]

/-- The tile of the present output slot leaves: version, flags, counters, export. (DEDUCED: log entry 66). -/
def tileLeave (s : State) : State × Option Left :=
  match (if s.hp.running then s.hp.tiles.find? fun t => t.slot != 0 && t.slot == s.hp.slots else none) with
  | none => (s, none)
  | some t =>
    let d := hdesc s t.stream
    let tseq := s.hp.tseq
    let vw := validW d t.col
    let vh := validH d t.row
    let none' := t.net.isNone && t.base.isNone
    let late := t.net.isNone && t.base.isSome
    let cause := if none' then 5 else if late then lateCause t else 0
    let seed := if t.net.isSome then t.netSeed else if late then t.baseSeed else 0
    let chk := if t.net.isSome then t.net.getD 0 else if late then t.base.getD 0 else crc32c (versionBytes 0 vw vh)
    let s := if late then
        raise { s with hp := { s.hp with late := upd s.hp.late t.stream (satInc 0xFFFFFFFF) } } (ctxFault 0x350 0x08 uGallery 0x200 t.stream tseq)
      else if none' then raise (frameLost s t.stream t.frame) (ctxFault 0x350 0x09 uGallery 0x200 t.stream tseq) else s
    let s := if t.net.isNone then meterTile s t false else s
    let s := { s with hp := { s.hp with tseq := (tseq + 1) % 2 ^ 48,
                                        tiles := s.hp.tiles.filter fun x => !(tileIs x t.stream t.frame t.col t.row) } }
    let ring := s.hp.rings.getD t.stream ⟨0, 0, []⟩
    let s := if ring.frames = 0 then s
      else
        let idx := t.frame % ring.frames
        let off := (idx * hCols d * hRows d + t.row * hCols d + t.col) * ringTile
        let s := objStore s ring.obj off (versionBytes seed vw vh ++ wordBytes (metaWords s t tseq late cause))
        { s with hp := { s.hp with rings := upd s.hp.rings t.stream fun r => { r with held := tput r.held idx t.frame } } }
    (s, some ⟨t, tseq, late, seed, chk, vw, vh⟩)

/-! ### Start, stop, FSYNC (R36, R41, R494) -/

def freshStream : Stream := ⟨false, false, 0, 0, [], [], [], [], [0, 0, 0, 0], [], [], [], 0, false, []⟩

/-- The frame boundary schedules the FSYNC pulses of the enabled streams. -/
def scheduleFsync (s : State) : State :=
  let edges := (List.range 2).flatMap fun st =>
    let d := hdesc s st
    if streamOn s st then
      let t := s.now + hFsOfs d + (if st = 1 then 32 * hLineNs d else 0)
      [(st, true, t), (st, false, t + 1000 * hFsW d)]
    else []
  { s with hp := { s.hp with fsync := s.hp.fsync ++ edges } }

def setFsync (s : State) (st : Nat) (l : Level) : State :=
  { s with pw := { s.pw with pins := if st = 0 then { s.pw.pins with fsync0 := l } else { s.pw.pins with fsync1 := l } } }

/-- The next edge of an FSYNC output. -/
def fsyncEdge (s : State) (st : Nat) : State :=
  match s.hp.fsync.find? fun e => e.1 == st with
  | none => s
  | some e => setFsync { s with hp := { s.hp with fsync := s.hp.fsync.erase e } } st (if e.2.1 then .high else .low)

/-- Gallery bays that nothing holds. (DESIGN CHOICE: log entry 68). -/
def freeBays (s : State) : List Nat := (List.range 512).filter fun b => (tget s.gal.bays b).isNone

/-- The bays that the configuration needs are free: until they are, the pipeline does not start (R41: the pool is
reserved in full). (DESIGN CHOICE: log entry 68). -/
def houseFits (s : State) : Bool := decide ((s.hp.cfg.map HouseCfg.pool).getD 0 ≤ (freeBays s).length)

/-- The house pipeline starts at a frame boundary: its pool is reserved, its counters start at zero, SVC becomes 0. -/
def startHouse (s : State) : State :=
  let pool := (s.hp.cfg.map HouseCfg.pool).getD 0
  { s with
    hp := { s.hp with running := true, starting := false, stopping := false, streams := [freshStream, freshStream], tiles := [],
                      lastSlot := 0, slots := 0, tseq := 0, late := [0, 0], poseNext := 0, fsync := [], statDone := 0, sent := [],
                      tm := [], gains := [], defects := [[], []], lostAt := [none, none], marked := [] },
    num := { s.num with svc := 0, keep := false },
    tt := { s.tt with ttFrame := 0 },
    gal := { s.gal with pool := pool, bays := ((freeBays s).take pool).foldl (fun t b => tput t b ⟨0x200, []⟩) s.gal.bays },
    pw := { s.pw with phase := 6, houseMs := if s.pw.houseMs = 0 then min ((s.now - s.pw.startAt) / 1000000) 16383 else s.pw.houseMs } }

/-- The house pipeline stops at a frame boundary: its tiles end, its bays are free, FSYNC is low. -/
def stopHouse (s : State) : State :=
  let s := setFsync (setFsync s 0 .low) 1 .low
  { s with
    hp := { s.hp with running := false, stopping := false, stopped := true, tiles := [], streams := [freshStream, freshStream], fsync := [] },
    gal := { s.gal with bays := s.gal.bays.filter fun p => p.2.tag != 0x200, pool := 0 },
    pw := { s.pw with phase := if s.pw.phase = 6 then 7 else s.pw.phase } }

/-! ### The rows and meanings -/

def specHouseConfig : ReqSpec :=
  ⟨0x30, fromO, true, len 140, List.replicate 32 0 ++ [0xFFFFFF00], fun _ _ _ => [.house], .ready, bodyHouseConfig⟩
def specHouseStart : ReqSpec := ⟨0x31, fromO, false, len 8, [0xFFFFFFFE], fun _ _ _ => [.house], .ready, bodyHouseStart⟩
def specHouseStop : ReqSpec := ⟨0x32, fromO, true, len 0, [], fun _ _ _ => [.house], .frame, bodyHouseStop⟩
def specTestMode : ReqSpec := ⟨0x33, fromO, false, len 0, [], noLocks, .ready, bodyTestMode⟩
def specSetNumMode : ReqSpec := ⟨0x34, fromO, false, len 8, [0xFFFFFFFE], noLocks, .ready, bodySetNumMode⟩
def specSysGrant : ReqSpec := ⟨0x1A, fromO, true, len 12, [0, m12], noLocks, .ready, bodySysGrant⟩

def execHouseConfig (r : ReqIn) (s : State) : Out := .next (runRequest specHouseConfig r s)
def execHouseStart (r : ReqIn) (s : State) : Out := .next (runRequest specHouseStart r s)
def execHouseStop (r : ReqIn) (s : State) : Out := .next (runRequest specHouseStop r s)
def execTestMode (r : ReqIn) (s : State) : Out := .next (runRequest specTestMode r s)
def execSetNumMode (r : ReqIn) (s : State) : Out := .next (runRequest specSetNumMode r s)
def execSysGrant (r : ReqIn) (s : State) : Out := .next (runRequest specSysGrant r s)
def execCsiLongPacket (port vc dt hdr : Nat) (crcOk : Bool) (px : List Nat) (t : Nat) (s : State) : Out :=
  .next (csiLongPacket s port vc dt hdr crcOk px t)
def execCsiFrameStart (port vc fnum hdr : Nat) (s : State) : Out := .next (csiFrameStart s port vc fnum hdr)
def execCsiFrameEnd (port vc hdr t : Nat) (s : State) : Out := .next (csiFrameEnd s port vc hdr t)
def execCsiLineStart (port vc line hdr t : Nat) (s : State) : Out := .next (csiLineStart s port vc line hdr t)
def execSensLoss (st : Nat) (s : State) : Out := .next (sensLoss s st)
def execHouseBandHallDone (h fault m n : Nat) (run : BandRun) (s : State) : Out :=
  .next (bandHallDone s h fault m n run.corr run.tag run.reads run.writes)
def execHouseShaderStageDone (st frame col row : Nat) (stage : BandStage) (s : State) : Out :=
  .next (shaderStageDone s st frame col row stage.band stage.nan)
def execBaseVersionComplete (st frame col row : Nat) (ichkOk : Bool) (s : State) : Out := .next (baseComplete s st frame col row ichkOk)
def execTileSealed (st frame col row : Nat) (s : State) : Out := .next (tileSealed s st frame col row)
def execHsTransition (port : Nat) (clk data : Bool) (lanes rate : Nat) (s : State) : Out := .next (hsTransition s port clk data lanes rate)
def execSkewCalibration (port : Nat) (s : State) : Out := .next (skewCalibration s port)
def execFsyncPulseTimer (st : Nat) (s : State) : Out := .next (fsyncEdge s st)

end Sys2Proof.Machine
end

