-- ==== Sys2Proof/Machine/Approx.lean ====
section
/-! DEFINITION. The approximate functions (spec/04, R111): the exact result in binary fixed point of 320 places, and the
results within 2 units in the last place of it, of which one is free; block conversions and packed operations of shader
code (R107, R108, R114). -/

namespace Sys2Proof.Machine
open Sys2Proof

/-! ### Exact results in fixed point -/

def fixP : Nat := 320
/-- π and the natural logarithm of 2 at 320 binary places. -/
def fixPi : Int := 0x3243f6a8885a308d313198a2e03707344a4093822299f31d0082efa98ec4e6c89452821e638d01377
def fixLn2 : Int := 0xb17217f7d1cf79abc9e3b39803f2f6af40f343267298b62d8a0d175b8baafa2be7b876206debac98
def fixMul (a b : Int) : Int := a * b / 2 ^ fixP

/-- ± m × 2^e, the value of a word (−149 ≤ e). -/
def fixOf (neg : Bool) (m : Nat) (e : Int) : Int := fvInt neg m e (-(fixP : Int))

/-- The sum of a power series: each term is the one before it times `x` over the next divisor. -/
def fixSeries (x : Int) (div : Nat → Nat) : Nat → Nat → Int → Int
  | 0, _, _ => 0
  | n + 1, k, t => t + fixSeries x div n (k + 1) (fixMul t x / div k)

def fixSin (r : Int) : Int := fixSeries (-(fixMul r r)) (fun k => (2 * k + 2) * (2 * k + 3)) 80 0 r
def fixCos (r : Int) : Int := fixSeries (-(fixMul r r)) (fun k => (2 * k + 1) * (2 * k + 2)) 80 0 (2 ^ fixP)

/-- Sine (`k` 0) or cosine (1): the angle less the nearest multiple of π/2. -/
def fixTrig (x : Int) (k : Int) : Int :=
  let h := fixPi / 2
  let q := (2 * x + h) / (2 * h)
  let r := x - q * h
  match (q + k) % 4 with
  | 0 => fixSin r | 1 => fixCos r | 2 => -(fixSin r) | _ => -(fixCos r)

/-- The sum of z^(2k+1) / (2k+1). -/
def fixAtanh (z2 : Int) : Nat → Nat → Int → Int
  | 0, _, _ => 0
  | n + 1, k, t => t / (2 * k + 1) + fixAtanh z2 n (k + 1) (fixMul t z2)

/-- Natural logarithm of m × 2^e. -/
def fixLog (m : Nat) (e : Int) : Int :=
  let l := Nat.log2 m
  let f : Int := (m * 2 ^ fixP / 2 ^ l : Nat)
  let (f, k) := if 3 * 2 ^ fixP ≤ 2 * f then (f / 2, (l : Int) + e + 1) else (f, (l : Int) + e)
  let z := (f - 2 ^ fixP) * 2 ^ fixP / (f + 2 ^ fixP)
  k * fixLn2 + 2 * fixAtanh (fixMul z z) 80 0 z

/-- Exponential: a fixed-point number and its power of two; beyond the range of FP32 the power is held at ±400. -/
def fixExp (x : Int) : Int × Int :=
  let k := x / fixLn2
  (fixSeries (x - k * fixLn2) (fun k => k + 1) 100 0 (2 ^ fixP), clampI (-400) 400 k - fixP)

/-- The exact result of an approximate function at ± m × 2^e, m not zero, as Y × 2^E: exponential and logarithm are the
natural ones. (DESIGN CHOICE: log entry 40). -/
def exactF (op : ArithOp) (neg : Bool) (m : Nat) (e : Int) : Int × Int :=
  match op with
  | .recip => ((if neg then -1 else 1) * ((2 ^ (fixP - e).toNat / m : Nat) : Int), -fixP)
  | .rsqrt => ((isqrt (2 ^ (2 * fixP - e).toNat / m) 420 0 : Nat), -fixP)
  | .exp => fixExp (fixOf neg m e)
  | .log => (fixLog m e, -fixP)
  | .sin => (fixTrig (fixOf neg m e) 0, -fixP)
  | _ => (fixTrig (fixOf neg m e) 1, -fixP)

/-! ### Results within 2 ulp -/

/-- The word is within 2 units in the last place of Y × 2^E. -/
def within2 (w : Nat) (y e : Int) : Bool :=
  let u := max ((Nat.log2 y.natAbs : Int) + e - 23) (fmtQmin fp32)
  match (fDecode fp32 true w).1 with
  | .fin n m x =>
    let e0 := min (min x e) u
    decide ((fvInt n m x e0 - y * 2 ^ (e - e0).toNat).natAbs ≤ 2 * 2 ^ (u - e0).toNat)
  | _ => false

/-- The `d`-th word from a word, by magnitude. -/
def nextWord (w : Nat) (d : Int) : Nat := w / 2 ^ 31 * 2 ^ 31 + (clampI 0 0x7F800000 ((w % 2 ^ 31 : Nat) + d)).toNat

/-- A result as it is written: a subnormal one is flushed unless it is kept (R118). -/
def flushed (f : Fmt) (keep : Bool) (w : Nat) : Fr :=
  match fDecode f keep w with
  | (.fin n 0 _, true) => ⟨if n then 2 ^ (f.eb + f.mb) else 0, false, true⟩
  | _ => ⟨w, false, false⟩

/-- One of the results within 2 ulp of the exact one; which one is free, but a function of the operand (R111, R130). -/
def nearF (keep : Bool) (op : ArithOp) (a : Nat) (neg : Bool) (m : Nat) (e : Int) : Fr :=
  let x := exactF op neg m e
  let o := (fRound fp32 true (decide (x.1 < 0)) x.1.natAbs x.2).w
  let code := match op with
    | .recip => 0 | .rsqrt => 1 | .exp => 2 | .log => 3 | .sin => 4 | _ => 5
  let w := nextWord o ((Config.approx code (BitVec.ofNat 32 a)).toNat % 5 - 2)
  flushed fp32 keep (if within2 w x.1 x.2 then w else o)

/-- An approximate function: at zero, infinite and NaN operands the IEEE 754 result, a NaN where the function has no
real value, else a result within 2 ulp (R111). -/
def approxF (keep : Bool) (op : ArithOp) (a : Nat) : Fr :=
  let d := fDecode fp32 keep a
  let one := (fOfInt fp32 1).w
  let zero (n : Bool) : Nat := if n then 2 ^ 31 else 0
  let near (n : Bool) (m : Nat) (e : Int) : Fr := orFlush d.2 (nearF keep op a n m e)
  match d.1, op with
  | .nan, _ => fNan fp32 d.2
  | .inf n, .recip => ⟨zero n, false, d.2⟩
  | .inf n, .rsqrt => if n then fNan fp32 d.2 else ⟨0, false, d.2⟩
  | .inf n, .exp => if n then ⟨0, false, d.2⟩ else fInf fp32 false d.2
  | .inf n, .log => if n then fNan fp32 d.2 else fInf fp32 false d.2
  | .inf _, _ => fNan fp32 d.2
  | .fin n m e, .recip => if m = 0 then fInf fp32 n d.2 else near n m e
  | .fin n m e, .rsqrt => if m = 0 then fInf fp32 n d.2 else if n then fNan fp32 d.2 else near n m e
  | .fin n m e, .exp => if m = 0 then ⟨one, false, d.2⟩ else near n m e
  | .fin n m e, .log => if m = 0 then fInf fp32 true d.2 else if n then fNan fp32 d.2 else near n m e
  | .fin n m e, .sin => if m = 0 then ⟨zero n, false, d.2⟩ else near n m e
  | .fin n m e, _ => if m = 0 then ⟨one, false, d.2⟩ else near n m e

/-! ### Arithmetic of shader code (R111, R112, R114, R116) -/

def boolFr (b : Bool) : Fr := ⟨if b then 1 else 0, false, false⟩

/-- Two FP16 results in one register. -/
def packed (f : Nat → Nat → Nat → Fr) (a b c : Nat) : Fr :=
  let lo := f (a % 65536) (b % 65536) (c % 65536)
  let hi := f (a / 65536) (b / 65536) (c / 65536)
  ⟨lo.w + 65536 * hi.w, lo.nan || hi.nan, lo.flushed || hi.flushed⟩

/-- The integer that a register holds in an integer format by its code: S8, U8, S4, U4, else INT32 (R104). -/
def intOf (code a : Nat) : Int :=
  match code with
  | 0 => sext 8 a | 1 => (a % 256 : Nat) | 2 => sext 4 a | 3 => (a % 16 : Nat) | _ => sext 32 a

/-- (DESIGN CHOICE: log entry 40). -/
def arith (keep : Bool) (op : ArithOp) (a b c : Nat) : Fr :=
  let fl (g : Fmt) (x : Nat) : Bool := (fDecode g keep x).2
  match op with
  | .add => fAdd fp32 keep a b | .sub => fSub fp32 keep a b | .mul => fMul fp32 keep a b | .fma => fFma fp32 keep a b c
  | .div => fDiv fp32 keep a b | .sqrt => fSqrt fp32 keep a | .min => fMin fp32 keep a b | .max => fMax fp32 keep a b
  | .lt => { boolFr (fLt fp32 keep a b) with flushed := fl fp32 a || fl fp32 b }
  | .eq => { boolFr (fEq fp32 keep a b) with flushed := fl fp32 a || fl fp32 b }
  | .ne => { boolFr (!fEq fp32 keep a b) with flushed := fl fp32 a || fl fp32 b }
  | .le => { boolFr (fLe fp32 keep a b) with flushed := fl fp32 a || fl fp32 b }
  | .addH => packed (fun x y _ => fAdd fp16 keep x y) a b c | .subH => packed (fun x y _ => fSub fp16 keep x y) a b c
  | .mulH => packed (fun x y _ => fMul fp16 keep x y) a b c | .fmaH => packed (fFma fp16 keep) a b c
  | .divH => packed (fun x y _ => fDiv fp16 keep x y) a b c | .sqrtH => packed (fun x _ _ => fSqrt fp16 keep x) a b c
  | .minH => packed (fun x y _ => fMin fp16 keep x y) a b c | .maxH => packed (fun x y _ => fMax fp16 keep x y) a b c
  | .toInt code => let r := fToInt fp32 keep code a; ⟨intBits 32 r.1, r.2.1, r.2.2⟩
  | .halfToInt code => let r := fToInt fp16 keep code (a % 65536); ⟨intBits 32 r.1, r.2.1, r.2.2⟩
  | .ofInt => fOfInt fp32 (sext 32 a)
  | .intToHalf => fOfInt fp16 (sext 32 a)
  | .widen code dst =>
    if dst = 0 then fOfInt fp32 (intOf code a) else if dst = 1 then fOfInt fp16 (intOf code a)
    else ⟨intBits 32 (intOf code a), false, false⟩
  | .narrow src code => ⟨intBits 32 (clampI (intBounds code).1 (intBounds code).2 (intOf src a)), false, false⟩
  | .toHalf => fConv fp32 fp16 keep a
  | .ofHalf => fConv fp16 fp32 keep (a % 65536)
  | .dot sa sb => ⟨intBits 32 (dp4 sa sb a b (sext 32 c)), false, false⟩
  | op => approxF keep op a

/-! ### Block conversions of shader code (R107, R108, R114) -/

/-- Element `i` of `n`-bit elements packed in words from the low end. -/
def packedElem (n : Nat) (rd : Nat → Nat) (i : Nat) : Nat := rd (n * i / 32) / 2 ^ (n * i % 32) % 2 ^ n

/-- Elements of `n` bits packed in words from the low end. -/
def packElems (n : Nat) (es : List Nat) : List Nat :=
  (List.range ((n * es.length + 31) / 32)).map fun k =>
    (List.range (32 / n)).foldl (fun w j => w + es.getD (k * (32 / n) + j) 0 % 2 ^ n * 2 ^ (n * j)) 0

/-- A block of 16 or 32 elements that a thread holds in consecutive registers, FP32 or packed FP16, into its exponent
byte and its packed mantissas (R108). (DESIGN CHOICE: log entry 40). -/
def blockOf (keep b8 blk32 half : Bool) (rd : Nat → Nat) : List Nat × Bool × Bool :=
  let n := if blk32 then 32 else 16
  let vs := (List.range n).map fun i =>
    if half then fDecode fp16 keep (packedElem 16 rd i) else fDecode fp32 keep (rd i)
  let b := toBlock b8 (vs.map Prod.fst)
  let w := if b8 then 8 else 4
  (b.1 :: packElems w (b.2.map (intBits w)), vs.any fun v => v.1 == .nan, vs.any fun v => v.2)

/-- The elements of a block from its exponent byte and its packed mantissas. (DESIGN CHOICE: log entry 40). -/
def ofBlock (keep b8 blk32 half : Bool) (e : Nat) (rd : Nat → Nat) : List Nat × Bool × Bool :=
  let n := if blk32 then 32 else 16
  let w := if b8 then 8 else 4
  let rs := (List.range n).map fun i => fromBlock (if half then fp16 else fp32) keep (e % 256) (sext w (packedElem w rd i))
  (if half then packElems 16 (rs.map Fr.w) else rs.map Fr.w, rs.any Fr.nan, rs.any Fr.flushed)

/-- The words that an operation writes from its destination register on, whether it produced a NaN (R124), whether a
subnormal was flushed. -/
def arithWords (keep : Bool) (op : ArithOp) (rd : Nat → Nat) (a b c : Nat) : List Nat × Bool × Bool :=
  match op with
  | .toBlock b8 blk32 half => blockOf keep b8 blk32 half fun i => rd (a + i)
  | .ofBlock b8 blk32 half => ofBlock keep b8 blk32 half (rd a) fun i => rd (b + i)
  | op => let r := arith keep op (rd a) (rd b) (rd c); ([r.w], r.nan, r.flushed)

end Sys2Proof.Machine
end

