-- ==== Sys2Proof/Machine/Domains.lean ====
section
/-! DEFINITION. Voted power domains: votes, power-up, power-down, what a power-down loses (spec/16, R484, R485,
R499; spec/01, R18). -/

namespace Sys2Proof.Machine
open Sys2Proof

/-- The nine vote sources, in the order of PWR_DOMd (R484, R499). -/
structure Votes where
  house : Bool
  timetable : Bool
  dispatch : Bool
  hold : Bool
  feed : Bool
  operator : Bool
  axis : Bool
  heater : Bool
  firmware : Bool
deriving DecidableEq, Repr, Inhabited

def domOf (s : State) (d : Nat) : Domain := s.pw.doms.getD d ⟨0, 0, false, [], false, []⟩
def modDom (s : State) (d : Nat) (f : Domain → Domain) : State := { s with pw := { s.pw with doms := upd s.pw.doms d f } }

/-- Domains of a timetable unit. -/
def unitDomain (u : Nat) : Nat :=
  if u < 4 then u else if 16 ≤ u ∧ u < 48 then 4 + (u - 16) / 8 else if u = 64 then 8 else 9

/-- Domains that a command's engine lies in: a launch may run on every shader group. (DEDUCED: log entry 48). -/
def engineDomains (unit : Nat) : List Nat :=
  if unit < 4 then [unit] else if unit = 16 then [4, 5, 6, 7] else if unit = uGallery then [8]
  else if unit = uCompression then [9] else if unit = uOutbound then [10] else []

/-- The Concourse has a command out at the domain's engine. -/
def hasOut (s : State) (d : Nat) : Bool :=
  s.cc.queues.any fun q => q.2.out.any fun o => (engineDomains o.unit).contains d

/-- The domain holds state that software expects to persist. -/
def domHolds (s : State) (d : Nat) : Bool :=
  if d < 4 then
    let h := s.mh.halls.getD d default
    h.regions != [] || (h.comp.any fun q => q.2.run.isSome) || (h.load.any fun q => q.2.run.isSome)
  else if d < 8 then (List.range 8).any fun k => let c := s.sh.cores.getD (8 * (d - 4) + k) default; c.blocks != [] || c.xfer != 0
  else if d = 8 then s.gal.bays != []
  else if d = 9 then s.cm.slots != [] || s.cm.jobs != []
  else if d = 10 then s.ob.mode != 0 else false

/-- A transaction stands at a crossing into the domain: an issue of a shader core at the Hall link, a row pose at the
Gallery, a mid-exposure time at the Motion Controller; with none the crossing's vote is withdrawn (R18).
(DEDUCED: log entry 48). -/
def crossingVote (s : State) (d : Nat) : Bool :=
  ((domOf s d).held.any fun l => (tget s.sh.launches l).isSome) || (d == 8 && s.mc.posesSent != []) || (d == 11 && s.hp.tm != [])

/-- A command of an active queue waits for the domain (R484). -/
def dispatchWaits (s : State) (d : Nat) : Bool :=
  (domOf s d).dispatch.any fun q => ((tget s.cc.queues q).map fun x => x.st == .active).getD false

/-- (DEDUCED: log entry 48). -/
def votesOf (s : State) (d : Nat) : Votes :=
  let x := domOf s d
  { house := s.hp.running && [0, 1, 2, 3, 4, 8].contains d
    timetable := s.pw.st == .run && (((s.tt.active.map TtImage.entries).getD []).any fun e => !e.idle && unitDomain e.unit == d)
    dispatch := dispatchWaits s d || hasOut s d
    hold := domHolds s d
    feed := (d == 8 && s.rs.feeds.any fun f => f.2.bound) || (d == 9 && s.cm.feeds != [])
    operator := x.operator
    axis := d == 11 && s.mc.axes.any fun a => a.st != 0
    heater := d == 11 && s.mc.heaters.any fun h => h.en
    firmware := x.firmware || crossingVote s d || (d == 11 && s.pw.started && decide (2 ≤ s.pw.phase)
      && (s.pw.st == .run || s.pw.st == .idle || s.pw.st == .sleep)) }

def domVoted (s : State) (d : Nat) : Bool :=
  let v := votesOf s d
  v.house || v.timetable || v.dispatch || v.hold || v.feed || v.operator || v.axis || v.heater || v.firmware

/-- The voted domains run: the part is in Run or Idle and Dynov runs. -/
def domsLive (s : State) : Bool := (s.pw.st == .run || s.pw.st == .idle) && s.pw.started && decide (2 ≤ s.pw.phase)

/-- The first vote of a domain that is off starts its power-up. -/
def refreshDoms (s : State) : State :=
  if ¬ domsLive s then s
  else (List.range 12).foldl (fun s d =>
    if (domOf s d).pwr = 0 ∧ domVoted s d then modDom s d fun x => { x with pwr := 1 } else s) s

/-- The contents that a power-down loses (R485). -/
def loseDomain (s : State) (d : Nat) : State :=
  if d < 4 then
    { s with mh := { s.mh with halls := upd s.mh.halls d fun h =>
        { h with wst := [], ast := [], wOwner := [], aOwner := [], badRows := [], fresh := [] } } }
  else if d < 8 then
    { s with sh := { s.sh with cores := (List.range 8).foldl (fun l k =>
        upd l (8 * (d - 4) + k) fun c => { resetCore with saved := c.saved }) s.sh.cores } }
  else if d = 8 then
    { s with gal := ⟨[], 0⟩,
             rs := { s.rs with ctx := s.rs.ctx.map fun p => (p.1, { p.2 with history := [] }), slot := none, back := [], fbc := [] } }
  else if d = 9 then { s with cm := { s.cm with jobs := [], slot := List.replicate 8 none } }
  else if d = 10 then { s with ob := { s.ob with link := false, rate := 0, width := 0 } }
  else { s with mc := { s.mc with axes := resetMotion.axes, heaters := resetMotion.heaters } }

/-- 100 µs without a vote: the domain starts to power down. -/
def domIdle (s : State) (d : Nat) : State :=
  if (domOf s d).pwr = 2 ∧ ¬ domVoted s d ∧ domsLive s then loseDomain (modDom s d fun x => { x with pwr := 4 }) d else s

/-- The power-down ends; a vote that waits powers the domain up. -/
def domDown (s : State) (d : Nat) : State :=
  if (domOf s d).pwr = 4 then modDom s d fun x => { x with pwr := if domVoted s d then 1 else 0 } else s

/-- Power-good: held transactions proceed. -/
def domGood (s : State) (d : Nat) : State :=
  if (domOf s d).pwr = 1 then modDom s d fun x => { x with pwr := 2, ups := satInc 0xFFFF x.ups } else s

/-- The Concourse votes for a domain before it dispatches to it; whether the domain is at power-good.
(DEDUCED: log entry 27, DEDUCED: log entry 48). -/
def dispatchVote (s : State) (q unit : Nat) : State × Bool :=
  let ds := engineDomains unit
  let on := ds.all fun d => (domOf s d).pwr == 2
  if on then (ds.foldl (fun s d => modDom s d fun x => { x with dispatch := x.dispatch.filter fun k => k != q }) s, true)
  else (refreshDoms (ds.foldl (fun s d => modDom s d fun x => { x with dispatch := sins x.dispatch q }) s), false)

/-- An issue of a launch is presented to the crossing into a domain: it is held while the domain is off, and votes for it
(R18). The flag says whether it proceeds. (DEDUCED: log entry 48). -/
def linkVote (s : State) (d launch : Nat) : State × Bool :=
  if (domOf s d).pwr = 2 then (modDom s d fun x => { x with held := x.held.filter fun k => k != launch }, true)
  else (refreshDoms (modDom s d fun x => { x with held := sins x.held launch }), false)

def execDomainIdleTimeout (d : Nat) (s : State) : Out := .next (domIdle s d)
def execDomainPowerDownDone (d : Nat) (s : State) : Out := .next (domDown s d)
def execDomainPowerGood (d : Nat) (s : State) : Out := .next (domGood s d)

end Sys2Proof.Machine
end

