-- ==== Sys2Proof/Machine/Shader.lean ====
section
/-! DEFINITION. The shader cores (spec/05, spec/06 R174, R180 to R187, spec/03 R84 to R89): program objects and
launches, blocks, groups and subsets, collective regions, barriers, fences, loads, stores and atomics, matrix
instructions, arithmetic, slot preemption. -/

namespace Sys2Proof.Machine
open Sys2Proof

/-! ### Bit masks of lanes -/

def lanesOf (m : Nat) : List Nat := (List.range 32).filter fun l => m / 2 ^ l % 2 == 1
def disjointMasks (a b : Nat) : Bool := a &&& b == 0
def subMask (a b : Nat) : Bool := a &&& b == a
def lowLane (m : Nat) : Nat := (lanesOf m).headD 0

/-! ### Program objects and launches (R133 to R140) -/

def progRsv : List Word :=
  [0xFC000000, 0, 0, 0, 0, 0xFFFFE000, 0, 0xFFFFF800, 0, 0, 0, 0, 0, 0] ++ List.replicate 17 0xFFFFFFFF
def launchRsv : List Word := [0, 0, 0, 0xF8000000, 0xFC000000, 0, 0, 0] ++ List.replicate 7 0xFFFFFFFF

def allocRegs (regs : Nat) : Nat := cdiv regs 8 * 8

/-- Blocks of one launch resident on a core (R140). -/
def residency (regs t lsBlock split : Nat) : Nat :=
  let byRegs := min 128 (4096 / max 1 (allocRegs regs))
  min 32 (min (byRegs / max 1 (t / 32)) (if lsBlock = 0 then 32 else split * 32768 / lsBlock))

/-- Cores on which the context holds slots of the active timetable image (R136). -/
def coreGrant (s : State) (ctx : Nat) : Nat :=
  match s.tt.active with
  | none => 0
  | some im => (im.entries.filter fun e => e.ctx == ctx && !e.idle && decide (24 ≤ e.unit ∧ e.unit < 48)).foldl (fun m e => m ||| 2 ^ (e.unit - 16)) 0

/-- The checks of a program object's header (R134). R134 names the codes of its own four cases only: an OBJ_SIZE above
16 MiB, a CONST_SIZE above 65,536 and a BLOCK_MAX or LS_BLOCK outside the range of R133 answer RANGE too, a misaligned
size or offset ALIGN (R157), and the fields come before the alignment and the extents last.
(DESIGN CHOICE: log entry 40). -/
def progCheck (w : List Word) : Option Nat :=
  match structOk w 128 progRsv with
  | some c => some c
  | none =>
    let size := (wd w 2).toNat
    let co := (wd w 3).toNat
    let cs := (wd w 4).toNat
    let en := (wd w 5).toNat
    let regs := bits (wd w 6) 7 0
    let bmax := bits (wd w 8) 10 0
    if bits (wd w 1) 15 0 ≠ 1 ∨ bits (wd w 1) 23 16 ≠ 1 ∨ regs < 8 ∨ 16 < bits (wd w 6) 12 8
        ∨ 327680 < (wd w 7).toNat ∨ bmax = 0 ∨ 1024 < bmax ∨ bmax % 32 ≠ 0 ∨ 16777216 < size ∨ 65536 < (wd w 10).toNat then some cRANGE
    else if size % 256 ≠ 0 ∨ co % 256 ≠ 0 ∨ cs % 8 ≠ 0 ∨ en % 8 ≠ 0 ∨ (wd w 7).toNat % 256 ≠ 0 ∨ (wd w 9).toNat % 256 ≠ 0
        ∨ (wd w 11).toNat % 8 ≠ 0 then some 0x06
    else if size < co + cs ∨ size < (wd w 9).toNat + (wd w 10).toNat ∨ size < (wd w 11).toNat + 8 * (wd w 12).toNat ∨ cs ≤ en then some cRANGE
    else none

/-- Dimensions of a launch, after the indirection words (R135, R307). -/
structure Dims where
  grid : Nat × Nat × Nat
  block : Nat × Nat × Nat

def threads (d : Nat × Nat × Nat) : Nat := d.1 * d.2.1 * d.2.2

def launchDims (w : List Word) (ind : List (Option Nat)) : Dims :=
  let g (i d : Nat) : Nat := (ind.getD i none).getD d
  ⟨(g 0 (bits (wd w 3) 15 0), g 1 (bits (wd w 3) 31 16), g 2 (bits (wd w 4) 15 0)),
   (bits (wd w 4) 26 16, bits (wd w 5) 10 0, bits (wd w 5) 21 11)⟩

def dimBad (lim v : Nat) : Bool := v == 0 || decide (lim < v)

/-- The checks of a launch descriptor (R136), after those of its version and of its program object's header. R136 gives
neither the code of a GRID, BLOCK or ARG_SIZE value outside the range of R135, which answers RANGE here, nor the order of
the checks: the header comes first, then ALIGN, then RANGE, then NOT_GRANTED. (DESIGN CHOICE: log entry 40). -/
def launchCheck (s : State) (ctx : Nat) (w p : List Word) (d : Dims) : Option Nat :=
  let t := threads d.block
  let split := bits (wd w 5) 25 22
  let prog := (wd w 1).toNat
  let args := bits (wd w 8) 31 16
  match progCheck p with
  | some c => some c
  | none =>
    if prog % 256 ≠ 0 ∨ (wd w 7).toNat % 4 ≠ 0 then some 0x06
    else if dimBad 65535 d.grid.1 ∨ dimBad 65535 d.grid.2.1 ∨ dimBad 65535 d.grid.2.2
        ∨ dimBad 1024 d.block.1 ∨ dimBad 1024 d.block.2.1 ∨ dimBad 1024 d.block.2.2 ∨ 4096 < args ∨ args % 4 ≠ 0 then some cRANGE
    else if t % 32 ≠ 0 ∨ bits (wd p 8) 10 0 < t ∨ 10 < split ∨ split * 32768 < (wd p 7).toNat
        ∨ residency (bits (wd p 6) 7 0) t (wd p 7).toNat split = 0 then some cRANGE
    else if wd w 6 = 0 ∨ ¬ subMask (wd w 6).toNat (coreGrant s ctx) then some cNOTGRANTED
    else none

def launchOf (s : State) (l : Nat) : Option Launch := tget s.sh.launches l
def setLaunch (s : State) (l : Nat) (x : Launch) : State := { s with sh := { s.sh with launches := tput s.sh.launches l x } }

/-- The launch that a descriptor and its program object's header describe. -/
def launchFor (ref : CmdRef) (w p : List Word) (d : Dims) : Launch :=
  ⟨ref, (wd w 1).toNat + bits (wd w 2) 15 0 * 2 ^ 32, (wd p 3).toNat, (wd p 4).toNat, (wd p 13).toNat, (wd p 5).toNat,
   bits (wd p 6) 7 0, bits (wd p 6) 12 8, (wd p 7).toNat, bits (wd w 5) 25 22, (wd w 6).toNat, bits (wd w 2) 31 16, d.grid,
   d.block, (wd w 7).toNat + bits (wd w 8) 15 0 * 2 ^ 32, bits (wd w 8) 31 16, 0, 0, false, []⟩

/-- A launch command at the Concourse: the descriptor is read, its version and reserved bits are judged before any field
of it is used (R8), then the program object's header is fetched and all is checked; a refusal completes the command with
its code (R134, R136, R157, R167). -/
def startLaunch (s : State) (ref : CmdRef) (va : Nat) (ind : List (Option Nat)) : State :=
  let refuse (s : State) (c : Nat) : State := finishCmd s ref (BitVec.ofNat 32 c) 0
  match readStruct s ref.ctx va 64 1 with
  | .error (a, c) => refuse (raiseMem s (memFault 0x320 uConcourse ref 0 c a)) (memCode c)
  | .ok w =>
    let s := sawStruct s ref.ctx va w
    match structOk w 64 launchRsv with
    | some c => refuse s c
    | none =>
      let prog := (wd w 1).toNat + bits (wd w 2) 15 0 * 2 ^ 32
      match readStruct s ref.ctx prog 128 4 with
      | .error (a, c) => refuse (raiseMem s (memFault 0x320 uConcourse ref 3 c a)) (memCode c)
      | .ok p =>
        let s := sawRange s ref.ctx prog (4 * p.length) 4
        let d := launchDims w ind
        match launchCheck s ref.ctx w p d with
        | some c => refuse s c
        | none =>
          { s with sh := { s.sh with launches := tput s.sh.launches s.sh.nextLaunch (launchFor ref w p d), nextLaunch := s.sh.nextLaunch + 1 } }

/-! ### Cores, blocks, groups -/

def coreLive (s : State) (c : Nat) : Bool := (coreOf s c).kind != 0 && (coreOf s c).xfer == 0

def blockAt (s : State) (p : ThreadsAt) : Option Block := (coreOf s p.core).blocks[p.blk]?
def groupAt (s : State) (p : ThreadsAt) : Option Group := (blockAt s p).bind fun b => b.groups[p.grp]?
def subAt (s : State) (p : ThreadsAt) : Option Subset := (groupAt s p).bind fun g => g.subsets[p.sub]?

def modBlock (s : State) (p : ThreadsAt) (f : Block → Block) : State := modCore s p.core fun c => { c with blocks := upd c.blocks p.blk f }
def modGroup (s : State) (p : ThreadsAt) (f : Group → Group) : State := modBlock s p fun b => { b with groups := upd b.groups p.grp f }
def modSub (s : State) (p : ThreadsAt) (f : Subset → Subset) : State := modGroup s p fun g => { g with subsets := upd g.subsets p.sub f }

/-- Register r of lane l; a register the thread does not have reads as a free value. -/
def regGet (s : State) (p : ThreadsAt) (l r : Nat) : Word :=
  match (blockAt s p).bind fun b => b.regs[p.grp * 32 + l]? with
  | some rs => rs.getD r (Config.freeWord (s.free * 65536 + r))
  | none => 0

def regSet (s : State) (p : ThreadsAt) (l r : Nat) (v : Word) : State :=
  modBlock s p fun b => { b with regs := upd b.regs (p.grp * 32 + l) fun rs => rs.set r v }

/-- Write words to the registers of a lane from `r` on. -/
def putRegs (s : State) (p : ThreadsAt) (l : Nat) : Nat → List Nat → State
  | _, [] => s
  | r, w :: ws => putRegs (regSet s p l r (BitVec.ofNat 32 w)) p l (r + 1) ws

/-- Write a register of every lane of a mask. -/
def regSets (s : State) (p : ThreadsAt) (m r : Nat) (f : Nat → Word) : State :=
  (lanesOf m).foldl (fun s l => regSet s p l r (f l)) s

/-- SUBN_KEEP and the trap enable as a launch of a context samples them now (R120, R125, R128). -/
def sampled (s : State) (ctx : Nat) : Bool × Bool :=
  (s.num.keep && s.num.svc != 0, ctx == 0x200 || ((ctxOf s ctx).map Ctx.nanTrap).getD false)

/-- What a launch sampled when it started or resumed on a core. -/
def modeOf (s : State) (core launch : Nat) : Bool × Bool := tgetD (coreOf s core).modes launch (false, false)

/-- Lanes of the group's threads that have not ended. -/
def liveLanes (g : Group) : Nat := g.subsets.foldl (fun m x => m ||| x.lanes) 0

/-- The lanes are members of the open region, whether they have executed CR.CLOSE or not (R147, R149). -/
def isMember (g : Group) (lanes : Nat) : Bool :=
  match g.region with
  | some (m, _) => subMask lanes m
  | none => false

/-- The lanes stand inside the open region: members that have not executed CR.CLOSE (R146, R149). -/
def inRegion (g : Group) (lanes : Nat) : Bool :=
  match g.region with
  | some (m, c) => subMask lanes m && disjointMasks lanes c
  | none => false

def launchAt (s : State) (p : ThreadsAt) : Option (Nat × Launch) :=
  (blockAt s p).bind fun b => (launchOf s b.launch).map fun l => (b.launch, l)

/-! ### The end of a launch (R138, R156 to R158) -/

/-- Descriptors of a launch still queued or running. -/
def launchDescs (s : State) (ctx l : Nat) : Bool :=
  s.mh.halls.any fun x => (hq x false ctx).entries.any fun e => e.single != [] && e.launch == l

def launchWord (code mx : Nat) : Word := reg [fld 0 8 code, fld 8 8 mx]

/-- MX_CODE: the first code other than OK among the unwaited descriptors (R156). -/
def mxCodeOf (l : Launch) : Nat := (l.mxCode.head?.map fun p => p.2.2).getD 0

/-- Forget a launch: its resident blocks end, its saved blocks are discarded with their save or restore in progress
(R162), and its token slots are free: R86 frees a slot when its completion is returned and does not say what becomes of a
slot that nothing waited for; it is freed with its launch, and where a slot begins with no saved state.
(DESIGN CHOICE: log entry 41). -/
def dropLaunch (s : State) (l : Nat) : State :=
  { s with sh := { s.sh with launches := tdel s.sh.launches l, cores := s.sh.cores.map (forget l) } }
where
  free (l : Nat) (ts : List Token) : List Token := ts.map fun t => if t.launch = l ∧ t.held then { t with held := false, word := none } else t
  /-- A saved state without the launch; none where nothing of it is left. -/
  keeps (l : Nat) (p : Nat × SavedCore) : Option (Nat × SavedCore) :=
    let v := { p.2 with blocks := p.2.blocks.filter fun b => b.launch != l, tokens := free l p.2.tokens }
    if v.blocks = [] ∧ ¬ v.tokens.any Token.held then none else some (p.1, v)
  forget (l : Nat) (c : Core) : Core :=
    let c := { c with blocks := c.blocks.filter fun b => b.launch != l, tokens := free l c.tokens, modes := tdel c.modes l,
                      saved := c.saved.filterMap (keeps l) }
    if c.xfer ≠ 0 ∧ (tget c.saved c.ctx).isNone then { c with xfer := 0, ctx := 0 } else c

/-- Stop a launch with a code: its descriptors are discarded, no state is saved (R126, R151, R158). -/
def stopLaunch (s : State) (l code : Nat) : State :=
  match launchOf s l with
  | none => s
  | some x =>
    let s := abortLaunchDescs s x.ref.ctx l
    let mx := ((launchOf s l).map mxCodeOf).getD 0
    finishCmd (dropLaunch s l) x.ref (launchWord code mx) 0

/-- Launches whose blocks have all ended and whose descriptors have all completed, complete with OK. -/
def settleLaunches (s : State) : State :=
  s.sh.launches.foldl (fun s p =>
    match launchOf s p.1 with
    | none => s
    | some x =>
      if threads x.grid ≤ x.ended ∧ ¬ launchDescs s x.ref.ctx p.1 then finishCmd (dropLaunch s p.1) x.ref (launchWord 0 (mxCodeOf x)) 0
      else s) s

/-- A thread fault stops its launch and raises its fault kind. -/
def launchFault (s : State) (p : ThreadsAt) (code kind arg addr : Nat) (extra : List Nat) : State :=
  match launchAt s p with
  | none => s
  | some (l, x) => raise (stopLaunch s l code) { cmdFault 0x370 kind (16 + p.core) x.ref arg addr with extra := extra }

/-- Block coordinates of a linear index. -/
def coords (d : Nat × Nat × Nat) (i : Nat) : Nat × Nat × Nat := (i % d.1, i / d.1 % d.2.1, i / (d.1 * d.2.1))

/-- A collective fault with what its record holds (R150 to R152). -/
def collFault (s : State) (p : ThreadsAt) (code waitPc pc lane arrived : Nat) : State :=
  match launchAt s p, blockAt s p with
  | some (_, x), some b =>
    let c := coords x.grid b.index
    launchFault s p code 0x19 code 0 [code, 16 + p.core, x.tag, waitPc, pc, lane, p.grp, arrived, c.1, c.2.1, c.2.2]
  | _, _ => s

def threadFault (s : State) (p : ThreadsAt) (code : Nat) : State := launchFault s p code 0x1A code 0 []

/-- An access without a valid mapping or permission, with KIND and CAUSE of R171, or one that an uncorrectable error
ended, whose launch stops with ECC (R190). (DESIGN CHOICE: log entry 42). -/
def accessFault (s : State) (p : ThreadsAt) (kind cause va : Nat) : State :=
  match launchAt s p with
  | none => s
  | some (lid, x) =>
    let s := raiseMem s (memFault 0x370 (16 + p.core) x.ref kind cause va)
    if cause = 8 then stopLaunch s lid 0x0A else threadFault s p cMEMFAULT

/-! ### Issue, join points, collective points (R142 to R150) -/

/-- Another subset's turn comes before that of one that has yielded: it is live and waits at no barrier, collective point
or join point (R144). -/
def takesTurn (y : Subset) : Bool :=
  match y.wait with
  | .run => true | .token _ _ => true | .load => true
  | .join => false | .coll => false | .bar _ => false

/-- Lanes of the other subsets of a group that `f` selects. -/
def otherLanes (g : Group) (x : Subset) (f : Subset → Bool) : Nat :=
  g.subsets.foldl (fun m y => if f y ∧ ¬ (y.lanes = x.lanes) then m ||| y.lanes else m) 0

/-- The core may issue the subset's next instruction: the core runs the launch and every subset it yielded to
has issued, or waits at a barrier, a collective point or a join point. -/
def canIssue (s : State) (p : ThreadsAt) : Bool :=
  match groupAt s p, subAt s p with
  | some g, some x => coreLive s p.core && disjointMasks x.owed (otherLanes g x takesTurn)
  | _, _ => false

/-- The subset issues: it has issued last, its count restarts after another subset's turn, and what the others
owe it is paid (R144). -/
def noteIssue (s : State) (p : ThreadsAt) : State :=
  match groupAt s p, subAt s p with
  | some g, some x =>
    modGroup s p fun _ =>
      { g with last := x.lanes,
               subsets := (g.subsets.map fun y => { y with owed := y.owed &&& (2 ^ 32 - 1 - x.lanes) }).set p.sub
                 { x with back := if disjointMasks g.last x.lanes then 0 else x.back, owed := 0 } }
  | _, _ => s

/-- Another live subset lets a subset that waits at a join point go on. -/
def letsGo (x y : Subset) : Bool :=
  match y.wait with
  | .run => y.owed != 0
  | .join => y.pc != x.pc
  | .coll => true
  | .bar _ => true
  | .token _ _ => false
  | .load => false

/-- Merge the subsets that stand at the same join point; one that was let go and has not issued waits again with
the one that joins it. (DESIGN CHOICE: log entry 41). -/
def mergeJoins : List Subset → List Subset
  | [] => []
  | x :: r =>
    let r := mergeJoins r
    match (r.find? fun y => y.pc == x.pc && ((x.wait == .join && (y.wait == .join || y.wait == .run)) || (x.wait == .run && y.wait == .join))) with
    | some y => { y with wait := .join, lanes := x.lanes ||| y.lanes, owed := x.owed ||| y.owed, back := max x.back y.back }
                  :: r.filter fun z => !(z.lanes == y.lanes)
    | none => x :: r

/-- Release what the group's present state releases: join points, and a CR.OPEN that every live thread of the
group has reached, which opens the region. (DESIGN CHOICE: log entry 41). -/
def settleGroup (s : State) (p : ThreadsAt) : State :=
  match groupAt s p with
  | none => s
  | some g =>
    let subs := mergeJoins g.subsets
    let subs := subs.map fun x =>
      if x.wait = .join ∧ (subs.all fun y => y.lanes == x.lanes || letsGo x y) then { x with wait := .run } else x
    let pc := (subs.headD default).pc
    if g.region = none ∧ subs ≠ [] ∧ (subs.all fun x => x.wait == .coll && x.pc == pc) then
      let m := subs.foldl (fun m x => m ||| x.lanes) 0
      modGroup s p fun g => { g with region := some (m, 0), subsets := subs.map fun x => { x with wait := .run, pc := x.pc + 8 } }
    else modGroup s p fun g => { g with subsets := subs }

/-- Go on to the next instruction. -/
def advance (s : State) (p : ThreadsAt) : State := modSub s p fun x => { x with pc := x.pc + 8, wait := .run }

/-- A member waits at a collective point of the open region while another is elsewhere: the pc at which members wait, and their
lanes. -/
def waitingColl (g : Group) (butLanes : Nat) : Option (Nat × Nat) :=
  match g.subsets.find? fun x => x.wait == .coll && inRegion g x.lanes && !(x.lanes == butLanes) with
  | some x => some (x.pc, g.subsets.foldl (fun m y => if y.wait = .coll ∧ y.pc = x.pc ∧ inRegion g y.lanes ∧ ¬ (y.lanes = butLanes) then m ||| y.lanes else m) 0)
  | none => none

/-- A collective instruction in the open region: divergence from members that wait elsewhere, misuse outside a region,
waiting until every member has arrived; then `run` on the member mask (R146, R148, R150). While `run` stalls, with an
error state, the members stay at the instruction. (DESIGN CHOICE: log entry 41). -/
def collective (s : State) (p : ThreadsAt) (run : State → Nat → Except State State) : State :=
  match groupAt s p, subAt s p with
  | some g, some x =>
    if ¬ canIssue s p ∨ ¬ (x.wait = .run ∨ x.wait = .coll) then s
    else
      match (if x.wait = .coll ∨ ¬ isMember g x.lanes then none else waitingColl g x.lanes) with
      | some (wpc, arrived) =>
        if wpc ≠ x.pc ∨ ¬ inRegion g x.lanes then collFault s p 0x11 wpc x.pc (lowLane x.lanes) arrived else arrive s p g x run
      | none => if inRegion g x.lanes then arrive s p g x run else collFault s p 0x12 0xFFFFFFFF x.pc (lowLane x.lanes) 0
  | _, _ => s
where
  arrive (s : State) (p : ThreadsAt) (g : Group) (x : Subset) (run : State → Nat → Except State State) : State :=
    let s := modSub (noteIssue s p) p fun y => { y with wait := .coll }
    let m := ((g.region.map Prod.fst).getD 0)
    let here := ((groupAt s p).map fun g => g.subsets.foldl (fun a y => if y.wait = .coll ∧ y.pc = x.pc then a ||| y.lanes else a) 0).getD 0
    if here = m then
      match run s m with
      | .error s => s
      | .ok s => modGroup s p fun g => { g with subsets := g.subsets.map fun y => if y.wait = .coll ∧ y.pc = x.pc then { y with wait := .run, pc := y.pc + 8 } else y }
    else settleGroup s p

/-- An instruction that is no collective point: its effect, then the next instruction. -/
def simple (s : State) (p : ThreadsAt) (run : State → Subset → Except State State) : State :=
  match subAt s p with
  | some x =>
    if ¬ canIssue s p ∨ x.wait ≠ .run then s
    else
      let s := noteIssue s p
      match run s x with
      | .error t => t
      | .ok t => settleGroup (advance t p) p
  | none => s

/-! ### Synchronisation words (R155) and the regions -/

/-- (DESIGN CHOICE: log entry 40). -/
def syncFunc (w : DWord) : Nat := bits w 55 52

/-- The word is a well-formed synchronisation instruction of the function. -/
def syncOk (w : DWord) (func : Nat) : Bool :=
  bits w 63 56 == 0xE5 && syncFunc w == func && bits w 37 0 == 0
    && (func == 2 || func == 3 || (bits w 51 48 == 0 && bits w 47 42 == 0))
    && (if func = 4 then bits w 39 38 != 3 else bits w 41 40 == 0 && bits w 39 38 == 0)

def crOpen (s : State) (p : ThreadsAt) (w : DWord) : State :=
  match groupAt s p, subAt s p with
  | some g, some x =>
    if ¬ canIssue s p ∨ x.wait ≠ .run then s
    else if ¬ syncOk w 0 then threadFault s p 0x10
    else match (if isMember g x.lanes then waitingColl g x.lanes else none) with
      | some (wpc, arrived) => collFault s p 0x11 wpc x.pc (lowLane x.lanes) arrived
      | none =>
        if inRegion g x.lanes then collFault s p 0x12 0xFFFFFFFF x.pc (lowLane x.lanes) 0
        else settleGroup (modSub (noteIssue s p) p fun y => { y with wait := .coll }) p
  | _, _ => s

/-- (DEDUCED: log entry 87). -/
def crClose (s : State) (p : ThreadsAt) (w : DWord) : State :=
  match groupAt s p, subAt s p with
  | some g, some x =>
    if ¬ canIssue s p ∨ x.wait ≠ .run then s
    else if ¬ syncOk w 1 then threadFault s p 0x10
    else match (if isMember g x.lanes then waitingColl g x.lanes else none) with
      | some (wpc, arrived) => collFault s p 0x11 wpc x.pc (lowLane x.lanes) arrived
      | none =>
        if ¬ inRegion g x.lanes then collFault s p 0x12 0xFFFFFFFF x.pc (lowLane x.lanes) 0
        else
        let s := advance (noteIssue s p) p
        settleGroup (modGroup s p fun g => { g with region := match g.region with
          | some (m, c) => if c ||| x.lanes = m then none else some (m, c ||| x.lanes)
          | none => none }) p
  | _, _ => s

/-- A collective point whose members have not all arrived within its limit faults the group (R151); those that stall with
all of them there do not. (DEDUCED: log entry 87). -/
def collTimeout (s : State) (p : ThreadsAt) : State :=
  match groupAt s p, subAt s p with
  | some g, some x =>
    if x.wait = .coll ∧ coreLive s p.core then
      let arrived := g.subsets.foldl (fun m y => if y.wait = .coll ∧ y.pc = x.pc then m ||| y.lanes else m) 0
      let all := if inRegion g x.lanes then (g.region.map Prod.fst).getD 0 else liveLanes g
      if arrived = all then s else collFault s p 0x13 x.pc x.pc (lowLane x.lanes) arrived
    else s
  | _, _ => s

/-! ### Barriers (R153) -/

def liveThreads (b : Block) : List Nat :=
  (List.range b.groups.length).flatMap fun g => (lanesOf (liveLanes (b.groups.getD g default))).map fun l => g * 32 + l

/-- The phase of a barrier is complete. -/
def barDone (b : Block) (x : Barrier) : Bool :=
  if x.cnt = 0 then (liveThreads b).all fun t => x.arrived.contains t else decide (x.cnt * 32 ≤ x.arrived.length)

/-- Complete every phase that is complete: the barrier resets and its waiting subsets go on. -/
def settleBars (s : State) (p : ThreadsAt) : State :=
  match blockAt s p with
  | none => s
  | some b =>
    let done := (b.bars.filter fun x => barDone b x.2).map Prod.fst
    modBlock s p fun b =>
      { b with bars := b.bars.filter fun x => !done.contains x.1,
               groups := b.groups.map fun g => { g with subsets := g.subsets.map fun y =>
                 match y.wait with
                 | .bar i => if done.contains i then { y with wait := .run, pc := y.pc + 8 } else y
                 | _ => y } }

/-- A CNT above 32, which R153 gives no meaning, is above every block's thread count.
(DESIGN CHOICE: log entry 40). -/
def barArrive (s : State) (p : ThreadsAt) (w : DWord) (sync : Bool) : State :=
  match blockAt s p, subAt s p, launchAt s p with
  | some b, some x, some (_, l) =>
    if ¬ canIssue s p ∨ x.wait ≠ .run then s
    else
      let id := bits w 51 48
      let cnt := bits w 47 42
      if ¬ syncOk w (if sync then 2 else 3) ∨ l.barriers ≤ id then threadFault s p 0x10
      else
        let cur := tget b.bars id
        if threads l.block < cnt * 32 ∨ (cur.map Barrier.cnt).getD cnt ≠ cnt then threadFault s p 0x14
        else
          let s := noteIssue s p
          let ts := (lanesOf x.lanes).map fun i => p.grp * 32 + i
          let old := (cur.map Barrier.arrived).getD []
          let s := modBlock s p fun b => { b with bars := tput b.bars id ⟨cnt, old ++ ts.filter fun t => !old.contains t⟩ }
          let s := if sync then modSub s p fun y => { y with wait := .bar id } else advance s p
          settleGroup (settleBars s p) p
  | _, _, _ => s

/-! ### The data cache (R182) and fences (R180) -/

def flushCore (s : State) (c : Nat) : State :=
  modCore ((coreOf s c).cache.foldl writeBack s) c fun x => { x with cache := x.cache.map washed }

/-- Device-scope acquire of one core. -/
def invalidateCore (s : State) (c : Nat) : State := modCore s c (acquired s.mem.cells)

def shFence (s : State) (p : ThreadsAt) (w : DWord) : State :=
  simple s p fun s _ =>
    if ¬ syncOk w 4 then .error (threadFault s p 0x10)
    else
      let wide := decide (2 ≤ bits w 41 40)
      let order := bits w 39 38
      let s := if wide ∧ order ≠ 1 then flushCore s p.core else s
      .ok (if wide ∧ order ≠ 2 then invalidateCore s p.core else s)

/-! ### Loads, stores, atomics -/

/-- A device address from a register pair. -/
def pairAddr (s : State) (p : ThreadsAt) (l r : Nat) : Nat := (regGet s p l r).toNat + (regGet s p l (r + 1)).toNat % 65536 * 2 ^ 32

/-- A cached byte of a core: the line's byte while it is held. -/
def cacheByte (s : State) (c pa : Nat) : Option Byte :=
  ((coreOf s c).cache.find? fun l => l.addr == pa / 128 * 128).map fun l => l.data.getD (pa % 128) 0

/-- Write back and drop a core's lines that `hit` selects. -/
def evictLines (s : State) (c : Nat) (hit : CacheLine → Bool) : State :=
  modCore (((coreOf s c).cache.filter hit).foldl writeBack s) c fun x => { x with cache := x.cache.filter fun l => !hit l }

/-- Write back and drop a line before an atomic (R174). (DESIGN CHOICE: log entry 42). -/
def evictLine (s : State) (c pa : Nat) : State := evictLines s c fun l => l.addr == pa / 128 * 128

/-- Lines of a core's data cache: 384 KiB less the local store of its split (R140). -/
def cacheLines (c : Core) : Nat := (393216 - c.split * 32768) / 128

/-- Bring a line of a domain into a core's data cache; a full cache gives up its oldest line, which the manual leaves
open. (DESIGN CHOICE: log entry 42). -/
def fillLine (s : State) (c pa d : Nat) : State :=
  let a := pa / 128 * 128
  let x := coreOf s c
  if x.cache.any fun l => l.addr == a then s
  else
    let s := sawRead s [(pa, d)]
    let s := if cacheLines x ≤ x.cache.length then evictLines s c fun l => x.cache.head? == some l else s
    modCore s c fun x => { x with cache := x.cache ++ [⟨a, d, memGetN s.mem.cells a 128, List.replicate 128 false⟩] }

/-- A core's write drops the texels it holds of the 512 B around it, the most that a compressed block takes, so that a later
fetch of the core observes it (R178). (DESIGN CHOICE: log entry 42). -/
def dropTex (s : State) (c pa : Nat) : State := modCore s c fun x => { x with tex := x.tex.filter fun l => l.1 / 512 != pa / 512 }

/-- (DESIGN CHOICE: log entry 42). -/
def cacheStore (s : State) (c pa d : Nat) (v : Byte) : State :=
  modCore (fillLine (dropTex s c pa) c pa d) c fun x => { x with cache := x.cache.map fun l =>
    if l.addr = pa / 128 * 128 then { l with data := l.data.set (pa % 128) v, dirty := l.dirty.set (pa % 128) true } else l }

/-- A read of a byte goes to the Mezzanine: its page is COHERENT, or the core does not hold its line. -/
def goesOut (s : State) (c pa pol : Nat) : Bool := pol == 1 || (cacheByte s c pa).isNone

/-- Where each byte of an access lands, or the refused byte with its CAUSE, 8 for a read that an uncorrectable error
ends. -/
def places (s : State) (core ctx va n need : Nat) : Except (Nat × Nat) (List Place) :=
  (List.range n).mapM fun i =>
    match translate s ctx (va + i) need with
    | .error c => .error (va + i, c)
    | .ok (.mem pa d pol) =>
      if ¬ tagOk s pa d then .error (va + i, 4)
      else if need = 1 ∧ goesOut s core pa pol ∧ lost s [(pa, d)] then .error (va + i, 8)
      else .ok (.mem pa d pol)
    | .ok w => .ok w

/-- Why a window is not reached: the port is not in RAW mode, or its link is down (R410). -/
def windowDown (s : State) : Option Nat := if s.ob.mode ≠ 2 then some cWRONGMODE else if s.ob.link then none else some cLINKDOWN

def isWindow : Place → Bool
  | .window _ _ => true
  | .mem _ _ _ => false

/-- Read one placed byte of device memory for a core. -/
def placeRead (s : State) (c : Nat) : Place → State × Byte
  | .mem pa d pol =>
    if pol = 1 then (sawRead s [(pa, d)], memGet s.mem.cells pa)
    else
      let s := fillLine s c pa d
      (s, (cacheByte s c pa).getD 0)
  | .window _ _ => (s, 0)

def placeWrite (s : State) (c : Nat) (v : Byte) : Place → State
  | .mem pa d pol =>
    if pol = 1 then writeLines { dropTex s c pa with mem := { s.mem with cells := memPut s.mem.cells pa v } } [(pa, d)]
    else cacheStore s c pa d v
  | .window _ _ => s

def readPlaces (s : State) (c : Nat) : List Place → State × List Byte
  | [] => (s, [])
  | x :: r =>
    let (s, b) := placeRead s c x
    let (s, bs) := readPlaces s c r
    (s, b :: bs)

/-- A store through a window is one posted write of its bytes; while the window is not reached it is discarded (R186,
R410). -/
def postWindow (s : State) (ps : List Place) (bs : List Byte) : State :=
  match ps.find? isWindow with
  | some (.window bar off) => if (windowDown s).isSome then s else { s with ob := { s.ob with posted := (bar, off, bs) :: s.ob.posted } }
  | _ => s

def writePlaces (s : State) (c : Nat) : List Place → List Byte → State
  | x :: r, b :: bs => writePlaces (placeWrite s c b x) c r bs
  | _, _ => s

/-! ### Loads through a window (R159, R186, R410) -/

/-- The port sends a non-posted read to the device. (DESIGN CHOICE: log entry 62). -/
def askDevice (s : State) (bar off n : Nat) : State :=
  { s with ob := { s.ob with asked := (bar, off, n, s.ob.posted.length) :: s.ob.asked } }

/-- A thread's load through a window: a non-posted read that the thread waits for; a window that is not reached answers
0xFFFF_FFFF at once and raises OB_CPL (R410). (DESIGN CHOICE: log entry 42). -/
def windowLoad (s : State) (p : ThreadsAt) (ctx l dst bar off n : Nat) : State :=
  match windowDown s with
  | some c => regSet (raise s (ctxFault 0x370 0x55 uOutbound ctx c 0)) p l dst 0xFFFFFFFF
  | none =>
    modBlock (askDevice s bar off n) p fun b => { b with loads := b.loads ++ [⟨s.ob.asked.length, p.grp * 32 + l, dst, bar, off, n⟩] }

/-- Lanes of a group with a load through a window in flight. -/
def loadLanes (b : Block) (grp : Nat) : Nat := b.loads.foldl (fun m x => if x.thread / 32 = grp then m ||| 2 ^ (x.thread % 32) else m) 0

/-- A subset that waits for loads goes on once none of its lanes is left in `m`. -/
def loaded (m : Nat) (y : Subset) : Subset :=
  if y.wait == .load && disjointMasks y.lanes m then { y with wait := .run, pc := y.pc + 8 } else y

/-- A block's load is over with a value: its register is written, and a subset that waits for nothing more goes on. -/
def loadOver (b : Block) (num : Nat) (v : Word) : Block :=
  match b.loads.find? fun x => x.num == num with
  | none => b
  | some x =>
    let b := { b with loads := b.loads.filter fun y => y.num != num, regs := upd b.regs x.thread fun rs => rs.set x.dst v }
    let m := loadLanes b (x.thread / 32)
    { b with groups := upd b.groups (x.thread / 32) fun g => { g with subsets := g.subsets.map (loaded m) } }

/-- A resident block's load with a read's number. -/
def loadAt (s : State) (num : Nat) : Bool := s.sh.cores.any fun c => c.kind != 0 && c.blocks.any fun b => b.loads.any fun x => x.num == num

/-- A completion for a load that is in flight is delivered. -/
def loadDone (s : State) (num : Nat) (v : Word) : State :=
  { s with sh := { s.sh with cores := s.sh.cores.map fun c =>
      if c.kind = 0 then c else { c with blocks := c.blocks.map fun b => loadOver b num v } } }

/-- Loads of a block that its slot's end abandoned are issued again (R159). -/
def reissue : List WLoad → State → State × List WLoad
  | [], s => (s, [])
  | x :: r, s =>
    let n := s.ob.asked.length
    let (s, xs) := reissue r (askDevice s x.bar x.off x.n)
    (s, { x with num := n } :: xs)

def reissueBlocks : List Block → State → State × List Block
  | [], s => (s, [])
  | b :: r, s =>
    let (s, xs) := reissue b.loads s
    let (s, bs) := reissueBlocks r s
    (s, { b with loads := xs } :: bs)

/-- Bytes of the block's local store that an access names; none outside the block's part.
(DESIGN CHOICE: log entry 42). -/
def lsSpan (s : State) (p : ThreadsAt) (off n : Nat) : Option Nat :=
  match blockAt s p, launchAt s p with
  | some b, some (_, l) => if off + n ≤ l.lsBlock then some (b.lsBase + off) else none
  | _, _ => none

/-- One lane's load of `n` bytes. (DESIGN CHOICE: log entry 42). -/
def laneLoad (s : State) (p : ThreadsAt) (ctx l dst addr n : Nat) (loc : Bool) : Except State State :=
  if loc then
    match lsSpan s p (regGet s p l addr).toNat n with
    | some a => .ok (regSet s p l dst (BitVec.ofNat 32 (ofLe (memGetN (coreOf s p.core).ls a n))))
    | none => .ok (regSet (draw s) p l dst (Config.freeWord (s.free * 65536 + 1)))
  else
    match places s p.core ctx (pairAddr s p l addr) n 1 with
    | .error (a, c) => .error (accessFault s p 0 c a)
    | .ok ps =>
      match ps.find? isWindow with
      | some (.window bar off) => .ok (windowLoad s p ctx l dst bar off n)
      | _ =>
        let (s, bs) := readPlaces s p.core ps
        .ok (regSet s p l dst (BitVec.ofNat 32 (ofLe bs)))

/-- (DESIGN CHOICE: log entry 42). -/
def laneStore (s : State) (p : ThreadsAt) (ctx l addr src n : Nat) (loc : Bool) : Except State State :=
  let bs := leBytes n (regGet s p l src).toNat
  if loc then
    match lsSpan s p (regGet s p l addr).toNat n with
    | some a => .ok (modCore s p.core fun c => { c with ls := memPutN c.ls a bs })
    | none => .ok s
  else
    match places s p.core ctx (pairAddr s p l addr) n 2 with
    | .error (a, c) => .error (accessFault s p 1 c a)
    | .ok ps => .ok (writePlaces (postWindow s ps bs) p.core ps bs)

def eachLane (f : State → Nat → Except State State) : List Nat → State → Except State State
  | [], s => .ok s
  | l :: r, s =>
    match f s l with
    | .error t => .error t
    | .ok t => eachLane f r t

/-- A subset with a load through a window in flight waits for it. -/
def shLoad (s : State) (p : ThreadsAt) (dst addr n : Nat) (loc : Bool) : State :=
  match launchAt s p with
  | none => s
  | some (_, x) =>
    match groupAt s p, subAt s p with
    | some _, some y =>
      if ¬ canIssue s p ∨ y.wait ≠ .run then s
      else match eachLane (fun s l => laneLoad s p x.ref.ctx l dst addr (min n 4) loc) (lanesOf y.lanes) (noteIssue s p) with
        | .error t => t
        | .ok t =>
          if disjointMasks y.lanes (((blockAt t p).map fun b => loadLanes b p.grp).getD 0) then settleGroup (advance t p) p
          else settleGroup (modSub t p fun z => { z with wait := .load }) p
    | _, _ => s

def shStore (s : State) (p : ThreadsAt) (addr src n : Nat) (loc : Bool) : State :=
  match launchAt s p with
  | none => s
  | some (_, x) => simple s p fun s y => eachLane (fun s l => laneStore s p x.ref.ctx l addr src (min n 4) loc) (lanesOf y.lanes) s

/-- (DESIGN CHOICE: log entry 40). -/
def atomVal (op : AtomOp) (n old v cmp : Nat) : Nat :=
  match op with
  | .add => (old + v) % 2 ^ n | .min => min old v | .max => max old v | .and => old &&& v | .or => old ||| v
  | .xor => old ^^^ v | .exch => v | .cas => if old = cmp then v else old

/-- One lane's atomic on 32 or 64 bits: the old value to `dst` (and the register after it). -/
def laneAtomic (s : State) (p : ThreadsAt) (ctx l : Nat) (op : AtomOp) (wide loc : Bool) (dst addr src cmp : Nat) : Except State State :=
  let n := if wide then 8 else 4
  let val (r : Nat) : Nat := if wide then (regGet s p l r).toNat + (regGet s p l (r + 1)).toNat * 2 ^ 32 else (regGet s p l r).toNat
  let put (s : State) (old : Nat) : State :=
    let s := regSet s p l dst (lo32 old)
    if wide then regSet s p l (dst + 1) (hi32 old) else s
  let v := val src
  let c := val cmp
  if loc then
    match lsSpan s p (regGet s p l addr).toNat n with
    | some a =>
      let old := ofLe (memGetN (coreOf s p.core).ls a n)
      .ok (put (modCore s p.core fun x => { x with ls := memPutN x.ls a (leBytes n (atomVal op (8 * n) old v c)) }) old)
    | none => .ok (put (draw s) (Config.freeWord (s.free * 65536 + 2)).toNat)
  else
    let va := pairAddr s p l addr
    match translateN s ctx va n 2 with
    | .error e => .error (accessFault s p 2 e va)
    | .ok ps =>
      let s := ps.foldl (fun s q => evictLine (dropTex s p.core q.1) p.core q.1) s
      if lost s ps then .error (accessFault s p 2 8 va)
      else
        let s := sawRead s ps
        let old := ofLe (ps.map fun q => memGet s.mem.cells q.1)
        .ok (put (writeLines { s with mem := { s.mem with cells := putBytes s.mem.cells ps (leBytes n (atomVal op (8 * n) old v c)) } } ps) old)

def shAtomic (s : State) (p : ThreadsAt) (op : AtomOp) (wide loc : Bool) (dst addr src cmp : Nat) : State :=
  match launchAt s p with
  | none => s
  | some (_, x) => simple s p fun s y => eachLane (fun s l => laneAtomic s p x.ref.ctx l op wide loc dst addr src cmp) (lanesOf y.lanes) s

/-! ### Shuffle, vote, branch, end (R142, R144, R148, R150) -/

/-- Each member reads register `src` of the lane that its register `sel` names; a lane that is no member
gives a free value. -/
def shShuffle (s : State) (p : ThreadsAt) (dst src sel : Nat) : State :=
  collective s p fun s m =>
    let v (l : Nat) : Word :=
      let k := (regGet s p l sel).toNat
      if k < 32 ∧ m / 2 ^ k % 2 = 1 then regGet s p k src else Config.freeWord (s.free * 65536 + l)
    .ok (regSets (draw s) p m dst v)

/-- Vote: 0 any, 1 all, 2 the mask of the members whose register is not zero. (DESIGN CHOICE: log entry 40). -/
def shVote (s : State) (p : ThreadsAt) (dst src kind : Nat) : State :=
  collective s p fun s m =>
    let yes := (lanesOf m).filter fun l => regGet s p l src != 0
    let v : Word :=
      if kind = 0 then (if yes = [] then 0 else 1)
      else if kind = 1 then (if yes.length = (lanesOf m).length then 1 else 0)
      else if kind = 2 then BitVec.ofNat 32 (yes.foldl (fun a l => a + 2 ^ l) 0)
      else Config.freeWord (s.free * 65536)
    .ok (regSets (draw s) p m dst fun _ => v)

/-- The subsets a branch leaves: one for each target, and one for the lanes no target takes, which go on to the
next instruction. A subset that goes backward counts; at 64 it yields to every other live subset that waits at no barrier
or collective point: one that waits at a join point is let go by the yield (R142, R144). -/
def branchSubs (g : Group) (x : Subset) (targets : List (Nat × Nat)) (joins : List Nat) : List Subset :=
  let named := targets.foldl (fun m t => m ||| (t.1 &&& x.lanes)) 0
  let all := (targets.map fun t => (t.1 &&& x.lanes, t.2)) ++ [(x.lanes &&& (2 ^ 32 - 1 - named), x.pc + 8)]
  let others := otherLanes g x fun y => takesTurn y || y.wait == .join
  (all.filter fun t => t.1 != 0).map fun t =>
    let back := if t.2 ≤ x.pc then x.back + 1 else x.back
    let rest := (all.foldl (fun m u => if u.2 = t.2 then m else m ||| u.1) 0) ||| others
    ⟨t.1, t.2, if joins.contains t.2 then .join else .run, if 64 ≤ back then 0 else back, if 64 ≤ back then rest else 0⟩

def shBranch (s : State) (p : ThreadsAt) (targets : List (Nat × Nat)) (joins : List Nat) : State :=
  match groupAt s p, subAt s p with
  | some _, some x =>
    if ¬ canIssue s p ∨ x.wait ≠ .run then s
    else
      let s := noteIssue s p
      match groupAt s p, subAt s p with
      | some g, some x =>
        settleGroup (modGroup s p fun g' =>
          { g' with subsets := g'.subsets.take p.sub ++ branchSubs g x targets joins ++ g'.subsets.drop (p.sub + 1),
                    last := (branchSubs g x targets joins).foldl (fun m y => m ||| y.lanes) 0 }) p
      | _, _ => s
  | _, _ => s

/-- A block whose threads have all ended leaves the core. -/
def endBlocks (s : State) (c : Nat) : State :=
  let gone := (coreOf s c).blocks.filter fun b => b.groups.all fun g => g.subsets.isEmpty
  let s := modCore s c fun x => { x with blocks := x.blocks.filter fun b => !(b.groups.all fun g => g.subsets.isEmpty) }
  gone.foldl (fun s b => { s with sh := { s.sh with launches := tmod s.sh.launches b.launch fun l => { l with ended := l.ended + 1 } } }) s

def shEnd (s : State) (p : ThreadsAt) : State :=
  match groupAt s p, subAt s p with
  | some g, some x =>
    if ¬ canIssue s p ∨ x.wait ≠ .run then s
    else if inRegion g x.lanes ∨ (isMember g x.lanes ∧ (waitingColl g x.lanes).isSome) then
      let w := (waitingColl g x.lanes).getD (0xFFFFFFFF, 0)
      collFault s p 0x11 w.1 x.pc (lowLane x.lanes) w.2
    else
      let s := modGroup (noteIssue s p) p fun g => { g with subsets := g.subsets.filter fun y => !(y.lanes == x.lanes) }
      settleLaunches (endBlocks (settleGroup (settleBars s p) p) p.core)
  | _, _ => s

/-! ### Matrix instructions (R84 to R87) -/

/-- A well-formed matrix instruction of the function: R84 names a reserved FUNC as an illegal instruction; a non-zero
reserved field, or a HALL that R84 says is zero, is taken as one too, as R155 says of its words.
(DESIGN CHOICE: log entry 40). -/
def mxOk (w : DWord) (func : Nat) : Bool :=
  bits w 63 56 == 0xE4 && bits w 55 52 == func && bits w 33 0 == 0 && (func == 0 || bits w 35 34 == 0)

def tokenWord (core hall slot seq : Nat) : Word := reg [fld 0 4 slot, fld 4 2 hall, fld 6 5 core, fld 11 21 seq]

/-- MX.ISSUE for the member set: it stalls while every token slot is taken, the Hall's queue is full, or the Hall's domain
is off, for which it votes (R18). (DESIGN CHOICE: log entry 41). -/
def mxIssue (s : State) (p : ThreadsAt) (w : DWord) : State :=
  if ¬ mxOk w 0 then (match subAt s p with
    | some x => if canIssue s p ∧ x.wait = .run then threadFault s p 0x10 else s
    | none => s)
  else
    let h := bits w 35 34
    collective s p fun s m =>
    match blockAt s p, launchAt s p with
    | some b, some (lid, l) =>
      let v := linkVote s h lid
      let s := v.1
      let c := coreOf s p.core
      match (if v.2 then (List.range 16).find? fun k => !((c.tokens.getD k default).held) else none) with
      | none => .error s
      | some k =>
        let off := (regGet s p (lowLane m) (bits w 43 36)).toNat
        let seq := ((c.tokens.getD k default).seq + 1) % 2 ^ 21
        let take (word : Option Word) : State :=
          regSets (modCore s p.core fun c => { c with tokens := c.tokens.set k ⟨seq, true, h, lid, word⟩ }) p m (bits w 51 44)
            fun _ => tokenWord p.core h k seq
        let reject (code : Nat) : State := noteMxCode (take (some (mxWord code false))) lid p.core k (mxWord code false)
        if off % 128 ≠ 0 then .ok (reject 0x06)
        else if l.split * 32768 < b.lsBase + off + 128 then .ok (reject cBOUNDS)
        else if ¬ hallRoom s h false l.ref.ctx then .error s
        else
          let ws := bytesWords (memGetN c.ls (b.lsBase + off) 128)
          .ok (hallPush (take none) h false ⟨l.ref, ws, p.core, k, lid, 0, 0, 0, 0, none, false, b.lsBase, l.split * 32768⟩)
    | _, _ => .ok s

/-- The token's slot, while the token names a live issue of the core. -/
def tokenSlot (s : State) (core : Nat) (t : Word) : Option Nat :=
  let k := bits t 3 0
  let x := (coreOf s core).tokens.getD k default
  if bits t 10 6 = core ∧ x.held ∧ bits t 31 11 = x.seq then some k else none

def freeToken (s : State) (core k : Nat) : State :=
  let l := ((coreOf s core).tokens.getD k default).launch
  let s := modCore s core fun c => { c with tokens := upd c.tokens k fun t => { t with held := false, word := none } }
  { s with sh := { s.sh with launches := tmod s.sh.launches l fun x =>
      { x with mxCode := x.mxCode.filter fun p => !(p.1 == core && p.2.1 == k) } } }

/-- A returned completion: the slot is free, and the return is an acquire for the device memory the descriptor wrote
(R185): the core's clean lines are dropped. -/
def takeToken (s : State) (core k : Nat) : State := invalidateCore (freeToken s core k) core

/-- MX.WAIT: the group blocks until the descriptor of its token completes. (DESIGN CHOICE: log entry 41). -/
def mxWait (s : State) (p : ThreadsAt) (w : DWord) : State :=
  match subAt s p with
  | none => s
  | some x =>
    let waiting : Bool := match x.wait with
      | .token _ _ => true
      | _ => false
    if ¬ (if waiting then coreLive s p.core else canIssue s p && x.wait == .run) then s
    else if ¬ mxOk w 1 then threadFault s p 0x10
    else
      let s := if waiting then s else noteIssue s p
      let t := regGet s p (lowLane x.lanes) (bits w 43 36)
      let dst := bits w 51 44
      match tokenSlot s p.core t with
      | none => settleGroup (advance (regSets s p x.lanes dst fun _ => mxWord 0x02 false) p) p
      | some k =>
        match ((coreOf s p.core).tokens.getD k default).word with
        | some v => settleGroup (advance (regSets (takeToken s p.core k) p x.lanes dst fun _ => v) p) p
        | none => modSub s p fun y => { y with wait := .token k dst }

def mxTest (s : State) (p : ThreadsAt) (w : DWord) : State :=
  simple s p fun s x =>
    if ¬ mxOk w 2 then .error (threadFault s p 0x10)
    else
      let t := regGet s p (lowLane x.lanes) (bits w 43 36)
      let dst := bits w 51 44
      match tokenSlot s p.core t with
      | none => .ok (regSets s p x.lanes dst fun _ => mxWord 0x02 false)
      | some k =>
        match ((coreOf s p.core).tokens.getD k default).word with
        | some v => .ok (regSets (takeToken s p.core k) p x.lanes dst fun _ => v)
        | none => .ok (regSets s p x.lanes dst fun _ => mxWord 0x01 false)

/-! ### Arithmetic (R111, R112, R114, R116, R126) -/

/-- Thread coordinates within the grid, for the NaN record. -/
def globalCoord (l : Launch) (b : Block) (t : Nat) : Nat × Nat × Nat :=
  let k := coords l.grid b.index
  let i := coords l.block t
  (k.1 * l.block.1 + i.1, k.2.1 * l.block.2.1 + i.2.1, k.2.2 * l.block.2.2 + i.2.2)

/-- The NaN trap of a lane (R126, R127). -/
def nanTrap (s : State) (p : ThreadsAt) (l : Launch) (blk : Block) (x : Subset) (lane dst : Nat) : State :=
  let g := globalCoord l blk (p.grp * 32 + lane)
  launchFault s p 0x09 0x18 0x09 0 [16 + p.core, dst, l.tag, g.1, g.2.1, g.2.2, x.pc]

/-- An arithmetic instruction or conversion for every lane. Where several lanes produce a NaN the trap names the lowest
lane, once: the manual gives the lanes of one instruction no order. (DESIGN CHOICE: log entry 41). -/
def shArith (s : State) (p : ThreadsAt) (op : ArithOp) (dst a b c : Nat) : State :=
  match launchAt s p, blockAt s p with
  | some (lid, l), some blk =>
    simple s p fun s x =>
      let md := modeOf s p.core lid
      let rs := (lanesOf x.lanes).map fun i => (i, arithWords md.1 op (fun r => (regGet s p i r).toNat) a b c)
      let s := noteFlush s (16 + p.core) (rs.any fun r => r.2.2.2)
      match (if md.2 then rs.find? fun r => r.2.2.1 else none) with
      | some r => .error (nanTrap s p l blk x r.1 dst)
      | none => .ok (rs.foldl (fun s r => putRegs s p r.1 dst r.2.1) (draw s))
  | _, _ => s

/-! ### Block starts (R137 to R140) -/

def groupsUsed (c : Core) : Nat := c.blocks.foldl (fun n b => n + b.groups.length) 0
/-- Register space in use, in registers of one group's width. -/
def regsUsed (s : State) (c : Core) : Nat :=
  c.blocks.foldl (fun n b => n + b.groups.length * ((launchOf s b.launch).map fun l => allocRegs l.regs).getD 0) 0

/-- Free group capacity of a core for a launch. -/
def freeGroups (s : State) (c : Core) (l : Launch) : Nat := min (128 - groupsUsed c) ((4096 - regsUsed s c) / max 1 (allocRegs l.regs))

/-- Local-store ranges in use. -/
def lsUsed (s : State) (c : Core) : List (Nat × Nat) :=
  c.blocks.map fun b => (b.lsBase, ((launchOf s b.launch).map Launch.lsBlock).getD 0)

/-- The lowest offset at which `n` bytes of the local store are free. -/
def lsFit (s : State) (c : Core) (l : Launch) : Option Nat :=
  let used := lsUsed s c
  (0 :: used.map fun u => u.1 + u.2).mergeSort.find? fun o =>
    decide (o + l.lsBlock ≤ l.split * 32768) && used.all fun u => decide (u.1 + u.2 ≤ o ∨ o + l.lsBlock ≤ u.1)

/-- The core has room for a block of the launch, in the context's slot. -/
def hasRoom (s : State) (k : Nat) (l : Launch) : Bool :=
  let c := coreOf s k
  coreLive s k && c.ctx == l.ref.ctx && (c.blocks.isEmpty || c.split == l.split) && decide (c.blocks.length < 32)
    && decide (threads l.block / 32 ≤ freeGroups s c l) && (lsFit s c l).isSome

/-- The core that takes the next block: room and the most free group capacity, ties to the lowest. -/
def pickCore (s : State) (l : Launch) : Option Nat :=
  let ks := (List.range 32).filter fun k => l.mask / 2 ^ k % 2 == 1 && hasRoom s k l
  ks.foldl (fun best k =>
    match best with
    | none => some k
    | some b => if freeGroups s (coreOf s b) l < freeGroups s (coreOf s k) l then some k else some b) none

/-- A block as it starts: every thread at the entry, its registers undefined. (DESIGN CHOICE: log entry 41). -/
def newBlock (s : State) (lid : Nat) (l : Launch) (base : Nat) : Block :=
  let t := threads l.block
  let a := allocRegs l.regs
  ⟨lid, l.next, List.replicate (t / 32) ⟨[⟨2 ^ 32 - 1, l.entry, .run, 0, 0⟩], none, 0⟩,
   (List.range t).map fun i => (List.range a).map fun r => Config.freeWord (s.free * 2 ^ 40 + i * 256 + r), [], base, []⟩

/-- The first fetch of a launch, by the core of its first block, checks CODE_CRC (R134, R170).
(DESIGN CHOICE: log entry 42). -/
def codeCheck (s : State) (lid : Nat) (l : Launch) (k : Nat) : Except State State :=
  if l.checked then .ok s
  else match devFetch s l.ref.ctx (l.prog + l.codeOff) l.codeSize with
    | .error _ =>
      let f := faultAt s l.ref.ctx (l.prog + l.codeOff) l.codeSize 4
      .error (stopLaunch (raiseMem s (memFault 0x370 (16 + k) l.ref 3 f.2 f.1)) lid (memCode f.2))
    | .ok bs =>
      let s := sawRange s l.ref.ctx (l.prog + l.codeOff) l.codeSize 4
      if crc32c bs = l.crc then .ok (setLaunch s lid { l with checked := true }) else .error (stopLaunch s lid 0x16)

def blockStart (s : State) (lid : Nat) : State :=
  match launchOf s lid with
  | none => s
  | some l =>
    if threads l.grid ≤ l.next then s
    else match pickCore s l with
      | none => s
      | some k =>
        match codeCheck s lid l k with
        | .error t => t
        | .ok s =>
          match lsFit s (coreOf s k) l with
          | none => s
          | some base =>
            -- the launch's first block in the slot is its start on the core: the texture cache goes (R182)
            let md := tget (coreOf s k).modes lid
            let b := newBlock s lid l base
            let now := sampled s l.ref.ctx
            let s := modCore s k fun c =>
              { c with split := l.split, blocks := c.blocks ++ [b], tex := if md.isSome then c.tex else [],
                       modes := tput c.modes lid (md.getD now) }
            let s := draw s
            { s with sh := { s.sh with launches := tmod s.sh.launches lid fun x => { x with next := x.next + 1 } } }

/-! ### Slots of the cores (R159 to R162) -/

def freshTokens : List Token := List.replicate 16 ⟨0, false, 0, 0, none⟩

/-- A slot begins on a core: the context's saved state is back, with the numeric controls sampled again and the window
loads in flight at its end issued again. -/
def shSlotStart (s : State) (k : Nat) : State :=
  let c := coreOf s k
  if k < 8 ∨ 32 ≤ k ∨ c.kind ≠ 0 ∨ c.xfer = 1 then s
  else match slotCtx s (16 + k) with
    | none => s
    | some ctx =>
      let now := sampled s ctx
      match tget c.saved ctx with
      | some v =>
        let (s, bs) := reissueBlocks v.blocks s
        modCore s k fun c =>
          { c with kind := 2, ctx := ctx, xfer := 0, split := v.split, ls := v.ls, tokens := v.tokens, cache := [], tex := [],
                   blocks := bs, saved := tdel c.saved ctx, modes := bs.foldl (fun m b => tput m b.launch now) [] }
      | none =>
        modCore s k fun c =>
          { c with kind := 2, ctx := ctx, xfer := 0, ls := [], cache := [], tex := [], modes := [],
                   tokens := c.tokens.map fun t => { t with held := false, word := none } }

/-- The context whose slot on a core begins within the 45 tile cycles that a restore takes (R160, R331). -/
def slotSoon (s : State) (k : Nat) : Option Nat :=
  match s.tt.active with
  | none => none
  | some im => (im.entries.find? fun e => e.unit == 16 + k && !e.idle && decide (s.tt.cycle ≤ e.start ∧ e.start ≤ s.tt.cycle + 45)).map TtEntry.ctx

/-- The restore before a slot: a core whose next slot's context has saved state restores it in the gap before the slot
(R160, R164). (DEDUCED: log entry 43). -/
def restores (s : State) : State :=
  (List.range 32).foldl (fun s k =>
    let c := coreOf s k
    if c.kind ≠ 0 ∨ c.xfer = 1 then s
    else match (slotSoon s k).filter fun x => (tget c.saved x).isSome with
      | some x => modCore s k fun c => { c with xfer := 2, ctx := x }
      | none => if c.xfer = 2 then modCore s k fun c => { c with xfer := 0, ctx := 0 } else s) s

/-- A slot ends: the core stops at its groups' instruction boundaries, the Halls suspend the descriptors that use its
local store, it writes back and invalidates its caches and saves its resident blocks; a window load in flight is
abandoned, since a completion finds it only in a resident block (R89, R159). -/
def shSlotEnd (s : State) (k : Nat) : State :=
  let c := coreOf s k
  if k < 8 ∨ 32 ≤ k ∨ c.kind = 0 then s
  else
    modCore (flushCore (suspendLocal s k) k) k fun c =>
      let busy := !c.blocks.isEmpty || c.tokens.any fun t => t.held
      { c with kind := 0, ctx := if busy then c.ctx else 0, cache := [], tex := [], xfer := if busy then 1 else 0, blocks := [], ls := [],
               modes := [],
               tokens := c.tokens.map fun t => { t with held := false, word := none },
               saved := if busy then tput c.saved c.ctx ⟨c.split, c.blocks, c.ls, c.tokens⟩ else c.saved }

def shSaveDone (s : State) (k : Nat) : State :=
  if 32 ≤ k then s else modCore s k fun c => if c.xfer = 1 then { c with xfer := 0, ctx := 0 } else c

/-- Abort of a queue's or a context's launches (R162, R320): they complete with ABORTED. -/
def abortLaunches (s : State) (pick : CmdRef → Bool) : State :=
  s.sh.launches.foldl (fun s p => if pick p.2.ref then stopLaunch s p.1 cABORTED else s) s

/-! ### Instruction words (R84, R155) -/

/-- A word of the matrix or the synchronisation class runs as the instruction its FUNC names; a reserved FUNC, or a word
of neither class, is an illegal instruction. (DESIGN CHOICE: log entry 40). -/
def shaderWord (s : State) (p : ThreadsAt) (w : DWord) : State :=
  match bits w 63 56, bits w 55 52 with
  | 0xE4, 0 => mxIssue s p w
  | 0xE4, 1 => mxWait s p w
  | 0xE4, 2 => mxTest s p w
  | 0xE5, 0 => crOpen s p w
  | 0xE5, 1 => crClose s p w
  | 0xE5, 2 => barArrive s p w true
  | 0xE5, 3 => barArrive s p w false
  | 0xE5, 4 => shFence s p w
  | _, _ =>
    match subAt s p with
    | some x => if canIssue s p ∧ x.wait = .run then threadFault s p 0x10 else s
    | none => s

/-! ### Meanings -/

def execDescriptorStart (h : Nat) (s : State) : Out := .next (settleLaunches (descriptorStart s h))
def execDescriptorComplete (h : Nat) (s : State) : Out := .next (settleLaunches (descriptorComplete s h))
def execHallSlotEnd (h passes : Nat) (s : State) : Out := .next (settleLaunches (hallSlotEnd s h passes))
def execMxIssue (p : ThreadsAt) (w : DWord) (s : State) : Out := .next (shaderWord s p w)
def execMxWait (p : ThreadsAt) (w : DWord) (s : State) : Out := .next (shaderWord s p w)
def execMxTest (p : ThreadsAt) (w : DWord) (s : State) : Out := .next (shaderWord s p w)
def execCrOpen (p : ThreadsAt) (w : DWord) (s : State) : Out := .next (shaderWord s p w)
def execCrClose (p : ThreadsAt) (w : DWord) (s : State) : Out := .next (shaderWord s p w)
def execBarSync (p : ThreadsAt) (w : DWord) (s : State) : Out := .next (shaderWord s p w)
def execBarArrive (p : ThreadsAt) (w : DWord) (s : State) : Out := .next (shaderWord s p w)
def execFence (p : ThreadsAt) (w : DWord) (s : State) : Out := .next (shaderWord s p w)
def execShuffle (p : ThreadsAt) (dst src sel : Nat) (s : State) : Out := .next (shShuffle s p dst src sel)
def execVote (p : ThreadsAt) (dst src kind : Nat) (s : State) : Out := .next (shVote s p dst src kind)
def execBranch (p : ThreadsAt) (targets : List (Nat × Nat)) (joins : List Nat) (s : State) : Out := .next (shBranch s p targets joins)
def execEndInstruction (p : ThreadsAt) (s : State) : Out := .next (shEnd s p)
def execAtomic (p : ThreadsAt) (op : AtomOp) (wide loc : Bool) (dst addr src cmp : Nat) (s : State) : Out :=
  .next (shAtomic s p op wide loc dst addr src cmp)
def execShaderLoad (p : ThreadsAt) (dst addr n : Nat) (loc : Bool) (s : State) : Out := .next (shLoad s p dst addr n loc)
def execShaderStore (p : ThreadsAt) (addr src n : Nat) (loc : Bool) (s : State) : Out := .next (shStore s p addr src n loc)
def execArithmeticInstruction (p : ThreadsAt) (op : ArithOp) (dst a b c : Nat) (s : State) : Out := .next (shArith s p op dst a b c)
def execBlockStart (launch : Nat) (s : State) : Out := .next (blockStart s launch)
def execShaderSlotEnd (core : Nat) (s : State) : Out := .next (shSlotEnd s core)
def execShaderSaveDone (core : Nat) (s : State) : Out := .next (shSaveDone s core)
def execShaderSlotStart (core : Nat) (s : State) : Out := .next (shSlotStart s core)
def execCollectiveTimeout (p : ThreadsAt) (s : State) : Out := .next (collTimeout s p)

end Sys2Proof.Machine
end

