-- ==== Sys2Proof/Machine/Triangles.lean ====
section
/-! DEFINITION. Primitive setup and rasterisation (spec/07, R208, R209, R214): index checks, facing, coverage of pixel
centres with top-left fill, the raster tiles a triangle touches. Positions are what the vertex program and the projection
give, in pixels with y downward, as FP32 words. -/

namespace Sys2Proof.Machine
open Sys2Proof

abbrev Pt := Q × Q

def ptOf (p : Nat × Nat) : Pt := (f32ToQ p.1, f32ToQ p.2)

/-- Twice the signed area of a, b, p: positive where the three stand clockwise on the screen. -/
def edgeQ (a b p : Pt) : Q := qSub (qMul (qSub b.1 a.1) (qSub p.2 a.2)) (qMul (qSub b.2 a.2) (qSub p.1 a.1))

def triArea (t : List (Nat × Nat)) : Q := edgeQ (ptOf (t.getD 0 (0, 0))) (ptOf (t.getD 1 (0, 0))) (ptOf (t.getD 2 (0, 0)))

/-- The three edges of a triangle, clockwise. -/
def triEdges (t : List (Nat × Nat)) : List (Pt × Pt) :=
  let a := ptOf (t.getD 0 (0, 0))
  let b := ptOf (t.getD 1 (0, 0))
  let c := ptOf (t.getD 2 (0, 0))
  if qLt (qInt 0) (triArea t) then [(a, b), (b, c), (c, a)] else [(a, c), (c, b), (b, a)]

/-- A top edge, horizontal with the inside below it, or a left edge, with the inside to its right. -/
def topLeft (e : Pt × Pt) : Bool := qLt e.2.2 e.1.2 || (e.1.2 == e.2.2 && qLt e.1.1 e.2.1)

/-- The triangle covers the pixel: its centre lies inside, or on a top or left edge (R209). -/
def covers (t : List (Nat × Nat)) (x y : Nat) : Bool :=
  let p : Pt := (qMk (2 * x + 1) 2, qMk (2 * y + 1) 2)
  (triEdges t).all fun e =>
    let v := edgeQ e.1 e.2 p
    qLt (qInt 0) v || (v == qInt 0 && topLeft e)

/-- The corners of a triangle that survives index checks and culling: every index below VERT_COUNT, a position for every
vertex, an area, and a facing that is not discarded (R208, R210). That one without area is culled the manual does not say.
(DESIGN CHOICE: log entry 44). -/
def setupTri (verts : List (Nat × Nat × Nat)) (count : Nat) (frontCw cullBack : Bool) (idx : List Nat) : Option (List (Nat × Nat)) :=
  if idx.any fun i => count ≤ i then none
  else
    let t := idx.filterMap (tget verts)
    let a := triArea t
    let front := qLt (qInt 0) a == frontCw
    if t.length ≠ 3 ∨ (t.any fun p => !(f32Finite p.1 && f32Finite p.2)) ∨ a = qInt 0 ∨ (cullBack ∧ ¬ front) then none else some t

/-- Raster tiles of 32 pixels that an interval meets, of `n` tiles: the first and the one after the last. -/
def tileSpan (lo hi : Q) (n : Nat) : Nat × Nat :=
  ((clampI 0 n (qFloor (qMul lo ⟨1, 32⟩))).toNat, (clampI 0 n (qFloor (qMul hi ⟨1, 32⟩) + 1)).toNat)

/-- Columns and rows of raster tiles that the bounding box covers, within a render area of `w` × `h` pixels. -/
def boxTiles (t : List (Nat × Nat)) (w h : Nat) : (Nat × Nat) × (Nat × Nat) :=
  let xs := t.map fun p => f32ToQ p.1
  let ys := t.map fun p => f32ToQ p.2
  let lo (l : List Q) : Q := l.foldl qMin (l.headD (qInt 0))
  let hi (l : List Q) : Q := l.foldl qMax (l.headD (qInt 0))
  (tileSpan (lo xs) (hi xs) ((w + 31) / 32), tileSpan (lo ys) (hi ys) ((h + 31) / 32))

/-- The triangle meets a raster tile of its bounding box. -/
def touchesTile (t : List (Nat × Nat)) (tx ty : Nat) : Bool :=
  let cs : List Pt := [(qInt (32 * tx), qInt (32 * ty)), (qInt (32 * tx + 32), qInt (32 * ty)),
                       (qInt (32 * tx), qInt (32 * ty + 32)), (qInt (32 * tx + 32), qInt (32 * ty + 32))]
  (triEdges t).all fun e => cs.any fun c => qLe (qInt 0) (edgeQ e.1 e.2 c)

/-- The triangle's bounding box covers more than 64 raster tiles: it goes to the wide list (R214). -/
def isWide (t : List (Nat × Nat)) (w h : Nat) : Bool :=
  let b := boxTiles t w h
  decide (64 < (b.1.2 - b.1.1) * (b.2.2 - b.2.1))

/-- The raster tiles a triangle touches, in row-major order. -/
def tilesOf (t : List (Nat × Nat)) (w h : Nat) : List Nat :=
  let b := boxTiles t w h
  (List.range (b.2.2 - b.2.1)).flatMap fun j => (List.range (b.1.2 - b.1.1)).filterMap fun i =>
    if touchesTile t (b.1.1 + i) (b.2.1 + j) then some ((b.2.1 + j) * ((w + 31) / 32) + b.1.1 + i) else none

end Sys2Proof.Machine
end

