-- ==== Sys2Proof/Machine/Raster.lean ====
section
/-! DEFINITION. Surfaces and frame-buffer block compression, texture fetches, the raster back end and its
passes, bin pools and the grow reserve (spec/07, R200 to R221). -/

namespace Sys2Proof.Machine
open Sys2Proof

/-! ### Surfaces (R200 to R202) -/

def surfRsv : List Word := [0xFFFFFC00, 0, 0, 0xFFFF0000, 0, 0xFFFF0000, 0, 0, 0, 0] ++ List.replicate 5 0xFFFFFFFF

def sFmt (w : List Word) : Nat := bits (wd w 1) 4 0
def sComp (w : List Word) : Bool := bit (wd w 1) 5
def sLevels (w : List Word) : Nat := bits (wd w 1) 9 6
def sW (w : List Word) : Nat := bits (wd w 2) 15 0
def sH (w : List Word) : Nat := bits (wd w 2) 31 16
def sData (w : List Word) : Nat := (wd w 3).toNat + bits (wd w 4) 15 0 * 2 ^ 32
def sMeta (w : List Word) : Nat := (wd w 5).toNat + bits (wd w 6) 15 0 * 2 ^ 32

/-- Bytes per texel, texture tile width and height (R201). -/
def fmtBytes (f : Nat) : Nat :=
  match f with
  | 0 => 1 | 1 => 2 | 4 => 2 | 5 => 8 | 8 => 16 | _ => 4
def fmtTw (f : Nat) : Nat :=
  match f with
  | 0 => 64 | 1 => 64 | 4 => 64 | 8 => 16 | _ => 32
def fmtTh (f : Nat) : Nat :=
  match f with
  | 0 => 64 | 5 => 16 | 8 => 16 | _ => 32
def fmtColour (f : Nat) : Bool := f ≤ 8 && f != 7
def fmtLayer (f : Nat) : Bool := f == 2 || f == 3 || f == 5
def fmtCompressible (f : Nat) : Bool := f == 2 || f == 3 || f == 5 || f == 6 || f == 7

/-- CLEAR: the texel's bytes, and that the bytes beyond them are zero. -/
def sClear (w : List Word) : List Byte := (wordBytes [wd w 7, wd w 8, wd w 9, wd w 10]).take (fmtBytes (sFmt w))
def clearOk (w : List Word) : Bool := ((wordBytes [wd w 7, wd w 8, wd w 9, wd w 10]).drop (fmtBytes (sFmt w))).all fun b => b == 0

/-- The checks of a surface descriptor. -/
def surfCheck (w : List Word) : Option Nat :=
  match structOk w 64 surfRsv with
  | some c => some c
  | none =>
    if 8 < sFmt w ∨ sLevels w = 0 ∨ 14 < sLevels w ∨ sW w = 0 ∨ 16384 < sW w ∨ sH w = 0 ∨ 16384 < sH w
        ∨ (sComp w ∧ ¬ fmtCompressible (sFmt w)) ∨ ¬ clearOk w then some cRANGE
    else if sData w % 4096 ≠ 0 ∨ (sComp w ∧ sMeta w % 256 ≠ 0) then some 0x06
    else none

def levelW (w : List Word) (i : Nat) : Nat := max 1 (sW w / 2 ^ i)
def levelH (w : List Word) (i : Nat) : Nat := max 1 (sH w / 2 ^ i)

/-- Bytes before level i. -/
def levelBase (w : List Word) (i : Nat) : Nat :=
  (List.range i).foldl (fun n k => n + cdiv (levelW w k) (fmtTw (sFmt w)) * cdiv (levelH w k) (fmtTh (sFmt w)) * 4096) 0

/-- Morton index of a texel within its texture tile. -/
def morton (th xi yi : Nat) : Nat :=
  let n := Nat.log2 th
  (List.range n).foldl (fun m k => m + xi / 2 ^ k % 2 * 4 ^ k + yi / 2 ^ k % 2 * (2 * 4 ^ k)) 0 + xi / 2 ^ n * 4 ^ n

/-- Byte offset of texel (x, y) of level i from DATA_VA. -/
def texelOff (w : List Word) (i x y : Nat) : Nat :=
  let f := sFmt w
  let tw := fmtTw f
  let th := fmtTh f
  levelBase w i + (y / th * cdiv (levelW w i) tw + x / tw) * 4096 + morton th (x % tw) (y % th) * fmtBytes f

/-! ### Accesses to surfaces -/

/-- Why work on a surface did not go on: a refused access with KIND and CAUSE of R171 (8: an uncorrectable error), or the
code of a descriptor that is no surface. -/
inductive Refused where
  | access (kind cause va : Nat)
  | code (c : Nat)
deriving DecidableEq, Repr, Inhabited

/-- The refusal of an access that failed at a place for a cause. -/
def refusedAt (need : Nat) (e : Nat × Nat) : Refused := .access (if need = 2 then 1 else 0) e.2 e.1

def surfRead (s : State) (ctx va n : Nat) : Except Refused (State × List Byte) := (readAt s ctx va n).mapError (refusedAt 1)

def surfWrite (s : State) (ctx va : Nat) (bs : List Byte) : Except Refused State := (writeAt s ctx va bs).mapError (refusedAt 2)

/-- A surface descriptor wherever the back end reads it: R8, R9 and its ranges apply (R200). -/
def readSurf (s : State) (ctx va : Nat) : Except Refused (State × List Word) :=
  match readStruct s ctx va 64 1 with
  | .error (a, c) => .error (.access 0 c a)
  | .ok w =>
    match surfCheck w with
    | some c => .error (.code c)
    | none => .ok (sawStruct s ctx va w, w)

/-! ### Frame-buffer block compression (R204 to R207) -/

def slotBytes (w : List Word) : Nat := 64 * fmtBytes (sFmt w)

/-- The block of a byte offset. -/
def blockAtOff (w : List Word) (off : Nat) : Nat := off / slotBytes w

/-- Metadata code of block `j`. -/
def blockCode (s : State) (ctx : Nat) (w : List Word) (j : Nat) : Except Refused (State × Nat) :=
  match surfRead s ctx (sMeta w + j / 2) 1 with
  | .error e => .error e
  | .ok (s, b) => .ok (s, if j % 2 = 0 then (b.headD 0).toNat % 16 else (b.headD 0).toNat / 16)

def codeReserved (w : List Word) (c : Nat) : Bool := fmtBytes (sFmt w) == 4 && decide (8 ≤ c ∧ c ≤ 14)

/-- The texels that compressed sectors decode to: those the back end encoded into them, else free bytes. -/
def decodeSectors (s : State) (pa n : Nat) (secs : List Byte) : List Byte :=
  match tget s.rs.fbc pa with
  | some (d, e) => if e = secs then d else (List.range n).map fun k => Config.freeByte (pa + k)
  | none => (List.range n).map fun k => Config.freeByte (pa + k)

/-- The 64 texels of a block, in Morton order; a reserved code raises FBC_META. -/
def readBlock (s : State) (ctx : Nat) (w : List Word) (j : Nat) : Except Refused (State × List Byte) :=
  let n := slotBytes w
  let va := sData w + j * n
  let clear := (List.replicate 64 (sClear w)).flatten
  match blockCode s ctx w j with
  | .error e => .error e
  | .ok (s, c) =>
    if c = 0 then .ok (s, clear)
    else if codeReserved w c then .ok (raise s (ctxFault 0x350 0x32 uGallery ctx 0 (sMeta w + j / 2)), clear)
    else if c = 15 then surfRead s ctx va n
    else match surfRead s ctx va (32 * c) with
      | .error e => .error e
      | .ok (s, secs) => .ok (s, decodeSectors s (physOf s ctx va) n secs)

/-- Texels at points of a level, each block of a compressed surface read once: `got` holds the blocks read so far. -/
def readTexels (s : State) (ctx : Nat) (w : List Word) (i : Nat) : List (Nat × List Byte) → List (Nat × Nat) → Except Refused (State × List (List Byte))
  | _, [] => .ok (s, [])
  | got, p :: ps =>
    let off := texelOff w i p.1 p.2
    let n := fmtBytes (sFmt w)
    let one : Except Refused (State × List (Nat × List Byte) × List Byte) :=
      if ¬ sComp w then
        match surfRead s ctx (sData w + off) n with
        | .error e => .error e
        | .ok (s, b) => .ok (s, got, b)
      else
        let j := blockAtOff w off
        let pick (d : List Byte) : List Byte := chunk d (off - j * slotBytes w) n
        match tget got j with
        | some d => .ok (s, got, pick d)
        | none =>
          match readBlock s ctx w j with
          | .error e => .error e
          | .ok (s, d) => .ok (s, tput got j d, pick d)
    match one with
    | .error e => .error e
    | .ok (s, got, b) =>
      match readTexels s ctx w i got ps with
      | .error e => .error e
      | .ok (s, bs) => .ok (s, b :: bs)

/-- The bytes of a texel. -/
def readTexel (s : State) (ctx : Nat) (w : List Word) (i x y : Nat) : Except Refused (State × List Byte) :=
  match readTexels s ctx w i [] [(x, y)] with
  | .error e => .error e
  | .ok (s, bs) => .ok (s, bs.headD [])

/-- Write one nibble of the metadata. -/
def writeCode (s : State) (ctx : Nat) (w : List Word) (j c : Nat) : Except Refused State :=
  let va := sMeta w + j / 2
  match surfRead s ctx va 1 with
  | .error e => .error e
  | .ok (s, b) =>
    let old := (b.headD 0).toNat
    let v := if j % 2 = 0 then old / 16 * 16 + c else old % 16 + 16 * c
    surfWrite s ctx va [BitVec.ofNat 8 v]

/-- Write a block of a compressed surface: CLEAR; else, in tiled mode, as many sectors as the block encodes into
(a free choice among the codes there are, contents private), else uncompressed (R204, R206).
(DESIGN CHOICE: log entry 44). -/
def writeBlock (s : State) (ctx : Nat) (w : List Word) (j : Nat) (data : List Byte) (direct : Bool) : Except Refused State :=
  let n := fmtBytes (sFmt w)
  let va := sData w + j * slotBytes w
  let isClear := (List.range 64).all fun k => chunk data (k * n) n == sClear w
  let k := (Config.freeWord s.free).toNat % min (slotBytes w / 32) 15
  let secs := (List.range (32 * k)).map fun i => Config.freeByte (s.free * 1024 + i)
  let s := draw s
  if isClear ∧ ¬ direct then writeCode s ctx w j 0
  else if ¬ direct ∧ 0 < k then
    match surfWrite s ctx va secs with
    | .error e => .error e
    | .ok s => writeCode { s with rs := { s.rs with fbc := tput s.rs.fbc (physOf s ctx va) (data, secs) } } ctx w j k
  else
    match surfWrite s ctx va data with
    | .error e => .error e
    | .ok s => writeCode s ctx w j 15

def splice (data : List Byte) (at_ : Nat) (bs : List Byte) : List Byte := data.take at_ ++ bs ++ data.drop (at_ + bs.length)

/-- Write a texel of level 0 in direct mode: a block of a compressed surface is written whole, uncompressed (R206). -/
def writeTexel (s : State) (ctx : Nat) (w : List Word) (x y : Nat) (bs : List Byte) : Except Refused State :=
  let off := texelOff w 0 x y
  if sComp w then
    let j := blockAtOff w off
    match readBlock s ctx w j with
    | .error e => .error e
    | .ok (s, d) => writeBlock s ctx w j (splice d (off - j * slotBytes w) bs) true
  else surfWrite s ctx (sData w + off) bs

/-! ### Texel values -/

/-- A UNORM value of n bits as FP32: value / (2^n − 1) (R201). -/
def unormTo (n v : Nat) : Nat := qToF32 (qMk (v : Int) (2 ^ n - 1))

/-- An FP32 value to n-bit UNORM: NaN and what lies below zero give 0, what lies above one gives the largest. -/
def unormOf (n w : Nat) : Nat :=
  if isNan32 w then 0
  else if ¬ f32Finite w then (if w / 2 ^ 31 = 1 then 0 else 2 ^ n - 1)
  else (clampI 0 (2 ^ n - 1) (qRound (qMul (f32ToQ w) (qInt (2 ^ n - 1))))).toNat

def f32One : Nat := 0x3F800000
def subnormal32 (w : Nat) : Bool := w / 2 ^ 23 % 256 == 0 && w % 2 ^ 23 != 0

/-- A word as a value without a flush. -/
def plainFr (w : Nat) : Fr := ⟨w, false, false⟩

/-- Channels of a texel as FP32 values; a channel the format lacks reads 0, alpha 1. The FP16 formats convert, and
a conversion flushes unless subnormals are kept (R118). -/
def texelFrs (keep : Bool) (f : Nat) (bs : List Byte) : List Fr :=
  let v := ofLe bs
  let b (i : Nat) : Fr := plainFr (unormTo 8 (bs.getD i 0).toNat)
  let h (i : Nat) : Fr := fConv fp16 fp32 keep (v / 65536 ^ i % 65536)
  let w (i : Nat) : Fr := plainFr (v / 2 ^ (32 * i) % 2 ^ 32)
  let u (n k : Nat) : Fr := plainFr (unormTo n (v / 2 ^ k % 2 ^ n))
  let z := plainFr 0
  let one := plainFr f32One
  match f with
  | 0 => [b 0, z, z, one]
  | 1 => [b 0, b 1, z, one]
  | 2 => [b 0, b 1, b 2, b 3]
  | 3 => [u 10 0, u 10 10, u 10 20, u 2 30]
  | 4 => [h 0, z, z, one]
  | 5 => [h 0, h 1, h 2, h 3]
  | 8 => [w 0, w 1, w 2, w 3]
  | _ => [w 0, z, z, one]

def decodeTexel (keep : Bool) (f : Nat) (bs : List Byte) : List Nat := (texelFrs keep f bs).map Fr.w

/-- A value converted to a channel of the format: the bits, and whether a subnormal was flushed. -/
def channelOfFr (keep : Bool) (n : Nat) (w : Nat) : Fr := ⟨unormOf n w, false, !keep && subnormal32 w⟩

/-- The converted channels of a texel, low channel first, with their widths in bits. -/
def encodeFrs (keep : Bool) (f : Nat) (c : List Nat) : List (Nat × Fr) :=
  let x (i : Nat) : Nat := c.getD i 0
  match f with
  | 0 => [(8, channelOfFr keep 8 (x 0))]
  | 1 => (List.range 2).map fun i => (8, channelOfFr keep 8 (x i))
  | 2 => (List.range 4).map fun i => (8, channelOfFr keep 8 (x i))
  | 3 => ((List.range 3).map fun i => (10, channelOfFr keep 10 (x i))) ++ [(2, channelOfFr keep 2 (x 3))]
  | 4 => [(16, fConv fp32 fp16 keep (x 0))]
  | 5 => (List.range 4).map fun i => (16, fConv fp32 fp16 keep (x i))
  | 8 => (List.range 4).map fun i => (32, plainFr (x i))
  | _ => [(32, plainFr (x 0))]

def encodeTexel (keep : Bool) (f : Nat) (c : List Nat) : List Byte :=
  leBytes (fmtBytes f) ((encodeFrs keep f c).foldr (fun p n => p.2.w + n * 2 ^ p.1) 0)

/-! ### Texture fetches (R203) -/

/-- Addressing of a texel coordinate: 0 clamp, 1 repeat, 2 mirror. -/
def addrCoord (mode n : Nat) (v : Int) : Nat :=
  if mode = 1 then (v % (n : Int)).toNat
  else if mode = 2 then
    let k := (v % (2 * n : Nat)).toNat
    if k < n then k else 2 * n - 1 - k
  else (clampI 0 ((n : Int) - 1) v).toNat

/-- Lines of a core's texture cache: 64 KiB (R19). -/
def texLines : Nat := 512

/-- The texels of the 128 B line at a byte offset of a surface as the texture unit takes them in: the core's own dirty
bytes go before memory's (R178), compressed blocks are decoded. -/
def texFill (s : State) (c ctx : Nat) (w : List Word) (off : Nat) : Except Refused (State × List Byte) :=
  let a := off / 128 * 128
  if sComp w then
    let j := blockAtOff w off
    match readBlock s ctx w j with
    | .error e => .error e
    | .ok (s, d) => .ok (s, chunk d (a - j * slotBytes w) 128)
  else
    match surfRead s ctx (sData w + a) 128 with
    | .error e => .error e
    | .ok (s, d) =>
      let l := (coreOf s c).cache.find? fun l => l.addr == physOf s ctx (sData w + a)
      .ok (s, (List.range 128).map fun i => match l with
        | some l => if l.dirty.getD i false then l.data.getD i 0 else d.getD i 0
        | none => d.getD i 0)

/-- A texel through the texture cache: its line is filled on a miss, the oldest line leaves a full cache, and the access is
checked in any case (R170, R203). -/
def texTexel (s : State) (c ctx : Nat) (w : List Word) (i x y : Nat) : Except Refused (State × List Byte) :=
  let off := texelOff w i x y
  let va := sData w + off
  let n := fmtBytes (sFmt w)
  match translateN s ctx va n 1 with
  | .error _ => .error (refusedAt 1 (faultAt s ctx va n 1))
  | .ok _ =>
    let key := physOf s ctx va / 128 * 128
    match tget (coreOf s c).tex key with
    | some d => .ok (s, chunk d (off % 128) n)
    | none =>
      match texFill s c ctx w off with
      | .error e => .error e
      | .ok (s, d) =>
        .ok (modCore s c fun x => { x with tex := (if texLines ≤ x.tex.length then x.tex.drop 1 else x.tex) ++ [(key, d)] },
             chunk d (off % 128) n)

/-- Channels of a texel at addressed coordinates, as the texture unit converts them. -/
def texChannels (s : State) (c ctx : Nat) (keep : Bool) (w : List Word) (i mx my : Nat) (x y : Int) : Except Refused (State × List Fr) :=
  match texTexel s c ctx w i (addrCoord mx (levelW w i) x) (addrCoord my (levelH w i) y) with
  | .error e => .error e
  | .ok (s, bs) => .ok (s, texelFrs keep (sFmt w) bs)

/-- a + t (b − a), in FP32. -/
def lerpF (keep : Bool) (t : Nat) (a b : Fr) : Fr :=
  let d := fSub fp32 keep b.w a.w
  let r := fFma fp32 keep t d.w a.w
  ⟨r.w, a.nan || b.nan || d.nan || r.nan, a.flushed || b.flushed || d.flushed || r.flushed⟩

def lerps (keep : Bool) (t : Nat) (a b : List Fr) : List Fr := List.zipWith (lerpF keep t) a b

/-- The fraction of a rational number above its floor, as an FP32 word. -/
def fracF (q : Q) : Nat := qToF32 (qSub q (qInt (qFloor q)))

/-- A bilinear sample of a level: the four texels around the point, blended along x and then along y. The manual names the
filters and not their arithmetic. (DESIGN CHOICE: log entry 44). -/
def bilinear (s : State) (c ctx : Nat) (keep : Bool) (w : List Word) (i mx my : Nat) (u v : Q) : Except Refused (State × List Fr) := do
  let h : Q := ⟨1, 2⟩
  let u := qSub (qMul u (qMk (levelW w i) (max 1 (sW w)))) h
  let v := qSub (qMul v (qMk (levelH w i) (max 1 (sH w)))) h
  let x := qFloor u
  let y := qFloor v
  let (s, a) ← texChannels s c ctx keep w i mx my x y
  let (s, b) ← texChannels s c ctx keep w i mx my (x + 1) y
  let (s, d) ← texChannels s c ctx keep w i mx my x (y + 1)
  let (s, e) ← texChannels s c ctx keep w i mx my (x + 1) (y + 1)
  return (s, lerps keep (fracF v) (lerps keep (fracF u) a b) (lerps keep (fracF u) d e))

/-- A trilinear sample: bilinear samples of two neighbouring levels, blended. (DESIGN CHOICE: log entry 44). -/
def trilinear (s : State) (c ctx : Nat) (keep : Bool) (w : List Word) (mx my : Nat) (lod u v : Q) : Except Refused (State × List Fr) := do
  let top : Q := qInt ((sLevels w - 1 : Nat) : Int)
  let l := qClamp (qInt 0) top lod
  let i := (qFloor l).toNat
  let (s, a) ← bilinear s c ctx keep w i mx my u v
  if l = qInt i then return (s, a)
  else
    let (s, b) ← bilinear s c ctx keep w (i + 1) mx my u v
    return (s, lerps keep (fracF l) a b)

/-- The mean of `n` trilinear samples that stand `du`, `dv` apart around the point. (DESIGN CHOICE: log entry 44). -/
def anisotropic (c ctx : Nat) (keep : Bool) (w : List Word) (mx my : Nat) (lod u v du dv : Q) (n : Nat) : Nat → State → List Fr → Except Refused (State × List Fr)
  | 0, s, acc => .ok (s, acc)
  | k + 1, s, acc =>
    let t := qMk (2 * k + 1 - n) 2
    match trilinear s c ctx keep w mx my lod (qAdd u (qMul t du)) (qAdd v (qMul t dv)) with
    | .error e => .error e
    | .ok (s, a) => anisotropic c ctx keep w mx my lod u v du dv n k s (if acc = [] then a else lerps keep (qToF32 (qMk 1 (n - k))) acc a)

/-- A filtered sample at texel coordinates of level 0: filter 0 point, 1 bilinear, 2 trilinear, else anisotropic with up to
8 samples. MONO32F, D32F and RGBA32F take the nearest texel (R203). (DESIGN CHOICE: log entry 44). -/
def sampleTex (s : State) (c ctx : Nat) (keep : Bool) (w : List Word) (filter mx my : Nat) (lod u v du dv : Q) : Except Refused (State × List Fr) :=
  let f := sFmt w
  let i := (clampI 0 ((sLevels w - 1 : Nat) : Int) (qRound lod)).toNat
  if filter = 0 ∨ f = 6 ∨ f = 7 ∨ f = 8 then
    texChannels s c ctx keep w i mx my (qFloor (qMul u (qMk (levelW w i) (max 1 (sW w))))) (qFloor (qMul v (qMk (levelH w i) (max 1 (sH w)))))
  else if filter = 1 then bilinear s c ctx keep w i mx my u v
  else if filter = 2 then trilinear s c ctx keep w mx my lod u v
  else let n := min 8 (filter - 1); anisotropic c ctx keep w mx my lod u v du dv n n s []

/-- One lane's fetch: the surface descriptor's address in a register pair, FP32 texel coordinates of level 0 with their
steps in the registers after them, an FP32 level. The four channels go to four registers; a conversion that produces a NaN
traps where the trap is enabled (R126). -/
def laneTexture (s : State) (p : ThreadsAt) (lid : Nat) (lch : Launch) (blk : Block) (sub : Subset) (l dst surf cx cy lev filter modeX modeY : Nat) : Except State State :=
  let ctx := lch.ref.ctx
  let refuse (e : Refused) : State := match e with
    | .access _ c a => accessFault s p 4 c a
    | .code c => threadFault s p c
  let q (r : Nat) : Q := f32ToQ (regGet s p l r).toNat
  let md := modeOf s p.core lid
  match readSurf s ctx (pairAddr s p l surf) with
  | .error e => .error (refuse e)
  | .ok (s, w) =>
    match sampleTex s p.core ctx md.1 w filter modeX modeY (q lev) (q cx) (q cy) (q (cx + 1)) (q (cy + 1)) with
    | .error e => .error (refuse e)
    | .ok (s, ch) =>
      let s := noteFlush s (16 + p.core) (ch.any Fr.flushed)
      if md.2 ∧ ch.any Fr.nan then .error (nanTrap s p lch blk sub l dst)
      else .ok (putRegs s p l dst (ch.map Fr.w))

/-- (DESIGN CHOICE: log entry 40, DESIGN CHOICE: log entry 44). -/
def shTexture (s : State) (p : ThreadsAt) (dst surf cx cy lev filter modeX modeY : Nat) : State :=
  match launchAt s p, blockAt s p with
  | some (lid, x), some blk => simple s p fun s y =>
      eachLane (fun s l => laneTexture s p lid x blk y l dst surf cx cy lev filter modeX modeY) (lanesOf y.lanes) s
  | _, _ => s

/-! ### Passes (R208 to R210) -/

def passRsv : List Word :=
  [0xFFFFF000, 0, 0x0000FFC0, 0, 0xFFFF0000, 0, 0xFFFF0000, 0, 0xFFFF0000, 0, 0, 0, 0xFFFF0000, 0, 0xFFFF0000, 0, 0xFFFF0000, 0,
   0xFFFFFFC0] ++ List.replicate 12 0xFFFFFFFF

def pMode (w : List Word) : Nat := bits (wd w 1) 1 0
def pDepthEn (w : List Word) : Bool := bit (wd w 1) 2
def pDepthWr (w : List Word) : Bool := bit (wd w 1) 3
def pDepthFn (w : List Word) : Nat := bits (wd w 1) 6 4
def pClearC (w : List Word) : Bool := bit (wd w 1) 7
def pClearD (w : List Word) : Bool := bit (wd w 1) 8
def pBlend (w : List Word) : Bool := bit (wd w 1) 9
def pW (w : List Word) : Nat := bits (wd w 2) 15 0
def pH (w : List Word) : Nat := bits (wd w 2) 31 16
def pId (w : List Word) : Nat := bits (wd w 3) 5 0
def pFrontCw (w : List Word) : Bool := bit (wd w 1) 11
def pCullBack (w : List Word) : Bool := bit (wd w 1) 10
def pTag (w : List Word) : Nat := bits (wd w 3) 31 16
def va48 (w : List Word) (i : Nat) : Nat := (wd w i).toNat + bits (wd w (i + 1)) 15 0 * 2 ^ 32
def pColour (w : List Word) : Nat := va48 w 12
def pDepth (w : List Word) : Nat := va48 w 14
def pWait (w : List Word) : Nat := bits (wd w 17) 15 0
def pMask (w : List Word) : Nat := (wd w 18).toNat
def pVary (w : List Word) : Nat := bits (wd w 19) 5 0

def freshRas : RasCtx := ⟨0, [], 0, 0, 0, [], [], []⟩
def rasOf (s : State) (c : Nat) : RasCtx := tgetD s.rs.ctx c freshRas
def setRas (s : State) (c : Nat) (x : RasCtx) : State := { s with rs := { s.rs with ctx := tput s.rs.ctx c x } }
def modRas (s : State) (c : Nat) (f : RasCtx → RasCtx) : State := setRas s c (f (rasOf s c))

/-- Completion word of a pass (R221). -/
def passWord (code : Nat) (direct : Bool) (partials : Nat) : Word := reg [fld 0 8 code, flg 8 direct, fld 16 8 (sat 255 partials)]

/-- The checks of a pass whose descriptor, program objects and surfaces have been read (R208, R209). -/
def passCheck (s : State) (ctx : Nat) (w vs fs col dep : List Word) : Option Nat :=
  let prims := (wd w 10).toNat
  match (progCheck vs).or (progCheck fs) with
  | some c => some c
  | none =>
    match (surfCheck col).or (if pDepth w = 0 then none else surfCheck dep) with
    | some c => some c
    | none =>
      if va48 w 4 % 256 ≠ 0 ∨ va48 w 6 % 256 ≠ 0 ∨ va48 w 8 % 4 ≠ 0 then some 0x06
      else if pMode w = 3 ∨ pW w = 0 ∨ 7680 < pW w ∨ pH w = 0 ∨ 4320 < pH w ∨ prims = 0 ∨ 16777216 < prims ∨ pWait w = 0
          ∨ 16667 < pWait w ∨ 32 < pVary w ∨ sW col < pW w ∨ sH col < pH w ∨ ¬ fmtColour (sFmt col) then some cRANGE
      else if pDepthEn w ∧ (pDepth w = 0 ∨ sFmt dep ≠ 7) then some cRANGE
      else if pDepth w ≠ 0 ∧ (sW dep < pW w ∨ sH dep < pH w) then some cRANGE
      else if pMask w = 0 ∨ ¬ subMask (pMask w) (coreGrant s ctx) then some cNOTGRANTED
      else none

/-- A pass as it is queued. -/
def newPass (ref : CmdRef) (w : List Word) (direct : Bool) : RPass :=
  ⟨ref, w, 0, (lanesOf (pMask w)).length, direct, 0, 0, 0, false, none, false, false, false, [], [], 0, 0, 0, [], [], 0, []⟩

/-- The mode a pass runs in (R210). -/
def passDirect (x : RasCtx) (w : List Word) : Bool :=
  if pMode w = 2 then
    x.pool == 0 || (match tget x.history (pId w) with
      | some n => decide ((wd w 16).toNat < n)
      | none => false)
  else pMode w == 1

/-- Read a structure for the Concourse. -/
def fetchStruct : State → CmdRef → Nat → Nat → Nat → Except (State × Nat) (State × List Word) := fetchFrom 0x320 uConcourse

/-- A pass at dispatch: its descriptor is read and judged under R8 and R9 before a field of it is used, its program objects
and surfaces are read, all is checked, its mode chosen, and it is queued at the back end (R208 to R210). -/
def startPass (s : State) (ref : CmdRef) (va : Nat) (ind : List (Option Nat)) : State :=
  let fail (p : State × Nat) : State := finishCmd p.1 ref (passWord p.2 false 0) 0
  match fetchStruct s ref va 128 1 with
  | .error e => fail e
  | .ok (s, w) =>
    match structOk w 128 passRsv with
    | some c => fail (s, c)
    | none =>
      let w := w.set 10 (((ind.getD 0 none).map fun v => BitVec.ofNat 32 v).getD (wd w 10))
      let w := w.set 11 (((ind.getD 1 none).map fun v => BitVec.ofNat 32 v).getD (wd w 11))
      match fetchStruct s ref (va48 w 4) 128 4 with
      | .error e => fail e
      | .ok (s, vs) =>
        match fetchStruct s ref (va48 w 6) 128 4 with
        | .error e => fail e
        | .ok (s, fs) =>
          match fetchStruct s ref (pColour w) 64 1 with
          | .error e => fail e
          | .ok (s, col) =>
            match (if pDepth w = 0 then Except.ok (s, []) else fetchStruct s ref (pDepth w) 64 1) with
            | .error e => fail e
            | .ok (s, dep) =>
              match passCheck s ref.ctx w vs fs col dep with
              | some c => fail (s, c)
              | none =>
                let direct := passDirect (rasOf s ref.ctx) w
                if ¬ direct ∧ (rasOf s ref.ctx).pool = 0 then fail (s, 0x21)
                else modRas s ref.ctx fun x => { x with passes := x.passes ++ [newPass ref w direct] }

/-- Bays a tiled pass needs (R212). (DEDUCED: log entry 43). -/
def passBays (cores bytes : Nat) : Nat := cdiv (cores + 2) (if bytes ≤ 4 then 8 else if bytes = 8 then 5 else 3)

/-! ### Bin storage (R214 to R217) -/

/-- Bin storage of a pass: surviving triangles, entries of each bin, wide triangles (R215). -/
def binBytes (prims vary wide : Nat) (entries : List Nat) : Nat :=
  prims * 3 * (16 + 4 * vary) + entries.foldl (fun n e => n + cdiv e 63 * 512) 0 + 8 * wide

def binPages (bytes : Nat) : Nat := cdiv bytes 65536

def modHead (s : State) (c : Nat) (f : RPass → RPass) : State :=
  modRas s c fun x => { x with passes := match x.passes with
    | p :: r => f p :: r
    | [] => [] }

/-- Pages of the context's pool that no pass uses. -/
def poolFree (x : RasCtx) : Nat := x.pool - x.used

/-- Give the head pass `n` more pages: the pool's, then the reserve's with a grow event, then it stalls. -/
def takePages : Nat → State → Nat → State
  | 0, s, c => modHead s c fun p => { p with stalledAt := none }
  | n + 1, s, c =>
    let x := rasOf s c
    match x.passes with
    | [] => s
    | p :: _ =>
      if 0 < poolFree x then
        takePages n (modHead (modRas s c fun x => { x with used := x.used + 1 }) c fun p => { p with pagesOwn := p.pagesOwn + 1 }) c
      else
        -- every overflow raises RAS_GROW; the grow event comes once in a run of them
        let s := raise s (cmdFault 0x350 0x30 uGallery p.ref (pId p.words) 0)
        let s := if p.overflowTold then s else
          notify { s with rs := { s.rs with grow := satInc 0xFFFFFFFF s.rs.grow } } 0x216 0x30 (c + pId p.words * 4096)
        let s := modHead s c fun p => { p with overflowTold := true }
        if 0 < s.cx.reserve then
          takePages n (modHead { s with cx := { s.cx with reserve := s.cx.reserve - 1 } } c fun p => { p with pagesRes := p.pagesRes + 1 }) c
        else modHead s c fun p => { p with stalledAt := some (p.stalledAt.getD s.now) }

/-- Free the head pass's pages: its own to the pool, borrowed ones to the reserve. -/
def freePages (s : State) (c : Nat) : State :=
  match (rasOf s c).passes with
  | [] => s
  | p :: _ =>
    let s := { s with cx := { s.cx with reserve := s.cx.reserve + p.pagesRes } }
    modHead (modRas s c fun x => { x with used := x.used - p.pagesOwn }) c fun p => { p with pagesOwn := 0, pagesRes := 0 }

/-! ### Fragments (R211, R219) -/

def f32Cmp (keep : Bool) (fn a b : Nat) : Bool :=
  match fn with
  | 0 => false | 1 => fLt fp32 keep a b | 2 => fEq fp32 keep a b | 3 => fLe fp32 keep a b | 4 => fLt fp32 keep b a
  | 5 => !fEq fp32 keep a b | 6 => fLe fp32 keep b a | _ => true

/-- Premultiplied over, in FP32: src + (1 − src.a) × dst. -/
def overF (keep : Bool) (src sa : Nat) (dst : Fr) : Fr :=
  let a := fSub fp32 keep f32One sa
  let m := fMul fp32 keep a.w dst.w
  orFlush (a.flushed || m.flushed || dst.flushed) (fAdd fp32 keep src m.w)

/-- SUBN_KEEP as work that starts now samples it (R119, R120). -/
def keepNow (s : State) : Bool := s.num.keep && s.num.svc != 0

/-- Depth test and blend of one fragment against a pixel's depth and colour: the new colour, none where the test fails, and
whether a subnormal was flushed. -/
def fragOut (keep : Bool) (w : List Word) (fmt : Nat) (f : Fragment) (z : Nat) (dst : List Byte) : Option (List Byte) × Bool :=
  let fz := pDepthEn w && !keep && (subnormal32 f.z || subnormal32 z) && pDepthFn w != 0 && pDepthFn w != 7
  if pDepthEn w ∧ ¬ f32Cmp keep (pDepthFn w) f.z z then (none, fz)
  else
    let src := [f.r, f.g, f.b, f.a]
    let d := texelFrs keep fmt dst
    let c : List Fr := if pBlend w then (List.range 4).map fun k => overF keep (src.getD k 0) f.a (d.getD k (plainFr 0)) else src.map plainFr
    (some (encodeTexel keep fmt (c.map Fr.w)), fz || c.any Fr.flushed || (encodeFrs keep fmt (c.map Fr.w)).any fun q => q.2.flushed)

/-- A surface that the pass's depth test and depth writes use: DEPTH_VA names a D32F surface. -/
def hasDepth (w dep : List Word) : Bool := pDepth w != 0 && sFmt dep == 7

/-- Fragments of the pass, in ascending primitive order: those of a triangle that was set up and covers the pixel. -/
def passFrags (p : RPass) (frags : List Fragment) : List Fragment :=
  (frags.filter fun f => decide (f.x < pW p.words ∧ f.y < pH p.words) && p.tris.any fun t => t.num == f.prim && covers t.pts f.x f.y).mergeSort
    fun a b => a.prim ≤ b.prim

/-! ### Direct mode: the ordered output unit (R219, R220) -/

/-- Test, blend and write one fragment. (DESIGN CHOICE: log entry 44). -/
def putFragment (s : State) (keep : Bool) (ctx : Nat) (w col dep : List Word) (f : Fragment) : Except Refused State := do
  let (s, z) ← if pDepthEn w then readTexel s ctx dep 0 f.x f.y else .ok (s, [])
  let (s, d) ← if pBlend w then readTexel s ctx col 0 f.x f.y else .ok (s, [])
  let o := fragOut keep w (sFmt col) f (ofLe z) d
  let s := noteFlush s uGallery o.2
  match o.1 with
  | none => return s
  | some c =>
    let s ← if pDepthEn w ∧ pDepthWr w then writeTexel s ctx dep f.x f.y (leBytes 4 f.z) else .ok s
    writeTexel s ctx col f.x f.y c

def putFragments (s : State) (keep : Bool) (ctx : Nat) (w col dep : List Word) : List Fragment → Except Refused State
  | [] => .ok s
  | f :: r =>
    match putFragment s keep ctx w col dep f with
    | .error e => .error e
    | .ok s => putFragments s keep ctx w col dep r

/-- Set the render area of a surface to its CLEAR value. -/
def clearArea (s : State) (ctx : Nat) (w surf : List Word) : Except Refused State :=
  (List.range (pW w * pH w)).foldl (fun r i =>
    match r with
    | .error e => .error e
    | .ok s => writeTexel s ctx surf (i % pW w) (i / pW w) (sClear surf)) (.ok s)

/-- The clears of a direct pass's first commit, and its shaded fragments in primitive order; the pass resumes at the
triangle after the last one committed. The window of 4,096 primitives limits how far issue runs ahead, which no commit
shows. (DESIGN CHOICE: log entry 44). -/
def commitFrags (s : State) (c : Nat) (p : RPass) (frags : List Fragment) : Except Refused State := do
  let (s, col) ← readSurf s c (pColour p.words)
  let (s, dep) ← if pDepth p.words = 0 then .ok (s, []) else readSurf s c (pDepth p.words)
  let s ← if pClearC p.words ∧ ¬ p.cleared then clearArea s c p.words col else .ok s
  let s ← if pClearD p.words ∧ ¬ p.cleared ∧ hasDepth p.words dep then clearArea s c p.words dep else .ok s
  let fs := (passFrags p frags).filter fun f => p.done ≤ f.prim
  let s ← putFragments s (keepNow s) c p.words col dep fs
  return modHead s c fun p => { p with cleared := true, done := fs.foldl (fun n f => max n (f.prim + 1)) p.done }

/-! ### Tiled mode: the tile phase (R211, R212, R218) -/

/-- Bytes of a tile region, and regions in a bay, by the colour format's bytes (R212). -/
def regionBytes (cb : Nat) : Nat := if cb ≤ 4 then 8192 else if cb = 8 then 12288 else 20480
def regionsPerBay (cb : Nat) : Nat := if cb ≤ 4 then 8 else if cb = 8 then 5 else 3

/-- Where a pixel's colour stands in the bays, its depth after it: the tile's owner is assigned round robin over the cores of
the pass in walk order, and each owner has a tile region (R211, R212). (DESIGN CHOICE: log entry 44). -/
def pixLoc (x : RasCtx) (p : RPass) (cb t px : Nat) : Nat × Nat :=
  let r := t % max 1 p.cores
  (x.bays.getD (r / regionsPerBay cb) 0, r % regionsPerBay cb * regionBytes cb + px * (cb + 4))

/-- Pixels of a raster tile within the render area: index in the tile, column, row. -/
def tilePixels (w : List Word) (t : Nat) : List (Nat × Nat × Nat) :=
  let tw := cdiv (pW w) 32
  (List.range 1024).filterMap fun k =>
    let x := t % tw * 32 + k % 32
    let y := t / tw * 32 + k / 32
    if x < pW w ∧ y < pH w then some (k, x, y) else none

def tileOf (w : List Word) (f : Fragment) : Nat := f.y / 32 * cdiv (pW w) 32 + f.x / 32

def bayRead (s : State) (l : Nat × Nat) (n : Nat) : List Byte := memGetN (bayOf s l.1).data l.2 n

/-- A surface's bytes of a tile's pixels as the tile phase starts with them: cleared in the first one, else loaded. -/
def tileInit (s : State) (c : Nat) (p : RPass) (clear : Bool) (surf : List Word) (px : List (Nat × Nat × Nat)) : Except Refused (State × List (List Byte)) :=
  if clear ∧ ¬ p.cleared then .ok (s, px.map fun _ => sClear surf) else readTexels s c surf 0 [] (px.map fun q => (q.2.1, q.2.2))

/-- Load or clear a tile's colour and depth in its bay. -/
def loadTile (s : State) (c : Nat) (p : RPass) (col dep : List Word) (t : Nat) : Except Refused State := do
  let cb := fmtBytes (sFmt col)
  let px := tilePixels p.words t
  let (s, cs) ← tileInit s c p (pClearC p.words) col px
  let (s, ds) ← if hasDepth p.words dep then tileInit s c p (pClearD p.words) dep px else .ok (s, px.map fun _ => [])
  let s := (px.zip (cs.zip ds)).foldl (fun s q =>
    let l := pixLoc (rasOf s c) p cb t q.1.1
    bayPut s l.1 l.2 (q.2.1 ++ q.2.2)) s
  return modHead s c fun p => { p with inBay := tput p.inBay t (keepNow s) }

/-- Test and blend a fragment into the tile's bay. -/
def bayFragment (c : Nat) (p : RPass) (col : List Word) (keep : Bool) (s : State) (f : Fragment) : State :=
  let cb := fmtBytes (sFmt col)
  let l := pixLoc (rasOf s c) p cb (tileOf p.words f) (f.y % 32 * 32 + f.x % 32)
  let o := fragOut keep p.words (sFmt col) f (ofLe (bayRead s (l.1, l.2 + cb) 4)) (bayRead s l cb)
  let s := noteFlush s uGallery o.2
  match o.1 with
  | none => s
  | some b => bayPut s l.1 l.2 (if pDepthEn p.words ∧ pDepthWr p.words then b ++ leBytes 4 f.z else b)

/-- The pass writes its depth surface at this resolve: only with DEPTH_WRITE, or when a later round reads it (R218). -/
def storesDepth (p : RPass) (last : Bool) : Bool := pDepthWr p.words || (!last && pDepthEn p.words)

/-- Write an 8 × 8 block of a compressed surface from new texels of its pixels (offset in the slot, bytes); texels outside
the render area keep what they hold. -/
def resolveBlock (s : State) (c : Nat) (surf : List Word) (j : Nat) (new : List (Nat × List Byte)) : Except Refused State := do
  let (s, d) ← if new.length = 64 then .ok (s, List.replicate (slotBytes surf) 0) else readBlock s c surf j
  writeBlock s c surf j (new.foldl (fun d q => splice d q.1 q.2) d) false

/-- Write a tile's pixels to a surface: block by block where it is compressed. -/
def resolveSurf (s : State) (c : Nat) (surf : List Word) (px : List (Nat × Nat × List Byte)) : Except Refused State :=
  if sComp surf then
    let at_ := px.map fun q => (texelOff surf 0 q.1 q.2.1, q.2.2)
    let js := (at_.map fun q => blockAtOff surf q.1).eraseDups
    js.foldl (fun r j =>
      match r with
      | .error e => .error e
      | .ok s => resolveBlock s c surf j ((at_.filter fun q => blockAtOff surf q.1 == j).map fun q => (q.1 - j * slotBytes surf, q.2))) (.ok s)
  else
    px.foldl (fun r q =>
      match r with
      | .error e => .error e
      | .ok s => surfWrite s c (sData surf + texelOff surf 0 q.1 q.2.1) q.2.2) (.ok s)

/-- Resolve a tile from its bay to the surfaces. -/
def resolveTile (s : State) (c : Nat) (p : RPass) (col dep : List Word) (last : Bool) (t : Nat) : Except Refused State := do
  let cb := fmtBytes (sFmt col)
  let px := tilePixels p.words t
  let at_ (k : Nat) : Nat × Nat := pixLoc (rasOf s c) p cb t k
  let cs := px.map fun q => (q.2.1, q.2.2, bayRead s (at_ q.1) cb)
  let ds := px.map fun q => (q.2.1, q.2.2, bayRead s ((at_ q.1).1, (at_ q.1).2 + cb) 4)
  let s ← resolveSurf s c col cs
  let s ← if hasDepth p.words dep ∧ storesDepth p last then resolveSurf s c dep ds else .ok s
  return modHead s c fun p => { p with inBay := tdel p.inBay t, done := t + 1 }

/-- Walk raster tiles in row-major order: each is loaded, takes its fragments in primitive order, and is resolved once
`upto` shows that its owner has gone on. -/
def walkTiles (c : Nat) (col dep : List Word) (last : Bool) (fs : List Fragment) (upto : Nat) : List Nat → State → Except Refused State
  | [], s => .ok s
  | t :: r, s =>
    match (rasOf s c).passes with
    | [] => .ok s
    | p :: _ =>
      let s1 := if (tget p.inBay t).isSome then Except.ok s else loadTile s c p col dep t
      match s1 with
      | .error e => .error e
      | .ok s =>
        let keep := ((rasOf s c).passes.headD p).inBay
        let s := (fs.filter fun f => tileOf p.words f == t).foldl (bayFragment c p col (tgetD keep t false)) s
        let s2 := if t < upto then resolveTile s c p col dep last t else Except.ok s
        match s2 with
        | .error e => .error e
        | .ok s => walkTiles c col dep last fs upto r s

/-- Part of a tile phase (`whole` false): up to the last tile that has fragments, of which each core keeps its latest in the
bays across the slot's end (R211); or the rest of it, every tile of the render area resolved. `last`: no later round
follows. (DESIGN CHOICE: log entry 44). -/
def tilePhase (s : State) (c : Nat) (p : RPass) (frags : List Fragment) (whole last : Bool) : Except Refused State := do
  let (s, col) ← readSurf s c (pColour p.words)
  let (s, dep) ← if pDepth p.words = 0 then .ok (s, []) else readSurf s c (pDepth p.words)
  let fs := (passFrags p frags).filter fun f => p.done ≤ tileOf p.words f
  let n := if whole then cdiv (pW p.words) 32 * cdiv (pH p.words) 32 else fs.foldl (fun n f => max n (tileOf p.words f + 1)) p.done
  let upto := if whole then n else n - p.cores
  let s ← walkTiles c col dep last fs upto ((List.range n).drop p.done) s
  return if whole then modHead s c fun p => { p with cleared := true, done := 0, inBay := [] } else s

/-- A tile phase, or a direct pass's commits, to its end. (DESIGN CHOICE: log entry 44). -/
def resolveFrags (s : State) (c : Nat) (p : RPass) (frags : List Fragment) (last : Bool) : Except Refused State :=
  if p.direct then commitFrags s c p frags else tilePhase s c p frags true last

/-! ### The grant of bays (R213) -/

/-- Shrink a context's grant to what was asked for: its last bays are zeroed and free. -/
def shrinkBays (s : State) (c : Nat) : State :=
  let x := rasOf s c
  if x.want < x.bays.length then
    let gone := x.bays.drop x.want
    let s := setRas { s with gal := { s.gal with bays := s.gal.bays.filter fun p => !gone.contains p.1 } } c
      { x with bays := x.bays.take x.want, grant := x.want }
    notify s 0x216 0x31 c
  else s

/-! ### The back end's steps -/

/-- A pass ends: pages, history, bays, the completion word. -/
def endPass (s : State) (c code : Nat) : State :=
  match (rasOf s c).passes with
  | [] => s
  | p :: _ =>
    let s := freePages s c
    let s := modRas s c fun x =>
      { x with passes := x.passes.drop 1, history := if code = 0 then tput x.history (pId p.words) p.prims else x.history }
    finishCmd (shrinkBays s c) p.ref (passWord code p.direct p.partials) 0

/-- The head pass ends on a refused access to its data (R170, R190), or on a descriptor that is no surface any more. -/
def passRefused (s : State) (c : Nat) (p : RPass) (e : Refused) : State :=
  match e with
  | .access kind cause va => endPass (raiseMem s (memFault 0x350 uGallery p.ref kind cause va)) c (memCode cause)
  | .code k => endPass s c k

/-- The pass with one more triangle in its bins (R214). -/
def storeTri (p : RPass) (t : Tri) : RPass :=
  let w := isWide t.pts (pW p.words) (pH p.words)
  { p with
    prims := p.prims + 1, next := t.num + 1, stored := p.stored + 1, tris := p.tris ++ [t], wide := if w then p.wide + 1 else p.wide,
    bins := if w then p.bins else (tilesOf t.pts (pW p.words) (pH p.words)).foldl (fun b k => tput b k (tgetD b k 0 + 1)) p.bins }

/-- Pages that a pass's bins need (R215). -/
def passPages (p : RPass) : Nat := binPages (binBytes p.stored (pVary p.words) p.wide (p.bins.map Prod.snd))

/-- The head pass sets up its next triangles, and in tiled mode bins them, until its list ends or a page is missing: it then
stalls at the primitive that needed the page (R208, R214 to R217). -/
def setupOn : Nat → State → Nat → State
  | 0, s, _ => s
  | n + 1, s, c =>
    match (rasOf s c).passes with
    | [] => s
    | p :: _ =>
      let va := va48 p.words 8 + 12 * p.next
      if (wd p.words 10).toNat ≤ p.next ∨ p.resolving ∨ p.stalledAt.isSome then s
      else match surfRead s c va 12 with
        | .error e => passRefused s c p e
        | .ok (s, bs) =>
          match (if p.clipped.contains p.next then none
              else setupTri p.verts (wd p.words 11).toNat (pFrontCw p.words) (pCullBack p.words) ((bytesWords bs).map BitVec.toNat)) with
          | none => setupOn n (modHead s c fun p => { p with next := p.next + 1 }) c
          | some t =>
            let q := storeTri p ⟨p.next, t⟩
            if p.direct then setupOn n (modHead s c fun p => { p with prims := p.prims + 1, next := p.next + 1, tris := q.tris }) c
            else if tilesOf t (pW p.words) (pH p.words) = [] then setupOn n (modHead s c fun p => { p with next := p.next + 1 }) c
            else
              let s := takePages (passPages q - (p.pagesOwn + p.pagesRes)) s c
              match (rasOf s c).passes with
              | [] => s
              | p :: _ => if p.stalledAt.isSome then s else setupOn n (modHead s c fun p => storeTri p ⟨p.next, t⟩) c

/-- The head pass goes on with its triangles. -/
def geometry (s : State) (c : Nat) : State :=
  match (rasOf s c).passes with
  | [] => s
  | p :: _ => setupOn ((wd p.words 10).toNat - p.next) s c

/-- A context's raster slot begins: its first pass starts, with the vertices that its vertex program gives and the triangles
that clipping removes, or resumes; `back` is the fragments that will have come back when the slot ends.
(DEDUCED: log entry 43, DESIGN CHOICE: log entry 44). -/
def rasterSlotStart (s : State) (verts : List (Nat × Nat × Nat)) (clipped : List Nat) (back : List Fragment) : State :=
  match (if s.rs.slot.isSome then none else slotCtx s uGallery) with
  | none => s
  | some c =>
    let s := { s with rs := { s.rs with slot := some c, back := back } }
    match (rasOf s c).passes with
    | [] => s
    | p :: _ =>
      if p.running then geometry s c
      else match readSurf s c (pColour p.words) with
        | .error e => passRefused s c p e
        | .ok (s, col) =>
          if ¬ p.direct ∧ (rasOf s c).grant < passBays p.cores (fmtBytes (sFmt col)) then endPass s c 0x20
          else geometry (modHead s c fun p => { p with running := true, verts := verts, clipped := clipped }) c

/-- The head pass has its whole list set up, or resolves what it has: fragments may come back. -/
def shading (p : RPass) : Bool := p.running && (p.resolving || (p.stalledAt.isNone && decide ((wd p.words 10).toNat ≤ p.next)))

/-- The raster slot ends: in tiled mode the fragments already returned are finished in the bays, in direct mode those already
shaded are committed (R211, R219). -/
def rasterSlotEnd (s : State) : State :=
  let frags := s.rs.back
  let s := match s.rs.slot.bind fun c => (rasOf s c).passes.head?.map fun p => (c, p) with
    | some (c, p) =>
      if frags = [] ∨ ¬ shading p then s
      else match (if p.direct then commitFrags s c p frags else tilePhase s c p frags false (!p.resolving)) with
        | .error e => passRefused s c p e
        | .ok s => s
    | none => s
  { s with rs := { s.rs with slot := none, back := [] } }

/-- A page is at hand: the stalls of the head passes end, in ascending context identity, and their binning goes on (R216,
R217); `n` bounds the passes that one after the other give pages back. -/
def unstallGo : Nat → State → State
  | 0, s => s
  | n + 1, s =>
    match s.rs.ctx.find? fun q => match q.2.passes with
        | p :: _ => p.stalledAt.isSome && !p.resolving && (decide (0 < poolFree q.2) || decide (0 < s.cx.reserve))
        | [] => false with
    | none => s
    | some (c, x) => unstallGo n (geometry (modHead s c fun p => { p with stalledAt := none, overflowTold := p.overflowTold && poolFree x == 0 }) c)

def unstall (s : State) : State := unstallGo (2 * s.rs.ctx.length) s

/-- GROW_WAIT_US after the stall began, with no page come: a partial resolve starts. (DEDUCED: log entry 87). -/
def growWaitExpiry (s : State) (c : Nat) : State :=
  match (rasOf s c).passes with
  | p :: _ =>
    if p.stalledAt.isSome ∧ ¬ p.resolving then
      raise (modHead { s with rs := { s.rs with partialCnt := satInc 0xFFFFFFFF s.rs.partialCnt } } c fun p =>
        { p with resolving := true, partials := p.partials + 1 }) (cmdFault 0x350 0x31 uGallery p.ref (pId p.words) 0)
    else s
  | [] => s

/-- The partial resolve ends: the tile phase over what is binned, the pages of the bins free, binning goes on at the stalled
primitive. (DESIGN CHOICE: log entry 44). -/
def partialResolveDone (s : State) (c : Nat) (frags : List Fragment) : State :=
  match (rasOf s c).passes with
  | p :: _ =>
    if p.resolving ∧ s.rs.slot = some c then
      match resolveFrags s c p frags false with
      | .error e => unstall (passRefused s c p e)
      | .ok s =>
        unstall (geometry (modHead (freePages s c) c fun p =>
          { p with resolving := false, stalledAt := none, stored := 0, wide := 0, bins := [], tris := [] }) c)
    else s
  | [] => s

/-- The fault kind of a program's code (R126, R151). -/
def codeKind (code : Nat) : Option Nat :=
  if code = 0x09 then some 0x18 else if 0x11 ≤ code ∧ code ≤ 0x13 then some 0x19
  else if code = 0x10 ∨ code = 0x14 ∨ code = 0x15 then some 0x1A else none

/-- What a program of the pass that stopped on a core raises: the kind of its code, with the pass's LAYER_TAG in the record
(R208), and for a refused access MEM_FAULT with its KIND, CAUSE and address. -/
def programFault (s : State) (p : RPass) (code core va : Nat) (extra : List Nat) : State :=
  let s := if code = 0x15 then
      raiseMem s (memFault 0x370 (16 + core) p.ref (extra.getD 0 0) (extra.getD 1 0) va) else s
  match codeKind code with
  | some k => raise s { cmdFault 0x370 k (16 + core) p.ref code 0 with extra := if code = 0x15 then [] else extra.set 2 (pTag p.words) }
  | none => s

/-- A pass ends in its slot: its last tile phase or commits, with the code of its programs, the core that stopped,
the address it was refused and what that core holds for a record. (DESIGN CHOICE: log entry 44). -/
def passComplete (s : State) (c code core va : Nat) (extra : List Nat) (frags : List Fragment) : State :=
  match (rasOf s c).passes with
  | p :: _ =>
    if s.rs.slot = some c ∧ ¬ p.resolving ∧ shading p then
      if code ≠ 0 then unstall (endPass (programFault s p code core va extra) c code)
      else match resolveFrags s c p frags true with
        | .error e => unstall (passRefused s c p e)
        | .ok s => unstall (endPass s c 0)
    else s
  | [] => s

/-- A tiled pass of the context runs. -/
def tiledRuns (x : RasCtx) : Bool :=
  match x.passes with
  | p :: _ => p.running && !p.direct
  | [] => false

/-- Passes of a destroyed queue or a torn-down context end with ABORTED. -/
def abortPasses (s : State) (pick : CmdRef → Bool) : State :=
  unstall (s.rs.ctx.foldl (fun s q =>
    let gone := (rasOf s q.1).passes.filter fun p => pick p.ref
    let s := match (rasOf s q.1).passes with
      | p :: _ => if pick p.ref then freePages s q.1 else s
      | [] => s
    let s := gone.foldl (fun s p => finishCmd s p.ref (passWord cABORTED p.direct p.partials) 0)
      (modRas s q.1 fun x => { x with passes := x.passes.filter fun p => !pick p.ref })
    if gone != [] ∧ ¬ tiledRuns (rasOf s q.1) then shrinkBays s q.1 else s) s)

/-! ### Requests (R213, R214) -/

def bodyBinDonate : Body := fun who r s =>
  match needOwn s who (wd r.block 1).toNat with
  | .error c => errRes s c
  | .ok (slot, o) =>
    if o.big ∨ o.policy = 2 then errRes s cRANGE
    else if holdsQueue s slot ∨ objRefd s slot then errRes s cINUSE
    else
      let n := runCount o.runs
      let s := unmapObj s slot none
      let s := releaseObj (setObj s slot { o with runs := [] }) slot false
      let s := { s with cx := { s.cx with reserve := s.cx.reserve + n, reserveRuns := addRuns s.cx.reserveRuns o.runs },
                        mem := { s.mem with cells := memClearRuns s.mem.cells o.runs } }
      okRes (unstall s) [BitVec.ofNat 32 (sat 0xFFFF s.cx.reserve)]

/-- Move pages between the reserve and a context's pool; pages in use stay, and the reserve gives what it has. A pool holds
no pages or at least 16 (R214): a move that would leave fewer moves none, and a pool that gives pages back keeps 16 while
some are in use. (DEDUCED: log entry 43). -/
def bodyBinPoolSet : Body := fun _ r s =>
  let c := bits (wd r.block 1) 11 0
  let n := (wd r.block 2).toNat
  if ¬ isCtx c ∨ 65535 < n ∨ (n ≠ 0 ∧ n < 16) then errRes s cRANGE
  else if ctxState s c = .free ∨ ctxState s c = .teardown then errRes s cBADSTATE
  else
    let x := rasOf s c
    if n < x.pool then
      let keep := min x.pool (max n (if x.used = 0 then 0 else max 16 x.used))
      let s := setRas { s with cx := { s.cx with reserve := s.cx.reserve + (x.pool - keep) } } c { x with pool := keep }
      okRes (unstall s) [BitVec.ofNat 32 keep]
    else
      -- pages the head pass borrowed from the reserve move into the pool first
      let lent := match x.passes with
        | p :: _ => min p.pagesRes (n - x.pool)
        | [] => 0
      let fresh := if x.pool + lent + min s.cx.reserve (n - x.pool - lent) < 16 then 0 else min s.cx.reserve (n - x.pool - lent)
      let lent := if x.pool + lent + fresh < 16 then 0 else lent
      let s := modHead s c fun p => { p with pagesOwn := p.pagesOwn + lent, pagesRes := p.pagesRes - lent,
                                             overflowTold := p.overflowTold && lent + fresh == 0 }
      let s := modRas { s with cx := { s.cx with reserve := s.cx.reserve - fresh } } c fun x =>
        { x with pool := x.pool + lent + fresh, used := x.used + lent }
      okRes (unstall s) [BitVec.ofNat 32 (x.pool + lent + fresh)]

def bodyRasBaysSet : Body := fun _ r s =>
  let c := bits (wd r.block 1) 11 0
  let n := (wd r.block 2).toNat
  let x := rasOf s c
  if ¬ isCtx c ∨ 256 < n then errRes s cRANGE
  else if ctxState s c = .free ∨ ctxState s c = .teardown then errRes s cBADSTATE
  else if x.bays.length ≤ n then
    let add := (freeBays s).reverse.take (n - x.bays.length)
    if add.length < n - x.bays.length then errRes s cNOSLOT
    else
      let s := { s with gal := { s.gal with bays := add.foldl (fun t b => tput t b ⟨c, []⟩) s.gal.bays } }
      okRes (setRas s c { x with bays := x.bays ++ add, grant := n, want := n }) [BitVec.ofNat 32 n]
  else
    let s := setRas s c { x with want := n }
    let s := if tiledRuns x then s else shrinkBays s c
    okRes s [BitVec.ofNat 32 (rasOf s c).grant]

def specBinDonate : ReqSpec := ⟨0x1B, fromO, true, len 8, [], objLock, .ready, bodyBinDonate⟩
def specBinPoolSet : ReqSpec := ⟨0x1C, fromO, false, len 12, [m12], noLocks, .ready, bodyBinPoolSet⟩
def specRasBaysSet : ReqSpec := ⟨0x39, fromO, false, len 12, [m12], noLocks, .ready, bodyRasBaysSet⟩

/-! ### Meanings -/

def execBinDonate (r : ReqIn) (s : State) : Out := .next (runRequest specBinDonate r s)
def execBinPoolSet (r : ReqIn) (s : State) : Out := .next (runRequest specBinPoolSet r s)
def execRasBaysSet (r : ReqIn) (s : State) : Out := .next (runRequest specRasBaysSet r s)
def execTextureFetch (p : ThreadsAt) (dst surf cx cy lev filter modeX modeY : Nat) (s : State) : Out :=
  .next (shTexture s p dst surf cx cy lev filter modeX modeY)
def execRasterSlotStart (verts : List (Nat × Nat × Nat)) (clipped : List Nat) (back : List Fragment) (s : State) : Out :=
  .next (rasterSlotStart s verts clipped back)
def execRasterSlotEnd (s : State) : Out := .next (rasterSlotEnd s)
def execGrowWaitExpiry (ctx : Nat) (s : State) : Out := .next (growWaitExpiry s ctx)
def execPartialResolveDone (ctx : Nat) (frags : List Fragment) (s : State) : Out := .next (partialResolveDone s ctx frags)
def execPassComplete (ctx code core va : Nat) (extra : List Nat) (frags : List Fragment) (s : State) : Out :=
  .next (passComplete s ctx code core va extra frags)

end Sys2Proof.Machine
end

