-- ==== Sys2Proof/Machine/Composite.lean ====
section
/-! DEFINITION. Row poses, feeds, presents, composition and the feed tile map (spec/07, R222 to R236). -/

namespace Sys2Proof.Machine
open Sys2Proof

/-! ### Row poses (R222 to R224) -/

/-- The pose record. -/
def poseWords (p : Pose) : List Word :=
  [sizeVer 64, BitVec.ofNat 32 p.frame, reg [fld 0 16 p.row, flg 16 (p.stream == 1), flg 17 p.extrap], lo32 p.tm, hi32 p.tm]
    ++ (List.range 11).map fun i => BitVec.ofNat 32 (p.vals.getD i 0)

def poseRsv : List Word := [0, 0xFFFC0000]

def poseAt (s : State) (st frame row : Nat) : Option Pose :=
  s.rs.poses.find? fun p => p.stream == st && p.frame == frame && p.row == row

/-- POSE_EXTRAP of a map entry that is there already. -/
def setExtrap (e : MapEnt) : MapEnt := if e.w0 / 64 % 2 = 1 then e else { e with w0 := e.w0 + 64 }

/-- The row's map entries take POSE_EXTRAP (R223). -/
def markRow (s : State) (st frame row : Nat) : State :=
  let of (k : Nat) : Bool := ((tget s.rs.feeds k).map fun f => bits (wd f.words 1) 6 6 == st).getD false
  let mark (e : MapEnt) : MapEnt := if e.frame = frame ∧ e.row = row then setExtrap e else e
  { s with
    rs := { s.rs with feeds := s.rs.feeds.map fun p => if of p.1 then (p.1, { p.2 with map := p.2.map.map mark }) else p },
    cm := { s.cm with feeds := s.cm.feeds.map fun p => if of p.1 then (p.1, { p.2 with queue := p.2.queue.map mark }) else p } }

/-- Keep a pose for composition, and forget those of frames before the previous one. -/
def keepPose (s : State) (p : Pose) : State :=
  let s := if p.extrap then markRow s p.stream p.frame p.row else s
  { s with rs := { s.rs with poses := (s.rs.poses.filter fun q => q.stream != p.stream || decide (p.frame ≤ q.frame + 1)) ++ [p] } }

/-- The row's pose was extrapolated, as far as it is settled. -/
def rowExtrap (s : State) (st frame row : Nat) : Bool := ((poseAt s st frame row).map Pose.extrap).getD false

/-- A row pose arrives, once the Gallery's domain is on (R18): it goes into the pose ring, and serves its row unless that
row was extrapolated before. -/
def rowPoseArrive (s : State) : State :=
  match s.mc.posesSent with
  | [] => s
  | p :: r =>
    if (domOf s 8).pwr ≠ 2 then refreshDoms s else
    let s := { s with mc := { s.mc with posesSent := r } }
    let s := objStore s s.hp.poseRing (s.hp.poseNext * 64) (wordBytes (poseWords p))
    let s := { s with hp := { s.hp with poseNext := (s.hp.poseNext + 1) % 4096 } }
    if (poseAt s p.stream p.frame p.row).isSome then s else keepPose s p

/-- t_m of a row, as the Gallery knows it. -/
def rowTm (s : State) (st frame row : Nat) : Option Nat :=
  let d := hdesc s st
  let x := streamOf s st
  let sent := (s.hp.tm.find? fun t => t.1 == st && t.2.1 == frame && t.2.2.1 == row).map fun t => t.2.2.2.1
  let kept := (s.mc.tm.find? fun t => t.1 == st && t.2.1 == frame && t.2.2.1 == row).map fun t => t.2.2.2.1
  let arrived := if x.frame = frame then (tget x.arrive (64 * row + validH d row / 2)).map fun a => a - hInteg d / 2 else none
  (sent.or kept).or arrived

/-- Pan and tilt of a pose advanced to a time by its rates. (DEDUCED: log entry 45). -/
def advancePose (k : Bool) (p : Pose) (tm : Nat) : Fr × Fr :=
  let dt := qToF32 (qMk ((tm : Int) - p.tm) 1000000000)
  let go (v rate : Nat) : Fr :=
    let m := fMul fp32 k rate dt
    orFlush m.flushed (fAdd fp32 k v m.w)
  (go (p.vals.getD 0 0) (p.vals.getD 9 0), go (p.vals.getD 1 0) (p.vals.getD 10 0))

/-- The row pose the composite unit uses: the one that arrived, or the previous row's extrapolated, which then
stands for the row. Row 0 takes the last row of the frame before; with no earlier pose the values are free.
(DEDUCED: log entry 45). -/
def rowPose (s : State) (st frame row : Nat) : State × Pose :=
  match poseAt s st frame row with
  | some p => (s, p)
  | none =>
    let prev := if row = 0 then poseAt s st (frame - 1) (hRows (hdesc s st) - 1) else poseAt s st frame (row - 1)
    let last := prev.or ((s.rs.poses.filter fun p => p.stream == st).getLast?)
    match last with
    | some p =>
      let tm := (rowTm s st frame row).getD p.tm
      let a := advancePose (keepNow s) p tm
      let q : Pose := ⟨st, frame, row, tm, true, (p.vals.set 0 a.1.w).set 1 a.2.w⟩
      (keepPose (noteFlush s uGallery (a.1.flushed || a.2.flushed)) q, q)
    | none =>
      let q : Pose := ⟨st, frame, row, (rowTm s st frame row).getD 0, true,
        (List.range 11).map fun i => (Config.freeWord (s.free + 1000 * i)).toNat⟩
      (keepPose (draw s) q, q)

/-! ### Feed descriptors (R228, R229) -/

def feedRsv : List Word := [0xFFFFC000, 0xFFFFF000, 0, 0, 0, 0, 0] ++ List.replicate 8 ones
def fFeed (w : List Word) : Nat := bits (wd w 1) 4 0
def fEn (w : List Word) : Bool := bit (wd w 1) 5
def fStream (w : List Word) : Nat := bits (wd w 1) 6 6
def fdDiv (w : List Word) : Nat := bits (wd w 1) 8 7
def fMatrix (w : List Word) : Bool := bit (wd w 1) 9
def fSpan8 (w : List Word) : Nat := bits (wd w 1) 13 10
def fOwner (w : List Word) : Nat := bits (wd w 2) 11 0

/-- First column, last column, first row, last row of a window word. -/
def winOf (w : Word) : Nat × Nat × Nat × Nat := (bits w 7 0, bits w 15 8, bits w 23 16, bits w 31 24)
def inWin (w : Word) (c r : Nat) : Bool :=
  let x := winOf w
  decide (x.1 ≤ c ∧ c ≤ x.2.1 ∧ x.2.2.1 ≤ r ∧ r ≤ x.2.2.2)

def inFeed (w : List Word) (c r : Nat) : Bool := inWin (wd w 3) c r
def inLayerRegion (w : List Word) (c r : Nat) : Bool := inFeed w c r && (List.range 4).any fun k => inWin (wd w (4 + k)) c r

/-- The feed's region tiles in raster order. -/
def regionTiles (w : List Word) : List (Nat × Nat) :=
  let x := winOf (wd w 3)
  (List.range (x.2.2.2 + 1)).flatMap fun r => ((List.range (x.2.1 + 1)).filter fun c => inLayerRegion w c r).map fun c => (c, r)

def windowTiles (w : List Word) : Nat :=
  let x := winOf (wd w 3)
  (x.2.1 + 1 - x.1) * (x.2.2.2 + 1 - x.2.2.1)

/-- FRAME_DIV selects a frame. -/
def feedFrame (w : List Word) (f : Nat) : Bool := fdDiv w == 0 || (fdDiv w == 1 && f % 2 == 0) || (fdDiv w == 2 && f % 2 == 1)

/-- Frames per second of a feed, as a rational. -/
def feedFps (s : State) (w : List Word) : Q :=
  let r := rateFrac s.tt.rate
  qMk r.1 (r.2 * if fdDiv w = 0 then 1 else 2)

def feedOf (s : State) (f : Nat) : Option Feed := tget s.rs.feeds f
def modFeed (s : State) (f : Nat) (g : Feed → Feed) : State := { s with rs := { s.rs with feeds := tmod s.rs.feeds f g } }

/-- block_bytes of R233: 512 for a feed whose layer is RGBA16F. Which format a feed's layers will have is not known at
its binding: one without a layer counts 4-byte layers. (DESIGN CHOICE: log entry 97). -/
def blockBytes (surf : List Word) : Nat := if surf ≠ [] ∧ sFmt surf = 5 then 512 else 256

/-- Composite demand of R233 in bytes per second, of a feed's descriptor and its layer. -/
def feedDemand (s : State) (f : List Word × List Word) : Q :=
  let w := f.1
  let per := qAdd (qMul (qInt ((fSpan8 w + 1) ^ 2 : Nat)) (qMk (2 * blockBytes f.2 + 1 : Nat) 2)) (qInt 16384)
  qMul (qMul (qInt (regionTiles w).length) (feedFps s w)) per

/-- Export demand of a stream. -/
def exportDemand (s : State) (st : Nat) : Q :=
  let d := hdesc s st
  let r := rateFrac s.tt.rate
  if ((s.hp.cfg.map HouseCfg.exports).getD []).getD st 0 = 0 ∨ ¬ hEn d then ⟨0, 1⟩
  else qMul (qInt (hCols d * hRows d * ringTile : Nat)) (qMk r.1 r.2)

/-- Every bound feed's demand, with the export, stays at or below 163.84 GB/s. -/
def galleryFits (s : State) (ws : List (List Word × List Word)) : Bool :=
  qLe (ws.foldl (fun q w => qAdd q (feedDemand s w)) (qAdd (exportDemand s 0) (exportDemand s 1))) (qInt 163840000000)

def boundFeeds (s : State) : List (List Word × List Word) := (s.rs.feeds.filter fun p => p.2.bound).map fun p => (p.2.words, p.2.surf)

/-! ### Presents (R230 to R232) -/

def presRsv : List Word := [0xFFFFFFE0, 0, 0, 0xFFFF0000, 0, 0xFFFF0000, 0xFFFFC000, 0, 0, ones, ones]
def prFeed (w : List Word) : Nat := bits (wd w 1) 4 0
def prTarget (w : List Word) : Nat := (wd w 2).toNat
def prSurf (w : List Word) : Nat := va48 w 3
def prPose (w : List Word) : Nat := va48 w 5
def prFence (w : List Word) : Nat := bits (wd w 7) 13 0
def prValue (w : List Word) : Nat := dwd w 8

/-- Accepted presents that are not released. -/
def heldPresents (f : Feed) : Nat := f.presents.length + f.layer.toList.length + f.leaving.length

/-- Release: the fence is signalled after a system-scope release (R184), the references of the submit entry dropped.
The present is out of the feed's lists already. (DEDUCED: log entry 45). -/
def releasePresent (s : State) (p : Present) : State :=
  let f := prFence p.words
  let s := match fenceOf s f with
    | some x => if fenceRight x p.ref.ctx / 2 % 2 = 1 then wake (raiseFence (sysRelease s) f (prValue p.words)) else s
    | none => s
  unref s p.objs

def releaseAll (s : State) (ps : List Present) : State := ps.foldl releasePresent s

/-- Objects of the submit entry that holds a command. -/
def entryObjs (s : State) (r : CmdRef) : List Nat :=
  (((queueOf s r.queue).map Queue.entries).getD []).flatMap fun e => if e.k = r.entry then e.objs else []

/-- A PRESENT whose feed holds 4 accepted presents waits in its queue. -/
def presentWaits (s : State) (ctx va : Nat) : Bool :=
  match readStruct s ctx va 48 1 with
  | .error _ => false
  | .ok w =>
    match feedOf s (prFeed w) with
    | some f => f.bound && fOwner f.words == ctx && decide (4 ≤ heldPresents f)
    | none => false

/-- The Gallery executes a PRESENT: it is accepted, or completes with its code. -/
def startPresent (s : State) (ref : CmdRef) (va : Nat) : State :=
  let fail (s : State) (c : Nat) : State := finishCmd s ref (BitVec.ofNat 32 c) 0
  match fetchFrom 0x350 uGallery s ref va 48 1 with
  | .error (s, c) => fail s c
  | .ok (s, w) =>
    match structOk w 48 presRsv with
    | some c => fail s c
    | none =>
      match feedOf s (prFeed w) with
      | none => fail s cNOTGRANTED
      | some f =>
        if ¬ f.bound ∨ fOwner f.words ≠ ref.ctx then fail s cNOTGRANTED
        else match fetchFrom 0x350 uGallery s ref (prSurf w) 64 1 with
          | .error (s, c) => fail s c
          | .ok (s, surf) =>
            match surfCheck surf with
            | some c => fail s c
            | none =>
              if ¬ fmtLayer (sFmt surf) then fail s cRANGE
              else fail (modFeed s (prFeed w) fun f => { f with presents := f.presents ++ [⟨ref, w, false, entryObjs s ref⟩] }) cOK

/-- The last window tile of a frame has left and its composite window is over. -/
def frameOver (s : State) (f : Feed) (frame : Nat) : Bool :=
  let x := winOf (wd f.words 3)
  f.map.any fun e => e.frame == frame && e.col == x.2.1 && e.row == x.2.2.2 && decide (e.slot + 32 ≤ s.hp.slots)

/-- Surface descriptor and render pose of a selected layer; both empty where the part cannot read them.
(DEDUCED: log entry 45). -/
def readLayer (s : State) (ctx : Nat) (p : Present) : State × List Word × List Nat :=
  match fetchFrom 0x350 uGallery s (noCmd ctx) (prSurf p.words) 64 1 with
  | .error (s, _) => (s, [], [])
  | .ok (s, surf) =>
    match fetchFrom 0x350 uGallery s (noCmd ctx) (prPose p.words) 64 1 with
    | .error (s, _) => (s, [], [])
    | .ok (s, pose) =>
      if (surfCheck surf).isSome ∨ ¬ fmtLayer (sFmt surf) ∨ (structOk pose 64 poseRsv).isSome then (s, [], [])
      else (s, surf, (List.range 11).map fun i => (wd pose (5 + i)).toNat)

/-- The best candidate of a selection: the greatest TARGET_FRAME, the last among equals. -/
def bestPresent : List Present → Option Present → Option Present
  | [], b => b
  | p :: r, none => bestPresent r (some p)
  | p :: r, some b => bestPresent r (if prTarget b.words ≤ prTarget p.words then some p else some b)

/-- The selection of R231 for feed frame `frame`. -/
def selectLayer (s : State) (k : Nat) (frame : Nat) : State :=
  match feedOf s k with
  | none => s
  | some f =>
    let cand := f.presents.filter fun p => decide (prTarget p.words ≤ frame)
    let best := if f.dropped then none else bestPresent cand f.layer
    let s := match best with
      | none => modFeed s k fun f => { f with sel := some frame }
      | some b =>
        let passed := cand.filter fun p => !(p == b)
        let later := f.presents.filter fun p => !decide (prTarget p.words ≤ frame)
        let old : List Present := match f.layer with
          | some l => if l == b then [] else [l]
          | none => []
        let last := f.sel.getD 0
        let overs := frameOver s f last
        let s := modFeed s k fun f =>
          { f with presents := later, layer := some { b with used := true }, sel := some frame,
                   leaving := f.leaving ++ (if overs then [] else old.map fun o => (o, last)) }
        releaseAll s (passed ++ if overs then old else [])
    match (feedOf s k).bind Feed.layer with
    | none => modFeed s k fun f => { f with surf := [], pose := [] }
    | some p =>
      let (s, surf, pose) := readLayer s (fOwner f.words) p
      modFeed s k fun f => { f with surf := surf, pose := pose }

/-! ### The feed tile map (R234) -/

/-- Write a map entry; the ring holds four frames. A coded feed's coder sees the tile from now on.
(DEDUCED: log entry 45). -/
def putEntry (s : State) (k : Nat) (e : MapEnt) : State :=
  let ins (q : List MapEnt) : List MapEnt := (q.takeWhile fun x => x.tseq < e.tseq) ++ [e] ++ (q.dropWhile fun x => x.tseq < e.tseq)
  let s := modFeed s k fun f =>
    let step := if fdDiv f.words = 0 then 1 else 2
    { f with map := (f.map.filter fun x => x.tseq != e.tseq && decide (e.frame < x.frame + 4 * step)) ++ [e] }
  { s with cm := { s.cm with feeds := tmod s.cm.feeds k fun c => { c with queue := ins c.queue } } }

/-- Flags of word 0 of an entry: SRC, NONE, REUSED, LATE, SKIP, HOUSE_LATE, POSE_EXTRAP, INDEX. -/
def entryWord (src none' reused late skip house extrap : Bool) (index : Nat) : Nat :=
  (reg [flg 0 src, flg 1 none', flg 2 reused, flg 3 late, flg 4 skip, flg 5 house, flg 6 extrap, fld 16 16 index]).toNat

/-- LAYER_NONE and LAYER_REUSED of the current frame. -/
def layerFlags (f : Feed) (frame : Nat) : Bool × Bool :=
  match f.layer with
  | some p => if f.dropped ∨ f.surf = [] then (true, false) else (false, prTarget p.words != frame)
  | none => (true, false)

/-- The feed takes the tile. -/
def takesTile (f : Feed) (l : Left) : Bool :=
  f.bound && fStream f.words == l.t.stream && feedFrame f.words l.t.frame && inFeed f.words l.t.col l.t.row

/-- A tile that left, for one feed. -/
def feedTile (s : State) (k : Nat) (l : Left) : State :=
  match feedOf s k with
  | none => s
  | some f0 =>
    if ¬ takesTile f0 l then s
    else
      let s := if f0.sel = some l.t.frame then s else selectLayer s k l.t.frame
      let f := (feedOf s k).getD f0
      if inLayerRegion f.words l.t.col l.t.row then
        { s with rs := { s.rs with comps := s.rs.comps ++
          [⟨k, l.tseq, l.t.slot, l.t.stream, l.t.frame, l.t.col, l.t.row, l.seed, l.vw, l.vh, l.chk, l.late, false, false, false⟩] } }
      else
        let fl := layerFlags f l.t.frame
        putEntry s k ⟨l.tseq, l.t.frame, l.t.col, l.t.row, entryWord false fl.1 fl.2 false false l.late (rowExtrap s l.t.stream l.t.frame l.t.row) 0,
          l.chk, l.seed, l.vw, l.vh, l.t.slot, []⟩

/-- The bay and the byte at which an output slot's entry of the composite ring begins: four entries to a bay. -/
def ringEntry (s : State) (slot : Nat) : Nat × Nat := (s.rs.compRing.getD (slot % 32 / 4) 512, 16384 * (slot % 4))

/-- If any feed composites the tile, the version that left is copied into the composite ring (R233). -/
def ringCopy (s : State) (l : Left) : State :=
  if s.rs.feeds.any fun p => takesTile p.2 l && inLayerRegion p.2.words l.t.col l.t.row then
    let e := ringEntry s l.t.slot
    bayPut s e.1 e.2 (versionBytes l.seed l.vw l.vh)
  else s

/-! ### Re-projection (R225, R226) -/

def a32 (k : Bool) (a b : Fr) : Fr := orFlush (a.flushed || b.flushed) (fAdd fp32 k a.w b.w)
def s32 (k : Bool) (a b : Fr) : Fr := orFlush (a.flushed || b.flushed) (fSub fp32 k a.w b.w)
def m32 (k : Bool) (a b : Fr) : Fr := orFlush (a.flushed || b.flushed) (fMul fp32 k a.w b.w)
def d32 (k : Bool) (a b : Fr) : Fr := orFlush (a.flushed || b.flushed) (fDiv fp32 k a.w b.w)
def i32 (v : Int) : Fr := fOfInt fp32 v
def oneFr : Fr := plainFr f32One
def sinF (k : Bool) (a : Nat) : Fr := approxF k .sin a
def cosF (k : Bool) (a : Nat) : Fr := approxF k .cos a
def negFr (a : Fr) : Fr := { a with w := fNeg fp32 a.w }

abbrev Vec3 := Fr × Fr × Fr

/-- Right-handed rotations of a vector by an angle's sine and cosine; `inv` reverses them. -/
def rotX (k inv : Bool) (a : Nat) (v : Vec3) : Vec3 :=
  let sn := if inv then negFr (sinF k a) else sinF k a
  let c := cosF k a
  (v.1, s32 k (m32 k c v.2.1) (m32 k sn v.2.2), a32 k (m32 k sn v.2.1) (m32 k c v.2.2))
def rotY (k inv : Bool) (a : Nat) (v : Vec3) : Vec3 :=
  let sn := if inv then negFr (sinF k a) else sinF k a
  let c := cosF k a
  (a32 k (m32 k c v.1) (m32 k sn v.2.2), v.2.1, s32 k (m32 k c v.2.2) (m32 k sn v.1))
def rotZ (k inv : Bool) (a : Nat) (v : Vec3) : Vec3 :=
  let sn := if inv then negFr (sinF k a) else sinF k a
  let c := cosF k a
  (s32 k (m32 k c v.1) (m32 k sn v.2.1), a32 k (m32 k sn v.1) (m32 k c v.2.1), v.2.2)

/-- rot(p) = Ry × Rx × Rz applied to a vector, and its transpose. -/
def rotP (k : Bool) (p : List Nat) (v : Vec3) : Vec3 := rotY k false (p.getD 0 0) (rotX k false (p.getD 1 0) (rotZ k false (p.getD 2 0) v))
def rotPT (k : Bool) (p : List Nat) (v : Vec3) : Vec3 := rotZ k true (p.getD 2 0) (rotX k true (p.getD 1 0) (rotY k true (p.getD 0 0) v))

/-- Field i of a pose as an operand. -/
def poseFr (p : List Nat) (i : Nat) : Fr := plainFr (p.getD i 0)

/-- One pass of the distortion's removal. -/
def undistort (k : Bool) (o : List Nat) (xd yd : Fr) : Nat → Fr × Fr → Fr × Fr
  | 0, u => u
  | n + 1, u =>
    let rsq := a32 k (m32 k u.1 u.1) (m32 k u.2 u.2)
    let d := a32 k (a32 k oneFr (m32 k (poseFr o 6) rsq)) (m32 k (m32 k (poseFr o 7) rsq) rsq)
    undistort k o xd yd n (d32 k xd d, d32 k yd d)

/-- A grid point of a tile in the layer: lx, ly, and whether it is valid; each value says whether a subnormal was
flushed on the way to it. (DEDUCED: log entry 45). -/
def gridPoint (k : Bool) (o q : List Nat) (u v : Nat) : Fr × Fr × Bool :=
  let xd := d32 k (s32 k (i32 u) (poseFr o 4)) (poseFr o 3)
  let yd := d32 k (s32 k (i32 v) (poseFr o 5)) (poseFr o 3)
  let un := undistort k o xd yd 4 (xd, yd)
  let w := rotPT k q (rotP k o (un.1, un.2, oneFr))
  (a32 k (d32 k (m32 k (poseFr q 3) w.1) w.2.2) (poseFr q 4), a32 k (d32 k (m32 k (poseFr q 3) w.2.1) w.2.2) (poseFr q 5),
    fLt fp32 k 0 w.2.2.w)

abbrev Grid := List (Fr × Fr × Bool)

/-- The 81 grid points of a tile, row by row. -/
def gridOf (k : Bool) (o q : List Nat) (c r : Nat) : Grid :=
  (List.range 81).map fun i => gridPoint k o q (64 * c + 8 * (i % 9)) (64 * r + 8 * (i / 9))

def gridFlushed (g : Grid) : Bool := g.any fun p => p.1.flushed || p.2.1.flushed

/-- The bounding box of the mapped grid points, valid or not, widened by one texel on each side: low x, high x, low y,
high y. A point that is not finite makes it unbounded: none. (DESIGN CHOICE: log entry 97). -/
def gridBox : Grid → Option (Q × Q × Q × Q)
  | [] => none
  | p :: r =>
    if (p :: r).any fun p => !f32Finite p.1.w || !f32Finite p.2.1.w then none
    else
      let x0 := f32ToQ p.1.w
      let y0 := f32ToQ p.2.1.w
      let b := r.foldl (fun (b : Q × Q × Q × Q) p =>
        (qMin b.1 (f32ToQ p.1.w), qMax b.2.1 (f32ToQ p.1.w), qMin b.2.2.1 (f32ToQ p.2.1.w), qMax b.2.2.2 (f32ToQ p.2.1.w)))
          (x0, x0, y0, y0)
      some (qSub b.1 (qInt 1), qAdd b.2.1 (qInt 1), qSub b.2.2.1 (qInt 1), qAdd b.2.2.2 (qInt 1))

/-- The box is wider or taller than SPAN texels. -/
def beyondSpan (span : Nat) (g : Grid) : Bool :=
  match gridBox g with
  | none => true
  | some b => qLt (qInt span) (qSub b.2.1 b.1) || qLt (qInt span) (qSub b.2.2.2 b.2.2.1)

/-! ### Layer samples and blending (R225, R227) -/

/-- One channel of a layer sample: a NaN reads as +0, and it is clamped to [0, 1]. -/
def clamp01 (k : Bool) (x : Fr) : Fr :=
  if isNan32 x.w then { x with w := 0 } else if fLt fp32 k x.w 0 then { x with w := 0 }
  else if fLt fp32 k f32One x.w then { x with w := f32One } else x

/-- The texels at points of the layer's level 0, by y · 2^16 + x; each block of a compressed layer is read once. A failed
read gives no layer data, and raises its fault. (DEDUCED: log entry 45). -/
def readBox (s : State) (k : Bool) (ctx : Nat) (surf : List Word) (ps : List (Nat × Nat)) : State × List (Nat × List Fr) :=
  match readTexels s ctx surf 0 [] ps with
  | .ok (s, bs) => (s, (ps.zip bs).map fun p => (p.1.2 * 65536 + p.1.1, texelFrs k (sFmt surf) p.2))
  | .error (.access kind cause va) => (raiseMem s (memFault 0x350 uGallery (noCmd ctx) kind cause va), [])
  | .error (.code _) => (s, [])

/-- The texels that lie in the box. -/
def boxTexels (surf : List Word) (b : Q × Q × Q × Q) : List (Nat × Nat) :=
  let clip (n : Nat) (v : Int) : Nat := (clampI 0 n v).toNat
  let x0 := clip (sW surf) (qFloor b.1)
  let x1 := clip (sW surf) (qFloor b.2.1 + 1)
  let y0 := clip (sH surf) (qFloor b.2.2.1)
  let y1 := clip (sH surf) (qFloor b.2.2.2 + 1)
  (List.range (y1 - y0)).flatMap fun j => (List.range (x1 - x0)).map fun i => (x0 + i, y0 + j)

def noLayer : List Fr := List.replicate 4 (plainFr 0)

def texelIn (t : List (Nat × List Fr)) (surf : List Word) (x y : Int) : List Fr :=
  if x < 0 ∨ y < 0 ∨ (sW surf : Int) ≤ x ∨ (sH surf : Int) ≤ y then noLayer else tgetD t (y.toNat * 65536 + x.toNat) noLayer

/-- (1 − f) · a + f · b. -/
def lerp (k : Bool) (f a b : Fr) : Fr := a32 k (m32 k (s32 k oneFr f) a) (m32 k f b)
def lerp2 (k : Bool) (fx fy a b c d : Fr) : Fr := lerp k fy (lerp k fx a b) (lerp k fx c d)

/-- The layer at pixel (px, py) of the tile: R, G, B, α, clamped. -/
def layerAt (k : Bool) (t : List (Nat × List Fr)) (surf : List Word) (g : Grid) (px py : Nat) : List Fr :=
  let p (dx dy : Nat) : Fr × Fr × Bool := g.getD ((py / 8 + dy) * 9 + px / 8 + dx) (plainFr 0, plainFr 0, false)
  if ¬ ((p 0 0).2.2 ∧ (p 1 0).2.2 ∧ (p 0 1).2.2 ∧ (p 1 1).2.2) then noLayer
  else
    let fx := plainFr (qToF32 (qMk (2 * (px % 8) + 1 : Nat) 16))
    let fy := plainFr (qToF32 (qMk (2 * (py % 8) + 1 : Nat) 16))
    let half := plainFr (qToF32 ⟨1, 2⟩)
    let lx := s32 k (lerp2 k fx fy (p 0 0).1 (p 1 0).1 (p 0 1).1 (p 1 1).1) half
    let ly := s32 k (lerp2 k fx fy (p 0 0).2.1 (p 1 0).2.1 (p 0 1).2.1 (p 1 1).2.1) half
    let x0 := qFloor (f32ToQ lx.w)
    let y0 := qFloor (f32ToQ ly.w)
    let sx := s32 k lx (i32 x0)
    let sy := s32 k ly (i32 y0)
    let q (dx dy : Int) : List Fr := texelIn t surf (x0 + dx) (y0 + dy)
    let z := plainFr 0
    (List.range 4).map fun c => clamp01 k (lerp2 k sx sy ((q 0 0).getD c z) ((q 1 0).getD c z) ((q 0 1).getD c z) ((q 1 1).getD c z))

/-- Luma coefficients kr and kb. (DEDUCED: log entry 45). -/
def lumaK (bt2020 : Bool) : Fr × Fr :=
  if bt2020 then (plainFr (qToF32 ⟨2627, 10000⟩), plainFr (qToF32 ⟨593, 10000⟩))
  else (plainFr (qToF32 ⟨2126, 10000⟩), plainFr (qToF32 ⟨722, 10000⟩))

/-- yl, cbl, crl of a layer sample. -/
def layerYcc (k : Bool) (l : Fr × Fr) (c : List Fr) : Fr × Fr × Fr :=
  let z := plainFr 0
  let r := c.getD 0 z
  let g := c.getD 1 z
  let b := c.getD 2 z
  let yl := a32 k (a32 k (m32 k l.1 r) (m32 k (s32 k (s32 k oneFr l.1) l.2) g)) (m32 k l.2 b)
  let two := i32 2
  (yl, d32 k (s32 k b yl) (m32 k two (s32 k oneFr l.2)), d32 k (s32 k r yl) (m32 k two (s32 k oneFr l.1)))

/-- An FP32 result as a 16-bit sample: to nearest with ties to even, saturated. -/
def sample16 (w : Nat) : Nat := if isNan32 w then 0 else if ¬ f32Finite w then (if w / 2 ^ 31 = 1 then 0 else 65535) else (clampI 0 65535 (qRound (f32ToQ w))).toNat

/-- A sample: its value, and whether a subnormal was flushed on the way to it. -/
def sampleFr (k : Bool) (x : Fr) : Nat × Bool := (sample16 x.w, x.flushed || (!k && subnormal32 x.w))

def yOut (k : Bool) (yl a : Fr) (house : Nat) : Nat × Bool :=
  sampleFr k (a32 k (m32 k (i32 65535) yl) (m32 k (s32 k oneFr a) (i32 house)))
def cOut (k : Bool) (c0 c1 a0 a1 : Fr) (house : Nat) : Nat × Bool :=
  let two := i32 2
  let ac := d32 k (a32 k a0 a1) two
  let lay := d32 k (m32 k (i32 65535) (a32 k c0 c1)) two
  sampleFr k (a32 k (a32 k lay (m32 k (s32 k oneFr ac) (s32 k (i32 house) (i32 32768)))) (i32 32768))

/-- The samples of the composited tile in plane order: `house` gives sample i of the version, `layer` the layer at
a pixel. (DEDUCED: log entry 45). -/
def blendSamples (k bt2020 : Bool) (house : Nat → Nat) (layer : Nat → Nat → List Fr) : List (Nat × Bool) :=
  let l := lumaK bt2020
  let z := plainFr 0
  let y := (List.range 4096).map fun i =>
    let c := layer (i % 64) (i / 64)
    yOut k (layerYcc k l c).1 (c.getD 3 z) (house i)
  let c (cr : Bool) : List (Nat × Bool) := (List.range 2048).map fun i =>
    let l0 := layer (2 * (i % 32)) (i / 32)
    let l1 := layer (2 * (i % 32) + 1) (i / 32)
    let f (x : List Fr) : Fr := if cr then (layerYcc k l x).2.2 else (layerYcc k l x).2.1
    cOut k (f l0) (f l1) (l0.getD 3 z) (l1.getD 3 z) (house (4096 + (if cr then 2048 else 0) + i))
  y ++ c false ++ c true

/-- The composited tile, two bytes a sample. (DEDUCED: log entry 45). -/
def blendTile (k bt2020 : Bool) (house : Nat → Nat) (layer : Nat → Nat → List Fr) : List Byte :=
  (blendSamples k bt2020 house layer).flatMap fun v => leBytes 2 v.1

/-! ### Composition (R223, R226, R233 to R235) -/

def compOf (s : State) (k tseq : Nat) : Option Comp := s.rs.comps.find? fun c => c.feed == k && c.tseq == tseq
def setComp (s : State) (k tseq : Nat) (f : Comp → Comp) : State :=
  { s with rs := { s.rs with comps := s.rs.comps.map fun c => if c.feed = k ∧ c.tseq = tseq then f c else c } }
def dropComp (s : State) (k tseq : Nat) : State :=
  { s with rs := { s.rs with comps := s.rs.comps.filter fun c => !(c.feed == k && c.tseq == tseq) } }

/-- The feed has a layer to composite. -/
def hasLayer (f : Feed) : Bool := f.layer.isSome && !f.dropped && f.surf != []

/-- The composite unit starts a feed tile: SUBN_KEEP is sampled (R120), its row pose settled and the footprint limit
applied. -/
def compositeStart (s : State) (k tseq : Nat) : State :=
  match feedOf s k, compOf s k tseq with
  | some f, some c =>
    let kp := keepNow s
    if c.started then s
    else if hasLayer f then
      let (s, p) := rowPose s c.stream c.frame c.row
      let g := gridOf kp p.vals f.pose c.col c.row
      let skip := beyondSpan (8 * fSpan8 f.words) g
      let s := noteFlush (if skip then raise s (ctxFault 0x350 0x33 uGallery (fOwner f.words) k tseq) else s) uGallery (gridFlushed g)
      setComp s k tseq fun c => { c with started := true, skip := skip, keep := kp }
    else setComp s k tseq fun c => { c with started := true, keep := kp }
  | _, _ => s

/-- The entry of a region tile that takes the house picture. -/
def houseEntry (s : State) (f : Feed) (c : Comp) (late : Bool) : MapEnt :=
  let fl := layerFlags f c.frame
  ⟨c.tseq, c.frame, c.col, c.row, entryWord false fl.1 fl.2 late c.skip c.houseLate (rowExtrap s c.stream c.frame c.row) 0, c.chk, c.seed,
    c.validW, c.validH, c.slot, []⟩

/-- Entry of the composite buffer: two frames of region tiles. -/
def bufferIndex (w : List Word) (frame c r : Nat) : Nat :=
  let ts := regionTiles w
  let step := if fdDiv w = 0 then 1 else 2
  frame / step % 2 * ts.length + (ts.takeWhile fun t => !(t.1 == c && t.2 == r)).length

/-- Sample i of the version that left, in its entry of the composite ring. -/
def compSample (s : State) (c : Comp) (i : Nat) : Nat :=
  let e := ringEntry s c.slot
  ofLe (memGetN (bayOf s e.1).data (e.2 + 2 * i) 2)

/-- A composite completes: the blended tile, or the house picture where there is no layer or the footprint was
too large; a refused layer read gives no layer data. `chkOk`: the version's check held. -/
def compositeComplete (s : State) (k tseq : Nat) (chkOk : Bool) : State :=
  match feedOf s k, compOf s k tseq with
  | some f, some c =>
    if ¬ c.started then s
    else
      let s := if chkOk then s else tileFault s 0x350 uGallery c.stream tseq
      let s := dropComp s k tseq
      if ¬ hasLayer f ∨ c.skip then putEntry s k (houseEntry s f c false)
      else
        let o := (poseAt s c.stream c.frame c.row).map Pose.vals
        let g := gridOf c.keep (o.getD []) f.pose c.col c.row
        let box := ((gridBox g).map fun b => boxTexels f.surf b).getD []
        let res := readBox s c.keep (fOwner f.words) f.surf box
        let sam := blendSamples c.keep (fMatrix f.words) (compSample s c) fun x y => layerAt c.keep res.2 f.surf g x y
        let pix := sam.flatMap fun v => leBytes 2 v.1
        let fl := layerFlags f c.frame
        putEntry (noteFlush res.1 uGallery (sam.any fun v => v.2)) k ⟨c.tseq, c.frame, c.col, c.row,
          entryWord true fl.1 fl.2 false false c.houseLate (rowExtrap s c.stream c.frame c.row) (bufferIndex f.words c.frame c.col c.row),
          crc32c pix, c.seed, c.validW, c.validH, c.slot, pix⟩
  | _, _ => s

/-- Composites of the tile that are not complete are abandoned. -/
def abandon (s : State) (tseq : Nat) : State :=
  (s.rs.comps.filter fun c => c.tseq == tseq).foldl (fun s c =>
    match feedOf s c.feed with
    | none => dropComp s c.feed tseq
    | some f =>
      let s := raise s (ctxFault 0x350 0x34 uGallery (fOwner f.words) c.feed tseq)
      let s := putEntry (dropComp s c.feed tseq) c.feed (houseEntry s f c true)
      modFeed s c.feed fun f => { f with late := satInc 0xFFFF f.late }) s

/-- The composite window of a tile ends; the last window of a frame releases the presents that frame was the last
to use. -/
def windowEnd (s : State) (tseq : Nat) : State :=
  let s := abandon s tseq
  s.rs.feeds.foldl (fun s p =>
    match feedOf s p.1 with
    | none => s
    | some f =>
      let x := winOf (wd f.words 3)
      match f.map.find? fun e => e.tseq == tseq && e.col == x.2.1 && e.row == x.2.2.2 with
      | none => s
      | some e =>
        let gone := (f.leaving.filter fun l => decide (l.2 ≤ e.frame)).map Prod.fst
        releaseAll (modFeed s p.1 fun f => { f with leaving := f.leaving.filter fun l => !decide (l.2 ≤ e.frame) }) gone) s

/-- TILE_OUTPUT_SLOT: composites whose window the slot ends are abandoned; the tile of the present output slot leaves, to
the export, to the composite ring and to each feed in ascending number. -/
def tileOutput (s : State) : State :=
  let s := ((s.rs.comps.filter fun c => decide (c.slot + 32 ≤ s.hp.slots)).map Comp.tseq).foldl abandon s
  match tileLeave s with
  | (s, none) => s
  | (s, some l) => (List.range 32).foldl (fun s k => feedTile s k l) (ringCopy s l)

/-! ### Binding and teardown (R228, R232, R236) -/

/-- A feed whose binding ends: its presents are released, its composites end, its coding stops.
(DEDUCED: log entry 45). -/
def unbindFeed (s : State) (k : Nat) : State :=
  match feedOf s k with
  | none => s
  | some f =>
    let ps := f.presents ++ f.layer.toList ++ f.leaving.map Prod.fst
    let s := { s with rs := { s.rs with feeds := tdel s.rs.feeds k, comps := s.rs.comps.filter fun c => c.feed != k },
                      cm := { s.cm with feeds := tdel s.cm.feeds k } }
    releaseAll s ps

/-- The frame boundary unbinds the feeds whose end is due. -/
def unbindDue (s : State) : State :=
  s.rs.feeds.foldl (fun s p => if p.2.ending then unbindFeed s p.1 else s) s

/-- The owner of feeds is torn down: its layers are dropped, composited tiles not coded yet take the house
picture. Presents end without a signal: the context's fences end under R322. (DEDUCED: log entry 45). -/
def dropOwner (s : State) (ctx : Nat) : State :=
  let none' (e : MapEnt) : MapEnt :=
    if e.w0 % 2 = 1 then
      { e with w0 := e.w0 % 65536 - 1 - (if e.w0 / 4 % 2 = 1 then 4 else 0) + (if e.w0 / 2 % 2 = 1 then 0 else 2),
               chk := crc32c (versionBytes e.seed e.validW e.validH), pix := [] }
    else e
  s.rs.feeds.foldl (fun s p =>
    if fOwner p.2.words = ctx then
      let ps := p.2.presents ++ p.2.layer.toList ++ p.2.leaving.map Prod.fst
      let s := modFeed s p.1 fun f => { f with presents := [], layer := none, leaving := [], dropped := true, surf := [], pose := [],
                                               map := f.map.map none' }
      let s := { s with cm := { s.cm with feeds := tmod s.cm.feeds p.1 fun c => { c with queue := c.queue.map none' } } }
      ps.foldl (fun s x => unref s x.objs) s
    else s) s

/-- (DEDUCED: log entry 45). -/
def bodyFeedBind : Body := fun _ r s =>
  let w := (r.block.drop 1).take 16
  let k := fFeed w
  match (if deepEntry s then some cBUSY else structOk w 64 feedRsv) with
  | some c => errRes s c
  | none =>
    if ¬ fEn w then
      match feedOf s k with
      | none => errRes s cBADSTATE
      | some _ => okRes (if s.tt.active.isSome ∨ s.tt.set then modFeed s k fun f => { f with ending := true } else unbindFeed s k) []
    else
      let d := hdesc s (fStream w)
      let x := winOf (wd w 3)
      let o := fOwner w
      if fdDiv w = 3 ∨ fSpan8 w = 0 ∨ 12 < fSpan8 w ∨ ¬ isCtx o then errRes s cRANGE
      else if ctxState s o = .free ∨ ctxState s o = .teardown ∨ (feedOf s k).isSome then errRes s cBADSTATE
      else if ¬ hEn d ∨ ((s.hp.cfg.map HouseCfg.exports).getD []).getD (fStream w) 0 = 0 ∨ x.2.1 < x.1 ∨ x.2.2.2 < x.2.2.1
          ∨ hCols d ≤ x.2.1 ∨ hRows d ≤ x.2.2.2 ∨ ¬ galleryFits s ((w, []) :: boundFeeds s) then errRes s cRANGE
      else
        let bays := (freeBays s).reverse.take 8
        if s.rs.compRing = [] ∧ bays.length < 8 then errRes s cNOSLOT
        else
          let s := if s.rs.compRing ≠ [] then s else
            { s with rs := { s.rs with compRing := bays },
                     gal := { s.gal with bays := bays.foldl (fun t b => tput t b ⟨0x310, []⟩) s.gal.bays } }
          okRes { s with rs := { s.rs with feeds := tput s.rs.feeds k ⟨true, false, w, [], none, [], [], false, none, [], 0, []⟩ } } []

def specFeedBind : ReqSpec :=
  ⟨0x37, fromO, true, len 68, [], fun _ r _ => [.feed (bits (wd r.block 2) 4 0)], .ready, bodyFeedBind⟩

/-! ### Meanings -/

def execFeedBind (r : ReqIn) (s : State) : Out := .next (runRequest specFeedBind r s)
def execTileOutputSlot (s : State) : Out := .next (tileOutput s)
def execRowPoseArrive (s : State) : Out := .next (rowPoseArrive s)
def execCompositeStart (feed tseq : Nat) (s : State) : Out := .next (compositeStart s feed tseq)
def execCompositeComplete (feed tseq : Nat) (chkOk : Bool) (s : State) : Out := .next (compositeComplete s feed tseq chkOk)
def execCompositeWindowEnd (tseq : Nat) (s : State) : Out := .next (windowEnd s tseq)

end Sys2Proof.Machine
end

