-- ==== Sys2Proof/Machine/Compress.lean ====
section
/-! DEFINITION. The Compression Engine (spec/08): coded blocks, state slots, ENCODE and DECODE jobs, feed
coding. The payload syntax of a coded block is not given: it is an opaque function of the parameters, the
coded history since the reset point, and the samples. -/

namespace Sys2Proof.Machine
open Sys2Proof

/-! ### Sizes and blocks (R240 to R244) -/

def depthBits (code : Nat) : Nat := if code = 0 then 8 else if code = 1 then 10 else if code = 2 then 12 else 16
def ratioOf (code : Nat) : Nat :=
  match code with
  | 0 => 2 | 1 => 3 | 2 => 4 | 3 => 6 | 4 => 8 | _ => 12

/-- Coded block size C. -/
def codedSize (ratio depth : Nat) : Nat := 16 * depthBits depth / ratioOf ratio

/-- CRC-16, polynomial 0x1021 reflected, initial value 0xFFFF, no final XOR. (DEDUCED: log entry 90). -/
def crc16Byte (c b : Nat) : Nat :=
  (List.range 8).foldl (fun c _ => if c % 2 = 1 then Nat.xor (c / 2) 0x8408 else c / 2) (Nat.xor c b)
/-- (DEDUCED: log entry 90). -/
def crc16 (bs : List Byte) : Nat := bs.foldl (fun c b => crc16Byte c b.toNat) 0xFFFF

/-- A 16-bit sample at depth D: s / 2^(16 − D) to nearest with ties to even, saturated. -/
def toDepth (depth v : Nat) : Nat := min (shrEven v (16 - depthBits depth)) (2 ^ depthBits depth - 1)

/-- Parameters a coded block depends on: ratio, depth, effort, plane, block position, and the coded bytes since the
reset point. -/
def blockParams (ratio depth effort plane bx by_ : Nat) (hist : List (List Nat)) : List Nat :=
  [ratio, depth, effort, plane, bx, by_] ++ hist.flatMap fun h => h

def padBytes (n : Nat) (bs : List Byte) : List Byte := (bs ++ List.replicate n 0).take n

/-- The D-bit samples that a coded block reconstructs to. -/
def reconstruct (params : List Nat) (depth : Nat) (coded : List Byte) : List Nat :=
  let r := Config.decodedBlock params coded
  (List.range 128).map fun i => ofLe [r.getD (2 * i) 0, r.getD (2 * i + 1) 0] % 2 ^ depthBits depth

/-- A coded block of C bytes with its CRC, and its error. The lossless coding is formed first: it is emitted with LL = 1
where it fits in the C − 3 payload bytes and is lossless, that is, a decoder gets the samples back from it; else a lossy
coding with LL = 0 (R243). The reconstruction is a decoder's, which knows no effort level (R246).
(DEDUCED: log entry 46). -/
def encodeBlock (ratio depth effort plane bx by_ : Nat) (hist : List (List Nat)) (samples : List Nat) : List Byte × Nat :=
  let conv := samples.map (toDepth depth)
  let raw := conv.flatMap fun v => leBytes 2 v
  let params := blockParams ratio depth effort plane bx by_ hist
  let n := codedSize ratio depth
  let decode (body : List Byte) : List Nat := reconstruct (blockParams ratio depth 0 plane bx by_ hist) depth body
  let pay := Config.losslessBlock params raw
  let exact := padBytes (n - 2) ((pay.headD 0 ||| 0x80) :: pay.drop 1)
  let near := Config.codedBlock params raw
  let lossy := padBytes (n - 2) ((near.headD 0 &&& 0x7F) :: near.drop 1)
  if pay.length ≤ n - 2 ∧ decode exact = conv then (exact ++ leBytes 2 (crc16 exact), 0)
  else (lossy ++ leBytes 2 (crc16 lossy), ((conv.zip (decode lossy)).map fun p => max (p.1 - p.2) (p.2 - p.1)).foldl max 0)

def histOf (coded : List Byte) : List Nat := (coded.take (coded.length - 2)).map BitVec.toNat

/-! ### Job descriptors (R250 to R252) -/

def jobRsv : List Word :=
  [0xFFFFE000, 0xFFFFFF00, 0, 0, 0xFFFF0000, 0, 0, 0xFFFF0000, 0, 0xFFFF0000, ones, 0, 0xFFFF0000, 0, 0, 0, 0xFFFF0000, 0, 0, 0,
   0xFFFF0000, 0, 0] ++ List.replicate 8 ones
def jKind (w : List Word) : Nat := bits (wd w 1) 1 0
def jInit (w : List Word) : Bool := bit (wd w 1) 2
def jRatio (w : List Word) : Nat := bits (wd w 1) 5 3
def jEffort (w : List Word) : Nat := bits (wd w 1) 8 6
def jDepth (w : List Word) : Nat := bits (wd w 1) 10 9
def jPlanes (w : List Word) : Nat := bits (wd w 1) 12 11
def jSlot (w : List Word) : Nat := bits (wd w 2) 7 0
def jStart (w : List Word) : Nat := (wd w 3).toNat
def jCoded (w : List Word) : Nat := va48 w 4
def jLen (w : List Word) : Nat := (wd w 6).toNat
def jErr (w : List Word) : Nat := va48 w 7
def jRes (w : List Word) : Nat := va48 w 9
def pVa (w : List Word) (p : Nat) : Nat := va48 w (12 + 4 * p)
def pWid (w : List Word) (p : Nat) : Nat := bits (wd w (14 + 4 * p)) 15 0
def pHei (w : List Word) (p : Nat) : Nat := bits (wd w (14 + 4 * p)) 31 16
def pPitch (w : List Word) (p : Nat) : Nat := (wd w (15 + 4 * p)).toNat
def jSize (w : List Word) : Nat := codedSize (jRatio w) (jDepth w)

def planeBlocks (w : List Word) (p : Nat) : Nat := pWid w p / 32 * (pHei w p / 4)
def jobBlocks (w : List Word) : Nat := (List.range (jPlanes w)).foldl (fun n p => n + planeBlocks w p) 0

/-- Plane, block column and block row of block i. -/
def blockPos (w : List Word) : Nat → Nat → Nat → Nat × Nat × Nat
  | 0, p, i => (p, i % max 1 (pWid w p / 32), i / max 1 (pWid w p / 32))
  | n + 1, p, i =>
    if i < planeBlocks w p then (p, i % max 1 (pWid w p / 32), i / max 1 (pWid w p / 32))
    else blockPos w n (p + 1) (i - planeBlocks w p)

/-- What STATE_MISMATCH compares: RATIO, DEPTH, PLANES, and each used plane's width and height. -/
def jobParams (w : List Word) : List Nat :=
  [jRatio w, jDepth w, jPlanes w] ++ (List.range (jPlanes w)).flatMap fun p => [pWid w p, pHei w p]

def cmpSlotOf (s : State) (k : Nat) : Option CmpSlot := tget s.cm.slots k
def setCmpSlot (s : State) (k : Nat) (x : CmpSlot) : State := { s with cm := { s.cm with slots := tput s.cm.slots k x } }

def planeBad (w : List Word) (p : Nat) : Bool :=
  decide (pWid w p % 32 ≠ 0 ∨ pWid w p < 32 ∨ 16384 < pWid w p ∨ pHei w p % 4 ≠ 0 ∨ pHei w p < 4 ∨ 16384 < pHei w p
    ∨ pPitch w p % 4 ≠ 0 ∨ pPitch w p < 2 * pWid w p)

/-- The checks of R8, R9 and R251. (DEDUCED: log entry 46). -/
def jobCheck (s : State) (ctx : Nat) (enc : Bool) (w : List Word) : Option Nat :=
  match structOk w 128 jobRsv with
  | some c => some c
  | none =>
    let x := cmpSlotOf s (jSlot w)
    let st := (x.map CmpSlot.st).getD .empty
    if jKind w ≠ (if enc then 0 else 1) ∨ 6 ≤ jRatio w ∨ jPlanes w = 0 ∨ ((List.range (jPlanes w)).any fun p => planeBad w p)
        ∨ jobBlocks w ≤ jStart w ∨ (jInit w ∧ jStart w ≠ 0) ∨ (¬ jInit w ∧ (st = .valid ∨ st = .empty) ∧ jStart w ≠ 0) then some cRANGE
    else if jCoded w % 4 ≠ 0 ∨ jErr w % 2 ≠ 0 ∨ jRes w % 32 ≠ 0 ∨ ((List.range (jPlanes w)).any fun p => pVa w p % 4 != 0) then some 0x06
    else match x with
      | none => some cNOTGRANTED
      | some x =>
        if x.owner ≠ ctx ∨ x.freeing then some cNOTGRANTED
        else if ¬ jInit w ∧ (x.st = .empty ∨ x.st = .invalid) then some 0x31
        else if ¬ jInit w ∧ x.st = .partialSt ∧ (jStart w ≠ x.next ∨ jobParams w ≠ x.params) then some 0x32
        else none

/-! ### Jobs (R249, R253 to R255, R261) -/

/-- A dispatched ENCODE or DECODE waits at the engine. -/
def startJob (s : State) (ref : CmdRef) (va : Nat) (enc : Bool) : State :=
  { s with cm := { s.cm with jobs := s.cm.jobs ++ [⟨ref, va, enc, [], false, 0, 0, 0, 0, 0, 0, 0, [], false⟩] } }

def setJob (s : State) (ref : CmdRef) (f : Job → Job) : State :=
  { s with cm := { s.cm with jobs := s.cm.jobs.map fun j => if j.ref = ref then f j else j } }
def dropJob (s : State) (ref : CmdRef) : State := { s with cm := { s.cm with jobs := s.cm.jobs.filter fun j => j.ref != ref } }

/-- The slot a job's descriptor names, from device memory for one that has not started. (DEDUCED: log entry 46). -/
def jobSlot (s : State) (j : Job) : Option Nat :=
  if j.started then some (jSlot j.words)
  else match readStruct s j.ref.ctx j.va 128 1 with
    | .ok w => some (jSlot w)
    | .error _ => none

/-- A slot that is being freed ends with the last job that names it; the engine tells Newel. -/
def settleSlot (s : State) (k : Nat) : State :=
  match cmpSlotOf s k with
  | some x =>
    if x.freeing ∧ ¬ (s.cm.jobs.any fun j => jobSlot s j == some k) then
      notify { s with cm := { s.cm with slots := tdel s.cm.slots k } } 0x217 0x38 k
    else s
  | none => s

def resultWords (j : Job) (code : Nat) : List Word :=
  [sizeVer 32, reg [fld 0 8 code], BitVec.ofNat 32 j.blocks, BitVec.ofNat 32 (jStart j.words + j.blocks), BitVec.ofNat 32 j.bytes,
   reg [fld 0 16 j.maxErr], BitVec.ofNat 32 j.lossless, BitVec.ofNat 32 j.crcErrors]

/-- A started job ends: its slot, its result record, its completion. -/
def endJob (s : State) (j : Job) (code : Nat) : State :=
  let k := jSlot j.words
  let s := match cmpSlotOf s k with
    | some x =>
      if code = cOK ∨ code = 0x33 then setCmpSlot s k { x with st := .valid, next := 0, params := jobParams j.words, hist := j.hist }
      else if code = 0x30 then setCmpSlot s k { x with st := .partialSt, next := j.next, params := jobParams j.words, hist := j.hist }
      else setCmpSlot s k { x with st := .invalid, hist := [] }
    | none => s
  let s := engineWrite s 0x360 uCompression j.ref (jRes j.words) (wordBytes (resultWords j code))
  settleSlot (finishCmd (dropJob s j.ref) j.ref (BitVec.ofNat 32 code) 0) k

/-- A job rejected before it changes anything. -/
def rejectJob (s : State) (j : Job) (code : Nat) : State :=
  let k := jobSlot s j
  let s := finishCmd (dropJob s j.ref) j.ref (BitVec.ofNat 32 code) 0
  match k with
  | some k => settleSlot s k
  | none => s

/-- The job resident at a coder. -/
def residentJob (s : State) (c : Nat) : Option Job := s.cm.jobs.find? fun j => j.started && !j.suspended && j.coder == c

/-- The job that reaches coder c: of the context that holds the coder's slot, its suspended job, or the first
that waits and whose slot no earlier job names. -/
def nextJob (s : State) (c ctx : Nat) : Option Job :=
  let mine := s.cm.jobs.filter fun j => j.ref.ctx == ctx
  (mine.find? fun j => j.started && j.suspended).or
    (mine.find? fun j => !j.started && !((s.cm.jobs.takeWhile fun x => x.ref != j.ref).any fun x => jobSlot s x == jobSlot s j && (jobSlot s j).isSome)
      && c < 8)

/-- COMPRESSION_JOB_START at coder c. -/
def jobStart (s : State) (c : Nat) : State :=
  match (if c < 8 ∧ (residentJob s c).isNone then slotCtx s (72 + c) else none) with
  | none => s
  | some ctx =>
    let s := { s with cm := { s.cm with slot := upd s.cm.slot c fun _ => some ctx } }
    match nextJob s c ctx with
    | none => s
    | some j =>
      if j.started then setJob s j.ref fun j => { j with suspended := false, coder := c }
      else match fetchFrom 0x360 uCompression s j.ref j.va 128 1 with
        | .error (s, code) => rejectJob s j code
        | .ok (s, w) =>
          match jobCheck s ctx j.enc w with
          | some code => rejectJob s j code
          | none =>
            let hist := if jInit w then [] else ((cmpSlotOf s (jSlot w)).map CmpSlot.hist).getD []
            setJob s j.ref fun j => { j with words := w, started := true, coder := c, next := jStart w, hist := hist }

/-- The 16-bit samples of block i: virtual addresses of its four rows. -/
def blockRows (w : List Word) (i : Nat) : List Nat :=
  let (p, bx, by_) := blockPos w 3 0 i
  (List.range 4).map fun r => pVa w p + (4 * by_ + r) * pPitch w p + 64 * bx

/-- Read rows of 64 bytes as samples. -/
def readRows (s : State) (ctx : Nat) : List Nat → Except (Nat × Nat) (State × List Nat)
  | [] => .ok (s, [])
  | a :: r =>
    match readAt s ctx a 64 with
    | .error e => .error e
    | .ok (s, b) =>
      match readRows s ctx r with
      | .error e => .error e
      | .ok (s, t) => .ok (s, ((List.range 32).map fun i => ofLe [b.getD (2 * i) 0, b.getD (2 * i + 1) 0]) ++ t)

def writeRows (s : State) (ctx : Nat) : List Nat → List Nat → Except (Nat × Nat) State
  | [], _ => .ok s
  | a :: r, v =>
    match writeAt s ctx a ((v.take 32).flatMap fun x => leBytes 2 x) with
    | .error e => .error e
    | .ok s => writeRows s ctx r (v.drop 32)

/-- Code or decode the job's next block; the error carries KIND, address and CAUSE of a refused access. -/
def jobBlock (s : State) (j : Job) : Except (Nat × Nat × Nat) (State × Job) :=
  let w := j.words
  let c := jSize w
  let i := j.next
  let va := jCoded w + (i - jStart w) * c
  let ctx := j.ref.ctx
  let (p, bx, by_) := blockPos w 3 0 i
  if j.enc then
    match readRows s ctx (blockRows w i) with
    | .error e => .error (0, e)
    | .ok (s, v) =>
      let (b, err) := encodeBlock (jRatio w) (jDepth w) (jEffort w) p bx by_ j.hist v
      match writeAt s ctx va b with
      | .error e => .error (1, e)
      | .ok s =>
        match (if jErr w = 0 then .ok s else writeAt s ctx (jErr w + 2 * (i - jStart w)) (leBytes 2 (sat 0xFFFF err))) with
        | .error e => .error (1, e)
        | .ok s =>
          .ok (s, { j with next := i + 1, blocks := j.blocks + 1, bytes := j.bytes + c, maxErr := max j.maxErr (sat 0xFFFF err),
                           lossless := j.lossless + (if bit (b.headD 0) 7 then 1 else 0), hist := j.hist ++ [histOf b] })
  else
    match readAt s ctx va c with
    | .error e => .error (0, e)
    | .ok (s, b) =>
      let body := b.take (c - 2)
      let good := crc16 body == ofLe (b.drop (c - 2))
      let v := (reconstruct (blockParams (jRatio w) (jDepth w) 0 p bx by_ j.hist) (jDepth w) body).map fun x => x * 2 ^ (16 - depthBits (jDepth w))
      match writeRows s ctx (blockRows w i) v with
      | .error e => .error (1, e)
      | .ok s =>
        let s := if good then s else raise s (cmdFault 0x360 0x35 uCompression j.ref 0x33 va)
        .ok (s, { j with next := i + 1, blocks := j.blocks + 1, bytes := j.bytes + c,
                         lossless := j.lossless + (if bit (b.headD 0) 7 then 1 else 0),
                         crcErrors := j.crcErrors + (if good then 0 else 1), hist := j.hist ++ [histOf b] })

/-- The job's turn at a block boundary: an uncorrectable error, the next block, exhaustion, or its end. `chkOk`: the
transfer checks of the input held. -/
def jobTurn (s : State) (j : Job) (ecc chkOk : Bool) : State :=
  if ecc then endJob s j 0x0A
  else if jLen j.words < j.bytes + jSize j.words then endJob s j 0x30
  else match jobBlock s j with
    | .error (k, a, e) => endJob (raiseMem s (memFault 0x360 uCompression j.ref k e a)) j (memCode e)
    | .ok (s, j) =>
      let s := if chkOk then s else raise s (cmdFault 0x360 0x2B uCompression j.ref 0 0)
      if jobBlocks j.words ≤ j.next then endJob s j (if j.crcErrors = 0 then cOK else 0x33) else setJob s j.ref fun _ => j

/-! ### Feed coding (R256 to R260) -/

def feedCodeOf (s : State) (k : Nat) : Option FeedCode := tget s.cm.feeds k
def modFeedCode (s : State) (k : Nat) (f : FeedCode → FeedCode) : State := { s with cm := { s.cm with feeds := tmod s.cm.feeds k f } }

/-- A feed is being coded at the coder. -/
def coderFeed (s : State) (c : Nat) : Option (Nat × FeedCode) := s.cm.feeds.find? fun p => p.2.coder == c && p.2.coding.isSome

/-- The ready tile of a feed: the first in TSEQ order, once no earlier tile of the feed is still composited. -/
def readyTile (s : State) (k : Nat) (f : FeedCode) : Option MapEnt :=
  match f.queue with
  | [] => none
  | e :: _ => if s.rs.comps.any fun c => c.feed == k && decide (c.tseq < e.tseq) then none else some e

/-- The ready feed tile with the lowest TSEQ at a coder. -/
def nextTile (s : State) (c : Nat) : Option (Nat × MapEnt) :=
  (s.cm.feeds.filter fun p => p.2.coder == c).foldl (fun b p =>
    match readyTile s p.1 p.2, b with
    | none, b => b
    | some e, none => some (p.1, e)
    | some e, some x => if e.tseq < x.2.tseq then some (p.1, e) else some x) none

/-- Start a feed tile, or drop it where the coded ring has no room. -/
def startTile (s : State) (k : Nat) (e : MapEnt) : State :=
  match feedCodeOf s k with
  | none => s
  | some f =>
    if f.ringTiles ≤ f.ring.length then
      modFeedCode (raise s (plainFault 0x360 0x36 uCompression k e.tseq)) k fun f =>
        { f with queue := f.queue.drop 1, drop := satInc 0xFFFF f.drop }
    else modFeedCode s k fun f => { f with queue := f.queue.drop 1, coding := some e }

/-- CODER_BLOCK_BOUNDARY: a ready feed tile goes before job work. -/
def blockBoundary (s : State) (c : Nat) (ecc chkOk : Bool) : State :=
  if 8 ≤ c ∨ (coderFeed s c).isSome then s
  else
    let s := match residentJob s c with
      | some j => if ecc then jobTurn s j true chkOk else s
      | none => s
    match nextTile s c with
    | some (k, e) => startTile s k e
    | none =>
      match residentJob s c with
      | some j => jobTurn s j ecc chkOk
      | none => s

/-- Sample i of the tile an entry names. -/
def entrySample (e : MapEnt) (i : Nat) : Nat :=
  if e.w0 % 2 = 1 then ofLe [e.pix.getD (2 * i) 0, e.pix.getD (2 * i + 1) 0]
  else if e.seed = 0 then 0 else versionSample e.seed e.validW e.validH i

/-- Samples of block b of a tile: 32 Y blocks, 16 Cb, 16 Cr. -/
def tileBlock (e : MapEnt) (b : Nat) : List Nat :=
  let (base, width, i) := if b < 32 then (0, 64, b) else if b < 48 then (4096, 32, b - 32) else (6144, 32, b - 48)
  let per := width / 32
  (List.range 128).map fun k => entrySample e (base + (i / per * 4 + k / 32) * width + i % per * 32 + k % 32)

/-- The 64 blocks of a tile with the stream's history: bytes, largest error, history. -/
def codeBlocks (f : FeedCode) (e : MapEnt) : List Nat → List Byte × Nat × List (List Nat) → List Byte × Nat × List (List Nat)
  | [], a => a
  | b :: r, a =>
    let (plane, per, i) := if b < 32 then (0, 2, b) else if b < 48 then (1, 1, b - 32) else (2, 1, b - 48)
    let (c, err) := encodeBlock f.ratio f.depth f.effort plane (i % per) (i / per) a.2.2 (tileBlock e b)
    codeBlocks f e r (a.1 ++ c, max a.2.1 err, a.2.2 ++ [histOf c])

/-- The tile record (R258). -/
def tileRecord (k : Nat) (f : FeedCode) (e : MapEnt) (maxErr : Nat) : List Word :=
  [sizeVer 32, reg [fld 0 5 k, fld 5 3 f.ratio, fld 8 2 f.depth, fld 10 7 e.w0], lo32 e.tseq, reg [fld 0 16 (e.tseq / 2 ^ 32)],
   BitVec.ofNat 32 e.frame, reg [fld 0 16 e.col, fld 16 16 e.row], reg [fld 0 16 (sat 0xFFFF maxErr)], 0]

/-- FEED_TILE_CODED: the coded tile enters the ring; `chkOk`: the tile's check held. -/
def feedTileCoded (s : State) (k : Nat) (chkOk : Bool) : State :=
  match feedCodeOf s k with
  | none => s
  | some f =>
    match f.coding with
    | none => s
    | some e =>
      let hist := if e.frame = f.frame then f.hist else []
      let (bs, err, hist) := codeBlocks f e (List.range 64) ([], 0, hist)
      let st := ((feedOf s k).map fun x => fStream x.words).getD 0
      let s := if chkOk then s else tileFault s 0x360 uCompression st e.tseq
      let s := if e.slot + 64 < s.hp.slots then
          raise { s with cm := { s.cm with late := satInc 0xFFFFFFFF s.cm.late } } (plainFault 0x360 0x37 uCompression 0 e.tseq)
        else s
      modFeedCode s k fun f =>
        { f with coding := none, hist := hist, frame := e.frame, ring := f.ring ++ [wordBytes (tileRecord k f e err) ++ bs] }

/-! ### Slots of the timetable, aborts -/

/-- The context's compression slot at a coder ends: its job saves and suspends. -/
def cmpSlotEnd (s : State) (c : Nat) : State :=
  let s := match residentJob s c with
    | some j => setJob s j.ref fun j => { j with suspended := true }
    | none => s
  { s with cm := { s.cm with slot := upd s.cm.slot c fun _ => none } }

/-- Jobs of a destroyed queue or a torn-down context end: a started one leaves its slot INVALID.
(DEDUCED: log entry 46). -/
def abortJobs (s : State) (pick : CmdRef → Bool) : State :=
  (s.cm.jobs.filter fun j => pick j.ref).foldl (fun s j => if j.started then endJob s j cABORTED else rejectJob s j cABORTED) s

/-- A torn-down context's state slots are erased. -/
def dropCmpSlots (s : State) (ctx : Nat) : State := { s with cm := { s.cm with slots := s.cm.slots.filter fun p => p.2.owner != ctx } }

/-! ### Requests (R248, R256, R261, R405, R413) -/

def bodyCmpSlotAlloc : Body := fun who _ s =>
  let mine := (s.cm.slots.filter fun p => p.2.owner == who).length
  if ((ctxOf s who).map fun c => c.quota.cmpSlots).getD 0 ≤ mine then errRes s cQUOTA
  else match tfree s.cm.slots 256 with
    | none => errRes s cNOSLOT
    | some k => okRes (setCmpSlot s k ⟨who, .empty, false, 0, [], []⟩) [BitVec.ofNat 32 k]

def bodyCmpSlotFree : Body := fun who r s =>
  let k := (wd r.block 1).toNat
  match cmpSlotOf s k with
  | none => errRes s cBADHANDLE
  | some x =>
    if x.owner ≠ who then errRes s cNOTGRANTED
    else if x.freeing then errRes s cBADHANDLE
    else okRes (settleSlot (setCmpSlot s k { x with freeing := true }) k) []

/-- T(e), coder cycles of a block. -/
def blockTime (effort : Nat) : Nat := if effort ≤ 4 then 16 else if effort = 5 then 32 else if effort = 6 then 64 else 128

/-- Tiles per second of a bound feed. -/
def feedTps (s : State) (k : Nat) : Q :=
  match feedOf s k with
  | none => ⟨0, 1⟩
  | some f => qMul (qInt (windowTiles f.words : Nat)) (feedFps s f.words)

def feedLoad (s : State) (k effort : Nat) : Q := qMul (feedTps s k) (qInt (64 * blockTime effort + 8 : Nat))

/-- Load of a coder by the feeds it holds, apart from one. -/
def coderLoad (s : State) (c but : Nat) : Q :=
  (s.cm.feeds.filter fun p => p.2.coder == c && p.1 != but).foldl (fun q p => qAdd q (feedLoad s p.1 p.2.effort)) ⟨0, 1⟩
def coderCount (s : State) (c but : Nat) : Nat := (s.cm.feeds.filter fun p => p.2.coder == c && p.1 != but).length

/-- The coder with the most spare time that holds fewer than four feeds; the lowest among equals.
(DEDUCED: log entry 46). -/
def pickCoder (s : State) (but : Nat) : Option Nat :=
  (List.range 8).foldl (fun b c =>
    if 4 ≤ coderCount s c but then b
    else match b with
      | none => some c
      | some x => if qLt (coderLoad s c but) (coderLoad s x but) then some c else b) none

/-- Wire time of a feed's proxies in bits per second (R405). -/
def wireRate (s : State) (k ratio depth : Nat) : Q := qMul (feedTps s k) (qInt (8 * (64 * codedSize ratio depth + 126) : Nat))

/-- (DEDUCED: log entry 46). -/
def bodyFeedCode : Body := fun _ r s =>
  let w := wd r.block 1
  let k := bits w 4 0
  let ratio := bits w 8 6
  let depth := bits w 10 9
  let effort := bits w 13 11
  let sink := bits w 15 14
  let port := bits w 16 16
  match feedOf s k with
  | none => errRes s cBADSTATE
  | some _ =>
    if ¬ bit w 5 then
      match feedCodeOf s k with
      | none => errRes s cBADSTATE
      | some f => okRes { s with cm := { s.cm with feeds := tdel s.cm.feeds k }, ob := { s.ob with sinks := s.ob.sinks.filter fun x => x.feed != k } }
          [BitVec.ofNat 32 f.coder]
    else if 6 ≤ ratio ∨ 2 ≤ sink ∨ (wd r.block 4).toNat = 0 then errRes s cRANGE
    else if (feedCodeOf s k).isSome then errRes s cBADSTATE
    else
      let reads := s.cm.feeds.foldl (fun q p => qAdd q (qMul (feedTps s p.1) (qInt 16384))) (qMul (feedTps s k) (qInt 16384))
      let wire := s.cm.feeds.foldl (fun q p => if p.2.sink = 0 ∧ p.2.port = port then qAdd q (wireRate s p.1 p.2.ratio p.2.depth) else q)
        (wireRate s k ratio depth)
      match pickCoder s k with
      | none => errRes s cRANGE
      | some c =>
        if qLt (qInt 1080000000) (qAdd (coderLoad s c k) (feedLoad s k effort)) ∨ qLt (qInt 81920000000) reads then errRes s cRANGE
        else if sink = 0 ∧ qLt (qInt 8000000000) wire then errRes s cRANGE
        else if sink = 1 ∧ s.ob.mode ≠ 1 then errRes s cBADSTATE
        else if sink = 1 ∧ dwd r.block 8 = 0 then errRes s cRANGE
        else
          let f : FeedCode := ⟨c, ratio, effort, depth, sink, port, dwd r.block 2 % 2 ^ 48, (wd r.block 4).toNat, 0, [], 0, [], [], none⟩
          let s := { s with cm := { s.cm with feeds := tput s.cm.feeds k f } }
          let s := if sink = 1 then
              { s with ob := { s.ob with sinks := s.ob.sinks ++ [⟨k, (wd r.block 5).toNat, dwd r.block 6, dwd r.block 8, 0, [], false⟩] } }
            else s
          okRes s [BitVec.ofNat 32 c]

def specCmpSlotAlloc : ReqSpec := ⟨0x2C, fromC, false, len 0, [], noLocks, .ready, bodyCmpSlotAlloc⟩
def specCmpSlotFree : ReqSpec := ⟨0x2D, fromC, false, len 8, [], noLocks, .ready, bodyCmpSlotFree⟩
def specFeedCode : ReqSpec :=
  ⟨0x38, fromO, true, len 40, [0xFFFE0000], fun _ r _ => [.feed (bits (wd r.block 1) 4 0)], .ready, bodyFeedCode⟩

/-! ### Meanings -/

def execCmpSlotAlloc (r : ReqIn) (s : State) : Out := .next (runRequest specCmpSlotAlloc r s)
def execCmpSlotFree (r : ReqIn) (s : State) : Out := .next (runRequest specCmpSlotFree r s)
def execFeedCode (r : ReqIn) (s : State) : Out := .next (runRequest specFeedCode r s)
def execCompressionJobStart (coder : Nat) (s : State) : Out := .next (jobStart s coder)
def execCoderBlockBoundary (coder : Nat) (ecc chkOk : Bool) (s : State) : Out := .next (blockBoundary s coder ecc chkOk)
def execCompressionSlotEnd (coder : Nat) (s : State) : Out := .next (cmpSlotEnd s coder)

end Sys2Proof.Machine
end

