-- ==== Sys2Proof/Machine/Admission.lean ====
section
/-! DEFINITION. Timetable images and schedule images (spec/11, R332 to R346): reading them, admission, placement of
regions. -/

namespace Sys2Proof.Machine
open Sys2Proof

/-! ### Reading an image (R332) -/

def ttHeadRsv : List Word := [0xFFFFFFF8, 0xFFFFC000, 0, 0, 0, 0xFFE00000] ++ List.replicate 9 ones
def ttEntryRsv : List Word := [0x00000800, 0, 0xFFE00000]

/-- DETAIL of a failing header (R333). (DEDUCED: log entry 69). -/
def headDetail : Nat := 0x3FFF

def readEntries (s : State) (o : Obj) (off : Nat) : Nat → Nat → List TtEntry → Except (Nat × Nat) (List TtEntry)
  | 0, _, a => .ok a
  | fuel + 1, k, a =>
    match objStruct s o (off + 64 + 16 * k) 16 ttEntryRsv with
    | .error c => .error (c, k)
    | .ok w =>
        let ctx := bits (wd w 1) 23 12
        let e : TtEntry := ⟨bits (wd w 1) 7 0, bits (wd w 1) 10 8, ctx, bits (wd w 1) 31 24, bits (wd w 2) 15 0, bits (wd w 2) 31 16,
          bits (wd w 3) 20 0, ((ctxOf s ctx).map Ctx.incarn).getD 0, false⟩
        readEntries s o off fuel (k + 1) (a ++ [e])

/-! ### Checks 2 to 5 (R339, R340) -/

/-- First index whose element meets a condition of its index. (DEDUCED: log entry 69). -/
def firstIdx (n : Nat) (p : Nat → Bool) : Option Nat := (List.range n).find? p

def unitOk (u : Nat) : Bool := decide (u ≤ 3 ∨ (24 ≤ u ∧ u ≤ 47) ∨ u = 64 ∨ (72 ≤ u ∧ u ≤ 79))

/-- Check 2 on one entry. -/
def entryOk (s : State) (rate : Nat) (e : TtEntry) : Bool :=
  unitOk e.unit && (e.kind == 2 || (e.kind == 3 && e.unit < 4)) && (e.unit < 4 || e.tag == 0)
    && (isCtx e.ctx && e.ctx != 0x200) && (ctxState s e.ctx == .created || ctxState s e.ctx == .active)
    && decide (40 ≤ e.start ∧ 1 ≤ e.len ∧ e.start + e.len ≤ shortFrame rate)

def spanMeets (a b : TtEntry) : Bool := decide (a.start < b.start + b.len ∧ b.start < a.start + a.len)

def entryAtIdx (es : List TtEntry) (i : Nat) : TtEntry := es.getD i ⟨0, 0, 0, 0, 0, 0, 0, 0, false⟩

/-- Check 3: the first entry that overlaps an earlier one on its unit. -/
def overlapIdx (es : List TtEntry) : Option Nat :=
  firstIdx es.length fun j => (es.take j).any fun a => a.unit == (entryAtIdx es j).unit && spanMeets a (entryAtIdx es j)

/-- The changeover gap of a unit between slots of different contexts. -/
def gapOf (u : Nat) : Nat := if 24 ≤ u ∧ u ≤ 47 then 95 else if u = 64 then 2 else 0

/-- The entry that ends last before `e` starts on its unit, across the frame boundary where there is none in the
frame, with the gap between them and whether the maintenance slot lies between. -/
def beforeEntry (es : List TtEntry) (short : Nat) (e : TtEntry) : Option (TtEntry × Nat × Bool) :=
  let same := es.filter fun a => a.unit == e.unit
  let latest (l : List TtEntry) : Option TtEntry := l.foldl (fun b a => match b with
    | none => some a
    | some x => if x.start < a.start then some a else some x) none
  match latest (same.filter fun a => a.start < e.start) with
  | some a => some (a, e.start - (a.start + a.len), false)
  | none => (latest same).map fun a => (a, short - (a.start + a.len) + e.start, true)

/-- Check 4: the first entry whose gap is too short. -/
def gapIdx (es : List TtEntry) (short : Nat) : Option Nat :=
  firstIdx es.length fun j =>
    let e := entryAtIdx es j
    match beforeEntry es short e with
    | none => false
    | some (a, gap, wraps) =>
      decide (gap < gapOf e.unit) && (a.ctx != e.ctx || (wraps && e.unit != 64))

/-- The schedule image that is in force once the timetable image becomes active. (DEDUCED: log entry 69). -/
def schedFor (s : State) (ctx : Nat) : Option Sched := (tget s.tt.schedNext ctx).or (tget s.tt.sched ctx)
def tasksFor (s : State) (e : TtEntry) : List Task :=
  ((schedFor s e.ctx).map Sched.tasks).getD [] |>.filter fun t => t.hall == e.unit && t.load == (e.kind == 3) && t.tag == e.tag

def isOverlay (x : Sched) (h : Nat) : Bool := x.overlay / 2 ^ h % 2 == 1

/-- The entry is of the tag of its context's first load entry on the Hall. -/
def firstLoadTag (es : List TtEntry) (e : TtEntry) : Bool :=
  let l := es.filter fun a => a.unit == e.unit && a.ctx == e.ctx && a.kind == 3
  match l.foldl (fun (b : Option TtEntry) a => match b with
    | none => some a
    | some x => if a.start < x.start then some a else some x) none with
  | some a => a.tag == e.tag
  | none => false

/-- Check 5: the first Hall entry whose budget does not hold. With a Hall withdrawn, its entries fail and U is
smaller on the others (R467). -/
def budgetIdx (s : State) (es : List TtEntry) : Option Nat :=
  firstIdx es.length fun j =>
    let e := entryAtIdx es j
    let ts := tasksFor s e
    if e.unit < 4 ∧ s.fc.hallOut.getD e.unit false then true
    else if 4 ≤ e.unit ∨ ts = [] then false
    else
      let out := s.fc.hallOut.any id
      let u := if e.kind = 2 then (if out then 273 else 441) else if out then 337 else 505
      let budget := es.foldl (fun n a => if a.unit = e.unit ∧ a.ctx = e.ctx ∧ a.tag = e.tag ∧ a.kind = e.kind then n + a.len * u else n) 0
      let extra : Nat := match schedFor s e.ctx with
        | some x => if e.kind = 3 ∧ isOverlay x e.unit ∧ firstLoadTag es e then (x.regions.getD e.unit (0, 0)).1 + (x.regions.getD e.unit (0, 0)).2 else 0
        | none => 0
      decide (budget < ts.foldl (fun n t => n + t.occ) extra)

/-! ### Check 6: regions and bays (R341, R343, R344) -/

/-- Residency span of a context on a Hall, and its first entry's index. -/
def spanOf (es : List TtEntry) (h c : Nat) : Option (Nat × Nat × Nat) :=
  let l := (List.range es.length).filter fun i => (entryAtIdx es i).unit == h && (entryAtIdx es i).ctx == c
  match l with
  | [] => none
  | i :: _ =>
    let st := l.foldl (fun n i => min n (entryAtIdx es i).start) (entryAtIdx es i).start
    let en := l.foldl (fun n i => max n ((entryAtIdx es i).start + (entryAtIdx es i).len)) 0
    some (st, en, i)

/-- A span of units in use: base, length, and the spanOf span while it may be shared. -/
abbrev Used := Nat × Nat × Option (Nat × Nat)

def clash (base n : Nat) (span : Option (Nat × Nat)) (u : Used) : Bool :=
  decide (0 < n ∧ 0 < u.2.1 ∧ u.1 < base + n ∧ base < u.1 + u.2.1) &&
    match span, u.2.2 with
    | some a, some b => decide (a.1 < b.2 ∧ b.1 < a.2)
    | _, _ => true

/-- First fit at or above a base. -/
def fitFrom (used : List Used) (hi n : Nat) (span : Option (Nat × Nat)) : Nat → Nat → Option Nat
  | 0, _ => none
  | fuel + 1, base =>
    if hi < base + n then none
    else match used.find? (clash base n span) with
      | none => some base
      | some u => fitFrom used hi n span fuel (u.1 + u.2.1)

/-- One region's placement on a Hall: in the weight pool, units 128 to 383, and the activation pool, units 16 to
63. -/
structure Placing where
  wUsed : List Used
  aUsed : List Used
  out : List (Nat × Region)

/-- Above the fixed regions of a pool. (DEDUCED: log entry 69). -/
def aboveFixed (lo : Nat) (used : List Used) : Nat := used.foldl (fun m u => if u.2.2.isNone then max m (u.1 + u.2.1) else m) lo

def placeOne (p : Placing) (c w a : Nat) (span : Option (Nat × Nat)) : Option Placing :=
  let wlo := if span.isSome then aboveFixed 128 p.wUsed else 128
  let alo := if span.isSome then aboveFixed 16 p.aUsed else 16
  match fitFrom p.wUsed 384 w span 1000 wlo, fitFrom p.aUsed 64 a span 1000 alo with
  | some wb, some ab =>
    some ⟨p.wUsed ++ [(wb, w, span)], p.aUsed ++ [(ab, a, span)], p.out ++ [(c, ⟨wb, w, ab, a, span.isSome⟩)]⟩
  | _, _ => none

/-- Place the regions of a list of contexts in order; an error is the context whose region finds no place. -/
def placeAll (es : List TtEntry) (h : Nat) : List (Nat × Sched) → Placing → Except Nat Placing
  | [], p => .ok p
  | (c, x) :: r, p =>
    let span := if isOverlay x h then (spanOf es h c).map fun q => (q.1, q.2.1) else none
    match placeOne p c (x.regions.getD h (0, 0)).1 (x.regions.getD h (0, 0)).2 span with
    | none => .error c
    | some p => placeAll es h r p

/-- The regions of a Hall after activation: fixed regions whose schedule image stands stay, the other fixed ones
are placed from the low end, then the overlaid ones in order of span start. (DEDUCED: log entry 69). -/
def placeHall (s : State) (es : List TtEntry) (h : Nat) : Except Nat (List (Nat × Region)) :=
  let kept := (hallOf s h).regions.filter fun p => !p.2.overlaid && (tget s.tt.schedNext p.1).isNone && (schedFor s p.1).isSome
  let cs := (es.filter fun e => e.unit == h).map TtEntry.ctx |>.foldl sins []
  let todo := (cs.filter fun c => (tget kept c).isNone).filterMap fun c => (schedFor s c).map fun x => (c, x)
  let fixed := todo.filter fun p => !isOverlay p.2 h
  let overs := (todo.filter fun p => isOverlay p.2 h).mergeSort fun a b =>
    ((spanOf es h a.1).map fun q => q.1).getD 0 ≤ ((spanOf es h b.1).map fun q => q.1).getD 0
  -- units that wait to be zeroed are assigned to nobody, at any time of the frame (R65)
  let waits := (hallOf s h).zeroing.map Prod.snd
  let start : Placing :=
    ⟨(kept.map fun p => (p.2.wBase, p.2.wSize, none)) ++ waits.map fun r => (r.wBase, r.wSize, some (0, 2 ^ 16)),
     (kept.map fun p => (p.2.aBase, p.2.aSize, none)) ++ waits.map fun r => (r.aBase, r.aSize, some (0, 2 ^ 16)), []⟩
  match placeAll es h (fixed ++ overs) start with
  | .error c => .error c
  | .ok p => .ok p.out

/-- Index of a context's first entry on a Hall. -/
def firstOf (es : List TtEntry) (h c : Nat) : Nat := ((spanOf es h c).map fun q => q.2.2).getD 0

def placeImage (s : State) (es : List TtEntry) : Nat → Except Nat (List (Nat × Nat × Region))
  | 0 => .ok []
  | h + 1 =>
    match placeImage s es h with
    | .error i => .error i
    | .ok l =>
      match placeHall s es h with
      | .error c => .error (firstOf es h c)
      | .ok p => .ok (l ++ p.map fun q => (h, q.1, q.2))

def entryBanks (s : State) (e : TtEntry) : List Nat := (tasksFor s e).flatMap fun t => t.bays.map fun b => b % 16

/-- The first entry that overlaps an earlier one on another Hall with a bay bank in common. -/
def bankIdx (s : State) (es : List TtEntry) : Option Nat :=
  firstIdx es.length fun j =>
    let e := entryAtIdx es j
    let b := if e.unit < 4 then entryBanks s e else []
    b != [] && (es.take j).any fun a => decide (a.unit < 4) && a.unit != e.unit && spanMeets a e && (entryBanks s a).any fun x => b.contains x

/-! ### Check 7: HBM bytes (R346) -/

/-- Bytes per tile cycle of every bound and every coded feed. -/
def feedBytes (s : State) : Q :=
  let c := (boundFeeds s).foldl (fun q w => qAdd q (feedDemand s w)) ⟨0, 1⟩
  let d := s.cm.feeds.foldl (fun q p => qAdd q (qMul (feedTps s p.1) (qInt 16384))) ⟨0, 1⟩
  qMul (qAdd c d) ⟨1, 1000000⟩

/-- A cycle lies in a span that may run across the frame's end. -/
def inSpan (short st n c : Nat) : Bool := decide ((c + short - st % short) % short < n)

/-- A shader slot ends here and its core saves, or starts here and its core restores: slots of one context that
are adjacent are one. -/
def coreMoves (es : List TtEntry) (short c : Nat) (e : TtEntry) : Bool :=
  if 24 ≤ e.unit ∧ e.unit ≤ 47 then
    let on := es.filter fun a => a.unit == e.unit && a.ctx == e.ctx
    let ends := ¬ on.any fun a => a.start == e.start + e.len
    let starts := ¬ on.any fun a => a.start + a.len == e.start
    (ends && inSpan short (e.start + e.len) 50 c) || (starts && inSpan short (e.start + short - 45) 45 c)
  else false

/-- Timetabled HBM bytes of a tile cycle. -/
def hbmSum (s : State) (es : List TtEntry) (out short c : Nat) : Q :=
  let n := es.foldl (fun n e => n + (if e.start ≤ c ∧ c < e.start + e.len then e.allow else 0) + (if coreMoves es short c e then 19200 else 0)) 0
  qAdd (feedBytes s) (qInt (65536 + 8192 + out + n : Nat))

/-- Cycles at which the sum can rise. -/
def riseCycles (es : List TtEntry) (short : Nat) : List Nat :=
  (0 :: es.flatMap fun e => [e.start, (e.start + e.len) % short, (e.start + short - 45) % short]).eraseDups

/-- Check 7: the index of the first entry that covers a cycle beyond the limit, the header where none does. -/
def bandIdx (s : State) (es : List TtEntry) (out short : Nat) : Option Nat :=
  match firstIdx es.length fun j =>
      let e := entryAtIdx es j
      decide (e.unit < 4 ∧ e.allow < 65408) && (tasksFor s e).any Task.xfer with
  | some j => some j
  | none =>
    match (riseCycles es short).find? fun c => qLt (qInt 1310720) (hbmSum s es out short c) with
    | none => none
    | some c => some ((firstIdx es.length fun j => decide ((entryAtIdx es j).start ≤ c ∧ c < (entryAtIdx es j).start + (entryAtIdx es j).len)).getD headDetail)

/-! ### TT_LOAD and SCHED_LOAD (R333 to R339) -/

/-- Checks 2 to 7 in order: status and DETAIL of the first that fails, or the placement. -/
def admitted (s : State) (rate out : Nat) (es : List TtEntry) : Except (Nat × Nat) (List (Nat × Nat × Region)) :=
  match firstIdx es.length fun j => !entryOk s rate (entryAtIdx es j) with
  | some j => .error (cRANGE, j)
  | none =>
    match overlapIdx es with
    | some j => .error (0x8A, j)
    | none =>
      match gapIdx es (shortFrame rate) with
      | some j => .error (0x8B, j)
      | none =>
        match budgetIdx s es with
        | some j => .error (0x8C, j)
        | none =>
          match placeImage s es 4 with
          | .error j => .error (0x8D, j)
          | .ok place =>
            match bankIdx s es with
            | some j => .error (0x8D, j)
            | none =>
              match bandIdx s es out (shortFrame rate) with
              | some j => .error (0x8E, j)
              | none => .ok place

/-- The cores a context has slots on, with the context, as the keys of `CtxState.saves`: 32 · context + core (R159: a house
slot has no save). -/
def saveKeys (s : State) (es : List TtEntry) : List Nat :=
  ((es.filter fun e => !e.idle && decide (24 ≤ e.unit ∧ e.unit < 48) && ctxState s e.ctx != .free && ctxState s e.ctx != .teardown).map fun e => 32 * e.ctx + (e.unit - 16)).eraseDups

/-- Reserve a core save area of 1 MiB, 16 frames, for each core newly granted to a context (R161).
(DESIGN CHOICE: log entry 95). -/
def reserveSaves (s : State) : List Nat → Option State
  | [] => some s
  | k :: ks =>
    if (tget s.cx.saves k).isSome then reserveSaves s ks
    else match takeFrames s.cx.freeFrames 16 with
      | none => none
      | some (runs, rest) => reserveSaves { s with cx := { s.cx with freeFrames := rest, saves := tput s.cx.saves k runs } } ks

/-- (DEDUCED: log entry 69). -/
def bodyTtLoad : Body := fun who r s =>
  let off := (wd r.block 2).toNat
  match needOwn s who (wd r.block 1).toNat with
  | .error c => errRes s c
  | .ok (_, o) =>
    if s.hp.cfg.isNone then errRes s cBADSTATE
    else match objStruct s o off 64 ttHeadRsv with
      | .error c => errDetail s c headDetail
      | .ok h =>
          let rate := bits (wd h 1) 2 0
          let n := bits (wd h 2) 13 0
          let epoch := dwd h 4
          let out := bits (wd h 6) 20 0
          if 8192 < n ∨ o.bytes < off + 64 + 16 * n then errDetail s cRANGE headDetail
          else match readEntries s o off n 0 [] with
            | .error e => errDetail s e.1 e.2
            | .ok es =>
              if 5 < rate ∨ (s.tt.set ∧ (rate ≠ s.tt.rate ∨ epoch ≠ s.tt.epoch)) then errDetail s cRANGE headDetail
              else match admitted { s with tt := { s.tt with rate := rate } } rate out es with
                | .error e => errDetail s e.1 e.2
                | .ok place =>
                  let im : TtImage := ⟨rate, (wd h 3).toNat, epoch, out, es, objRead s o off (64 + 16 * n), place⟩
                  match reserveSaves s (saveKeys s es) with
                  | none => errRes s cNOMEMORY
                  | some s => okRes { s with tt := { s.tt with pendingImg := some im, set := true, rate := rate, epoch := epoch } } []

/-- (DEDUCED: log entry 69). -/
def bodySchedLoad : Body := fun who r s =>
  match needOwn s who (wd r.block 1).toNat with
  | .error c => errRes s c
  | .ok (_, o) =>
    match readSched false s who o (wd r.block 2).toNat with
    | .error e => errDetail s e.1 e.2
    | .ok x => okRes { s with tt := { s.tt with schedNext := tput s.tt.schedNext who x } } []

def specTtLoad : ReqSpec := ⟨0x35, fromO, true, len 12, [], fun _ _ _ => [.timetable], .ready, bodyTtLoad⟩
def specSchedLoad : ReqSpec := ⟨0x36, fromC, true, len 12, [], fun who _ _ => [.schedule who], .ready, bodySchedLoad⟩

def execTtLoad (r : ReqIn) (s : State) : Out := .next (runRequest specTtLoad r s)
def execSchedLoad (r : ReqIn) (s : State) : Out := .next (runRequest specSchedLoad r s)

end Sys2Proof.Machine
end

