-- ==== Sys2Proof/Machine/Calib.lean ====
section
/-! DEFINITION. Calibration layers: effective tables, the checks of CAL_WRITE, the flash halves, CAL_READ,
CAL_WRITE and RESTORE_FACTORY (spec/09, R284 to R287; R433, R490, R518 to R520). -/

namespace Sys2Proof.Machine
open Sys2Proof

/-- The tables of R284: identifier, record bytes, record limit, user layer. -/
def calTables : List (Nat × Nat × Nat × Bool) :=
  [(0x01, 40, 4096, true), (0x02, 72, 6, true), (0x03, 16, 6, true), (0x04, 24, 8, true), (0x05, 8, 65536, true),
   (0x06, 8, 65536, true), (0x10, 32, 4, false), (0x11, 64, 2, false), (0x12, 32, 8, false)]

def calTable (t : Nat) : Option (Nat × Nat × Bool) := (calTables.find? fun x => x.1 == t).map Prod.snd

/-- A key the table can hold (R284). (DEDUCED: log entry 63). -/
def calKeyOk (t key : Nat) : Bool :=
  if t = 2 ∨ t = 3 then decide (key < 6) else if t = 4 then decide (key < 8) else true

/-- (DEDUCED: log entry 63). -/
def recDelete (r : CalRec) : Bool := bit r.flags 0

/-- Insert a record by key, replacing one of the same key; keys rise. -/
def putRec : List CalRec → CalRec → List CalRec
  | [], r => [r]
  | x :: xs, r => if r.key < x.key then r :: x :: xs else if r.key = x.key then r :: xs else x :: putRec xs r

/-- A user layer laid over a factory table (R285). (DEDUCED: log entry 63). -/
def layRec (t : List CalRec) (r : CalRec) : List CalRec :=
  if recDelete r then t.filter fun x => x.key != r.key else putRec t r

def layOver (fac user : List CalRec) : List CalRec := user.foldl layRec fac

/-- The ROM defaults of a table. (DEDUCED: log entry 63). -/
def romTable (t : Nat) : List CalRec := (Config.romCalibration t).map fun r => ⟨r.1, 0, r.2⟩

/-- A trim record's last word is the CRC-32C of its words before it (R518 to R520). -/
def trimOk (r : CalRec) : Bool :=
  let ws := BitVec.ofNat 32 r.key :: r.flags :: r.data.dropLast
  BitVec.ofNat 32 (crc32c (wordBytes ws)) == r.data.getLast?.getD 0

/-- The factory layer in use: the ROM defaults where the partition does not verify (R286). -/
def factoryTable (s : State) (t : Nat) : List CalRec := if s.nw.calFacOk then tgetD s.nw.calFactory t [] else romTable t

/-- The user layer in use; none is laid over the ROM defaults (R286). -/
def userTables (s : State) : List (Nat × List CalRec) :=
  if ¬ s.nw.calFacOk then [] else if s.nw.calUse = 0 then s.nw.calU0.tables else if s.nw.calUse = 1 then s.nw.calU1.tables else []

/-- An effective table; a trim record whose CRC fails takes its ROM default. -/
def effTable (s : State) (t : Nat) : List CalRec :=
  if 0x10 ≤ t then
    (factoryTable s t).map fun r => if trimOk r then r else ((romTable t).find? fun x => x.key == r.key).getD r
  else layOver (factoryTable s t) (tgetD (userTables s) t [])

/-- Newel's effective tables are computed anew; the trims keep what the last start took (R284).
(DEDUCED: log entry 63). -/
def refreshCal (s : State) (trims : Bool) : State :=
  let eff := calTables.map fun x => (x.1, if 0x10 ≤ x.1 ∧ ¬ trims then tgetD s.nw.calEff x.1 [] else effTable s x.1)
  { s with nw := { s.nw with calEff := eff } }

/-! ### Start-up (R286) -/

/-- Verify the factory partition and both halves: the verifying half with the higher sequence number is in use;
CAL_BAD when the higher one fails while the other verifies. (DEDUCED: log entry 63). -/
def verifyCal (s : State) (facOk ok0 ok1 : Bool) : State :=
  let v0 := ok0 && s.nw.calU0.ok
  let v1 := ok1 && s.nw.calU1.ok
  let use := if v0 ∧ (¬ v1 ∨ s.nw.calU1.seq < s.nw.calU0.seq) then 0 else if v1 then 1 else 2
  let bad := (v0 && !v1 && decide (s.nw.calU0.seq < s.nw.calU1.seq)) || (v1 && !v0 && decide (s.nw.calU1.seq < s.nw.calU0.seq))
  let s := { s with nw := { s.nw with calFacOk := facOk, calUse := use } }
  let s := if bad then raise s (plainFault 0x310 0x44 uNewel 0 0) else s
  let s := if facOk then s else raise s (plainFault 0x310 0x45 uNewel 0 0)
  refreshCal s true

/-! ### The lens grid (R433) -/

def recAt (t : List CalRec) (key : Nat) : List Word := ((t.find? fun r => r.key == key).map CalRec.data).getD []

/-- Strictly rising, or strictly falling. -/
def rising (xs : List Q) : Bool := (xs.zip (xs.drop 1)).all fun p => qLt p.1 p.2
def falling (xs : List Q) : Bool := (xs.zip (xs.drop 1)).all fun p => qLt p.2 p.1

/-- (DEDUCED: log entry 63). -/
def lensGridOk (t : List CalRec) : Bool :=
  let nz : Nat := (t.map fun r => r.key % 65536).foldl (fun m k => max m (k + 1)) 0
  let nf : Nat := (t.map fun r => r.key / 65536).foldl (fun m k => max m (k + 1)) 0
  let pos (zi fi i : Nat) : Q := qInt (wd (recAt t (zi + 65536 * fi)) i).toInt
  let foc (zi fi : Nat) : Q := f32ToQ (wd (recAt t (zi + 65536 * fi)) 7).toNat
  decide (nz * nf ≤ 4096 ∧ t.length = nz * nf)
    && ((List.range nz).all fun zi => (List.range nf).all fun fi => pos zi fi 0 == pos zi 0 0)
    && rising ((List.range nz).map fun zi => pos zi 0 0)
    && ((List.range nz).all fun zi =>
      rising ((List.range nf).map fun fi => pos zi fi 1)
        && (rising ((List.range nf).map fun fi => foc zi fi) || falling ((List.range nf).map fun fi => foc zi fi)))

/-! ### CAL_READ, CAL_WRITE, RESTORE_FACTORY -/

/-- Parse `n` records of `sz` bytes; a record with DELETE is its KEY and FLAGS alone (R285).
(DEDUCED: log entry 63). -/
def parseRecs (sz : Nat) : Nat → List Word → Option (List CalRec × List Word)
  | 0, ws => some ([], ws)
  | n + 1, k :: f :: ws =>
    let m := if bit f 0 then 0 else sz / 4 - 2
    if ws.length < m then none
    else (parseRecs sz n (ws.drop m)).map fun p => (⟨k.toNat, f, ws.take m⟩ :: p.1, p.2)
  | _ + 1, _ => none

def calRecs (b : List Word) : Option (List CalRec × List Word) :=
  match calTable (bits (wd b 1) 7 0) with
  | none => none
  | some (sz, _, _) => if 1024 < (wd b 2).toNat then none else parseRecs sz (wd b 2).toNat (b.drop 3)

/-- The shortest block: the records counted; an unreadable list makes the block too short. -/
def calWriteLen (b : List Word) : Nat :=
  match calRecs b with
  | some p => 4 * (b.length - p.2.length)
  | none => if (calTable (bits (wd b 1) 7 0)).isNone then 4 * max 3 b.length else 4 * b.length + 4

def recWords (r : CalRec) : List Word := BitVec.ofNat 32 r.key :: r.flags :: r.data

/-- As many records from FIRST as COUNT asks for and 4 KiB holds. -/
def fitRecs (room : Nat) : List CalRec → List CalRec
  | [] => []
  | r :: rs => if (recWords r).length ≤ room then r :: fitRecs (room - (recWords r).length) rs else []

def bodyCalRead : Body := fun _ r s =>
  let t := bits (wd r.block 1) 7 0
  let layer := bits (wd r.block 1) 9 8
  match calTable t with
  | none => errRes s cRANGE
  | some _ =>
    let recs := if layer = 0 then factoryTable s t else if layer = 1 then tgetD (userTables s) t [] else tgetD s.nw.calEff t []
    let first := (wd r.block 2).toNat
    if layer = 3 then errRes s cRANGE
    else
      let out := fitRecs 1022 ((recs.drop first).take (wd r.block 3).toNat)
      okRes s (BitVec.ofNat 32 out.length :: out.flatMap recWords)

/-- The user layer that a new image holds goes to the half not in use; the other half is erased.
(DEDUCED: log entry 53, DEDUCED: log entry 63). -/
def commitHalf (s : State) (tables : List (Nat × List CalRec)) : State :=
  let cur := if s.nw.calUse = 1 then s.nw.calU1 else s.nw.calU0
  let seq := (if s.nw.calUse = 2 then 0 else cur.seq) + 1
  let new : CalHalf := ⟨seq, true, tables⟩
  let gone : CalHalf := ⟨0, false, []⟩
  let s := if s.nw.calUse = 0 then { s with nw := { s.nw with calU0 := gone, calU1 := new, calUse := 1 } }
    else { s with nw := { s.nw with calU0 := new, calU1 := gone, calUse := 0 } }
  refreshCal s false

/-- (DEDUCED: log entry 63). -/
def bodyCalWrite : Body := fun _ r s =>
  let t := bits (wd r.block 1) 7 0
  match calTable t, calRecs r.block with
  | some (_, lim, user), some (recs, _) =>
    let new := recs.foldl putRec (tgetD (userTables s) t [])
    let eff := layOver (factoryTable s t) new
    if recs.any fun x => bits x.flags 31 1 ≠ 0 then errDetail s cRESERVED 0x11
    else if lim < eff.length then errRes s cRANGE
    else if ¬ user then errRes s cFACTORYONLY
    else if recs.any fun x => recDelete x && !((factoryTable s t).any fun y => y.key == x.key) then errRes s cRANGE
    else if recs.any fun x => !calKeyOk t x.key then errRes s cRANGE
    else if t = 1 ∧ ¬ lensGridOk eff then errRes s cRANGE
    else okRes (commitHalf s (tput (userTables s) t new)) []
  | _, _ => errRes s cRANGE

def bodyRestoreFactory : Body := fun _ _ s => okRes (commitHalf s []) []

def calLock (_ : Nat) (_ : ReqIn) (_ : State) : List Lock := [.cal]
def specCalRead : ReqSpec := ⟨0x54, fromO, false, len 16, [0xFFFFFC00], noLocks, .ready, bodyCalRead⟩
def specCalWrite : ReqSpec := ⟨0x55, fromO, true, calWriteLen, [0xFFFFFF00], calLock, .flash, bodyCalWrite⟩
def specRestoreFactory : ReqSpec := ⟨0x56, fromO, true, len 0, [], calLock, .flash, bodyRestoreFactory⟩

def execCalRead (r : ReqIn) (s : State) : Out := .next (runRequest specCalRead r s)
def execCalWrite (r : ReqIn) (s : State) : Out := .next (runRequest specCalWrite r s)
def execRestoreFactory (r : ReqIn) (s : State) : Out := .next (runRequest specRestoreFactory r s)

end Sys2Proof.Machine
end

