-- ==== Sys2Proof/Machine/Motion.lean ====
section
/-! DEFINITION. The Motion Controller's axes: encoders, trajectories, safe stop, the SPI links, the lens model,
focus and exposure, row poses, and the requests that command them (spec/14, R419 to R436; R56, R57). -/

namespace Sys2Proof.Machine
open Sys2Proof

/-- Axis states of R428. -/
def axOff : Nat := 0
def axEnabling : Nat := 1
def axRun : Nat := 2
def axSafe : Nat := 3
def axStopped : Nat := 4

/-- Seconds of a loop tick: 50 µs. -/
def tickDt : Q := ⟨1, 20000⟩
def qSq (a : Q) : Q := qMul a a
def qHalf (a : Q) : Q := qMul a ⟨1, 2⟩
def qSign (a : Q) : Q := if a.n < 0 then ⟨-1, 1⟩ else if a.n = 0 then ⟨0, 1⟩ else ⟨1, 1⟩
def qZero (a : Q) : Bool := a.n == 0

def axisOf (s : State) (i : Nat) : Axis := s.mc.axes.getD i default
def modAxis (s : State) (i : Nat) (f : Axis → Axis) : State := { s with mc := { s.mc with axes := upd s.mc.axes i f } }

/-- Data words of the effective record of a calibration table (R284). -/
def calRec (s : State) (table key : Nat) : List Word :=
  (((tgetD s.nw.calEff table []).find? fun r => r.key == key).map CalRec.data).getD []

/-- The axis record and encoder record in force: those taken when the axis was last energised (R423, R427). -/
def prmOf (s : State) (i : Nat) : List Word := if (axisOf s i).prm = [] then calRec s 2 i else (axisOf s i).prm
def encOf (s : State) (i : Nat) : List Word := if (axisOf s i).enc = [] then calRec s 3 i else (axisOf s i).enc

def prmQ (p : List Word) (k : Nat) : Q := f32ToQ (wd p k).toNat
def encBiss (e : List Word) : Bool := bit (wd e 1) 1
def encSign (e : List Word) : Q := if bit (wd e 1) 0 then ⟨-1, 1⟩ else ⟨1, 1⟩
/-- Counts per unit: SCALE for AX0 to AX2, 1 for the others (R425). -/
def unitScale (i : Nat) (p : List Word) : Q := if i < 3 then prmQ p 0 else ⟨1, 1⟩

/-- The measured position of a latched count (R425). -/
def position (i : Nat) (p e : List Word) (c : Int) : Q :=
  qDiv (qMul (encSign e) (qInt (c - (wd e 0).toInt))) (unitScale i p)

/-- Largest acceleration of R429. -/
def accLimit (p : List Word) : Q := qMin (prmQ p 2) (qDiv (qMul ⟨9, 10⟩ (prmQ p 5)) (prmQ p 4))

/-! ### States and safe stops (R428, R432) -/

/-- Change an axis's state and report it to Newel (R529, AXIS_STATE). (DEDUCED: log entry 72). -/
def setAxis (s : State) (i st cause : Nat) : State :=
  let s := modAxis s i fun a => { a with st := st, cause := cause, braking := false, clearing := false }
  notify s 0x211 0x10 (i + 8 * st + 64 * cause)

/-- Place of a cause in the table of R432. (DEDUCED: log entry 72). -/
def causeRank (c : Nat) : Nat :=
  match c with
  | 7 => 0 | 4 => 1 | 2 => 2 | 6 => 3 | _ => 4

/-- A trigger: an energised axis starts its safe stop; one that is in it takes the cause if listed above.
(DEDUCED: log entry 72). -/
def trigger (s : State) (i cause : Nat) : State :=
  let a := axisOf s i
  if a.st = axRun ∨ a.st = axEnabling then setAxis s i axSafe cause
  else if a.st = axSafe ∧ causeRank cause < causeRank a.cause then modAxis s i fun a => { a with cause := cause }
  else s

/-- STOPPED at once, with a fault (R422, R428). -/
def stopAxis (s : State) (i cause kind : Nat) : State :=
  raise (setAxis s i axStopped cause) (plainFault 0x330 kind (112 + i) cause 0)

def live (a : Axis) : Bool := a.st == axRun || a.st == axEnabling
def energised (a : Axis) : Bool := live a || a.st == axSafe

/-- AXIS_CLEAR takes effect once no limit input and no drive FAULT remains active. -/
def clearAxis (s : State) (i : Nat) : State :=
  let a := axisOf s i
  if a.clearing ∧ a.st = axStopped ∧ ¬ a.limp ∧ ¬ a.limn ∧ ¬ a.drvFault then setAxis s i axOff a.cause else s

/-! ### The lens model (R433 to R435) -/

def lensKeys (s : State) : List Nat := (tgetD s.nw.calEff 1 []).map CalRec.key
def lensNz (s : State) : Nat := (lensKeys s).foldl (fun n k => max n (k % 65536 + 1)) 0
def lensNf (s : State) : Nat := (lensKeys s).foldl (fun n k => max n (k / 65536 + 1)) 0
def lensRec (s : State) (zi fi : Nat) : List Word := calRec s 1 (zi + 65536 * fi)

/-- Where a value lies among rising ones: the lower index and the fraction, clamped to the edges. -/
def bracket (vs : List Q) (x : Q) : Nat × Q :=
  let i := ((List.range (vs.length - 1)).filter fun k => qLe (vs.getD k default) x).getLast?.getD 0
  let lo := vs.getD i default
  let hi := vs.getD (i + 1) lo
  (i, if qLe hi lo then ⟨0, 1⟩ else qClamp ⟨0, 1⟩ ⟨1, 1⟩ (qDiv (qSub x lo) (qSub hi lo)))

def qLerp (a b t : Q) : Q := qAdd a (qMul t (qSub b a))

def zoomPositions (s : State) : List Q := (List.range (lensNz s)).map fun z => qInt (wd (lensRec s z 0) 0).toInt
def focusPositions (s : State) (z : Nat) : List Q := (List.range (lensNf s)).map fun f => qInt (wd (lensRec s z f) 1).toInt

/-- Fields F to FOCUS_M of one zoom row at a focus position. -/
def lensRow (s : State) (z : Nat) (f : Q) : List Q :=
  let b := bracket (focusPositions s z) f
  (List.range 6).map fun k => qLerp (prmQ (lensRec s z b.1) (2 + k)) (prmQ (lensRec s z (min (b.1 + 1) (lensNf s - 1))) (2 + k)) b.2

/-- The lens model at a zoom and a focus position (R434). -/
def lensModel (s : State) (z f : Q) : List Q :=
  let b := bracket (zoomPositions s) z
  ((lensRow s b.1 f).zip (lensRow s (min (b.1 + 1) (lensNz s - 1)) f)).map fun p => qLerp p.1 p.2 b.2

/-- (DESIGN CHOICE: log entry 71). -/
def focusMetres (s : State) (z f : Q) : Q := (lensModel s z f).getD 5 default

/-- Insert in rising order. -/
def qIns : List Q → Q → List Q
  | [], x => [x]
  | a :: r, x => if qLt x a then x :: a :: r else if qLe x a then a :: r else a :: qIns r x

/-- The focus position for a distance at a zoom: the model is linear between the focus positions of the two rows. -/
def focusFor (s : State) (z d : Q) : Q :=
  let b := bracket (zoomPositions s) z
  let fs := (focusPositions s b.1 ++ focusPositions s (min (b.1 + 1) (lensNz s - 1))).foldl qIns []
  let ms := fs.map (focusMetres s z)
  let last := fs.getLast?.getD default
  let rising := qLe (ms.getD 0 default) (ms.getLast?.getD default)
  let seg := (List.range (fs.length - 1)).find? fun k =>
    let m0 := ms.getD k default
    let m1 := ms.getD (k + 1) default
    (qLe m0 d && qLe d m1) || (qLe m1 d && qLe d m0)
  match seg with
  | some k =>
    let m0 := ms.getD k default
    let m1 := ms.getD (k + 1) default
    if m0 = m1 then fs.getD k default
    else qLerp (fs.getD k default) (fs.getD (k + 1) default) (qDiv (qSub d m0) (qSub m1 m0))
  | none => if qLt d (ms.getD 0 default) = rising then fs.getD 0 default else last

/-- Focus distance at a focus index: the index counts records, with fractions between them. -/
def distanceAt (s : State) (z idx : Q) : Q :=
  let b := bracket (zoomPositions s) z
  let i := (qFloor idx).toNat
  let t := qSub idx (qInt (qFloor idx))
  let row (k : Nat) : Q := qLerp (prmQ (lensRec s k i) 7) (prmQ (lensRec s k (min (i + 1) (lensNf s - 1))) 7) t
  qLerp (row b.1) (row (min (b.1 + 1) (lensNz s - 1))) b.2

/-! ### Focus and exposure (R56, R57, R435, R436) -/

/-- Whether a setpoint of an AUTO axis is held (R57): not energised, in safe stop, or in HOST mode. -/
def axisHeld (a : Axis) : Bool := !(live a) || !a.auto

/-- Post a house setpoint, or mark the axis as held. -/
def post (s : State) (i : Nat) (t : Q) : State :=
  if axisHeld (axisOf s i) then modAxis s i fun a => { a with held := true }
  else modAxis s i fun a => { a with held := false, next := some t }

/-- The focus controller on a 4 × 4 grid. -/
def focusStep (s : State) (grid : List Int) : State :=
  let den := grid.foldl (fun n g => n + g.natAbs) 0
  let p := prmOf s 4
  let z := (axisOf s 3).meas
  let dv := qMk (grid.foldl (· + ·) 0) den
  let top := lensNf s - 1
  let up : Q := if qLe (distanceAt s z ⟨0, 1⟩) (distanceAt s z (qInt top)) then ⟨1, 1⟩ else ⟨-1, 1⟩
  let step := qClamp (qNeg (prmQ p 13)) (prmQ p 13) (qMul (prmQ p 12) dv)
  let idx := if den = 0 then s.mc.focusIdx else qClamp ⟨0, 1⟩ (qInt top) (qAdd s.mc.focusIdx (qMul up step))
  let d := distanceAt s z idx
  post { s with mc := { s.mc with focusIdx := idx, focusD := d } } 4 (focusFor s z d)

/-- The exposure controller on a frame histogram. (DESIGN CHOICE: log entry 71). -/
def exposureStep (s : State) (frame : Nat) (h : List Nat) : State :=
  let n := h.foldl (· + ·) 0
  if n = 0 then s
  else
    let y := qMk (((List.range 16).foldl (fun a i => a + (2 * i + 1) * h.getD i 0) 0 : Nat)) (2 * n)
    let p := prmOf s 5
    let c := qMul (prmQ p 13) (Config.log2 (qDiv (prmQ p 12) y))
    let a := axisOf s 5
    let cur := a.next.getD a.target
    let aim := qClamp (prmQ p 6) (prmQ p 7) (qAdd cur (qMul c (prmQ p 15)))
    let moved := qDiv (qSub aim cur) (prmQ p 15)
    let rest := if axisHeld a then c else qSub c moved
    let g := qMul (qInt s.mc.gain) (Config.exp (qMul rest (Config.ln ⟨2, 1⟩)))
    let gain := (clampI 64 2048 (qRound g)).toNat
    let s := post s 5 aim
    if s.mc.manual then s
    else
      let gs := if s.hp.gains = [] then [(0, s.mc.gain)] else s.hp.gains
      { s with mc := { s.mc with gain := gain },
               hp := { s.hp with gains := tput (gs.drop (gs.length - 7)) (frame + 2) gain } }

/-- The Motion Controller receives the next frame statistics the Gallery sent. -/
def frameStats (s : State) : State :=
  match s.hp.sent with
  | [] => s
  | x :: r =>
    let s := { s with hp := { s.hp with sent := r } }
    if s.mc.halted then s
    else
      let s := { s with mc := { s.mc with stats := [(x.1, x.2.1, x.2.2.1)] } }
      exposureStep (focusStep s x.2.2.1) x.1 x.2.1

/-! ### Row poses (R222, R431) -/

/-- The Motion Controller receives the next a(y_m) and mid-exposure time, once its domain is on (R18). -/
def tmArrive (s : State) : State :=
  match s.hp.tm with
  | [] => s
  | x :: r => if (domOf s 11).pwr ≠ 2 then refreshDoms s else { s with hp := { s.hp with tm := r }, mc := { s.mc with tm := s.mc.tm ++ [(x.1, x.2.1, x.2.2.1, x.2.2.2.1, s.now, x.2.2.2.2)] } }

/-- The two bracketing samples of an axis, unless one is missing or outside the history. -/
def samplesAt (s : State) (i k : Nat) : Option (Q × Q) :=
  let h := (axisOf s i).hist
  match h.find? fun x => x.1 + 1 == k, h.find? fun x => x.1 == k with
  | some x, some y => if x.2.2 || y.2.2 then none else some (x.2.1, y.2.1)
  | _, _ => none

/-- The row pose of a mid-exposure time; none while it is reported as missing. -/
def formPose (s : State) (st frame row tm : Nat) : Option Pose :=
  let k := (tm + 49999) / 50000
  match (List.range 5).mapM (fun i => samplesAt s i k) with
  | none => none
  | some xs =>
    let t := qMk ((tm : Int) - 50000 * ((k : Int) - 1)) 50000
    let at' (i : Nat) : Q := let x := xs.getD i default; qLerp x.1 x.2 t
    let rate (i : Nat) : Q := let x := xs.getD i default; qDiv (qSub x.2 x.1) tickDt
    let vals := [at' 0, at' 1, at' 2] ++ lensModel s (at' 3) (at' 4) ++ [rate 0, rate 1]
    some ⟨st, frame, row, tm, false, vals.map qToF32⟩

/-- The poses whose time this tick has reached are sent to the Gallery. -/
def sendPoses (s : State) (n : Nat) : State :=
  let due := s.mc.tm.filter fun x => decide (x.2.2.2.1 ≤ n * 50000)
  let ps := due.filterMap fun x => formPose s x.1 x.2.1 x.2.2.1 x.2.2.2.1
  { s with mc := { s.mc with tm := s.mc.tm.filter fun x => !decide (x.2.2.2.1 ≤ n * 50000),
                             posesSent := s.mc.posesSent ++ ps } }

/-! ### The loop tick (R420 to R432) -/

/-- Encoder latch: count, missing mark, measured position, history, ENC_MISS (R423 to R425). -/
def latch (s : State) (i n : Nat) (x : AxisIn) : State :=
  let a := axisOf s i
  let p := prmOf s i
  let e := encOf s i
  let miss := if encBiss e then !x.ok else a.quadBad
  let c := if encBiss e then (if x.ok then x.pos else a.latched) else a.count
  let m := if miss then qAdd a.meas (qMul a.vPrev tickDt) else position i p e c
  let s := modAxis s i fun a => { a with
    latched := c, quadBad := false, meas := m, encRun := if miss then a.encRun + 1 else 0,
    encMiss := if miss then satInc 0xFF a.encMiss else a.encMiss, hist := ((n, m, miss) :: a.hist).take 1024 }
  let s := if encBiss e && x.ok && x.warn then raise s (plainFault 0x330 0x63 (112 + i) 0 0) else s
  if (live a ∧ 3 ≤ a.encRun + 1 ∨ a.st = axSafe ∧ a.encRun + 1 = 3) ∧ miss = true then
    raise (trigger s i 4) (plainFault 0x330 0x62 (112 + i) 4 0)
  else s

/-- Following error (R430). -/
def follow (s : State) (i : Nat) : State :=
  let a := axisOf s i
  let big := (a.st == axRun || a.st == axSafe) && qLt (prmQ (prmOf s i) 8) (qAbs (qSub a.p a.meas))
  let run := if big then a.ferrRun + 1 else 0
  let s := modAxis s i fun a => { a with ferrRun := run }
  if a.st = axRun ∧ 3 ≤ run ∨ a.st = axSafe ∧ run = 3 then
    raise (trigger s i 6) (plainFault 0x330 0x65 (112 + i) 6 0)
  else s

/-- One tick of motion from acceleration `a` to `an`: position and speed at its end. (DESIGN CHOICE: log entry 71). -/
def tickMove (p v a an : Q) : Q × Q :=
  (qAdd (qAdd p (qMul v tickDt)) (qMul (qDiv (qAdd (qAdd a a) an) (qInt 6)) (qSq tickDt)),
   qAdd v (qMul (qHalf (qAdd a an)) tickDt))

/-- Trajectory of an axis in RUN (R429): the time-optimal profile within the limits. (DESIGN CHOICE: log entry 71). -/
def runStep (p : List Word) (x : Axis) : Axis :=
  let tgt := qMin (qMax x.target (prmQ p 6)) (prmQ p 7)
  let vmax := prmQ p 1
  let acc := accLimit p
  let j := qMul (prmQ p 3) tickDt
  if x.p = tgt ∧ qZero x.v ∧ qZero x.a then x
  else
    let lo := qMax (qNeg acc) (qSub x.a j)
    let hi := qMin acc (qAdd x.a j)
    let an := qClamp lo hi (Config.profile [x.p, x.v, x.a, tgt, vmax, acc, prmQ p 3])
    let r := tickMove x.p x.v x.a an
    { x with p := r.1, v := qClamp (qNeg vmax) vmax r.2, a := an }

/-- The safe-stop ramp (R432): acceleration toward −SS_DEC × sign(v) at SS_JERK, then back to zero as v reaches 0.
(DESIGN CHOICE: log entry 71). -/
def rampStep (p : List Word) (x : Axis) : Axis :=
  let dec := prmQ p 9
  let j := qMul (prmQ p 10) tickDt
  if qZero x.v ∧ qZero x.a then x
  else
    let sg := if qZero x.v then qSign x.a else qSign x.v
    let ease := (qMul x.a sg).n < 0 ∧ qLe (qAbs x.v) (qDiv (qSq x.a) (qMul ⟨2, 1⟩ (prmQ p 10)))
    let want := if ease then ⟨0, 1⟩ else qMul (qNeg dec) sg
    let an := qClamp (qSub x.a j) (qAdd x.a j) want
    let r := tickMove x.p x.v x.a an
    if (qMul r.2 sg).n ≤ 0 ∧ ¬ qZero x.v then { x with p := r.1, v := ⟨0, 1⟩, a := ⟨0, 1⟩ }
    else { x with p := r.1, v := r.2, a := an }

/-- The command frame of the tick (R421, R428, R429): what the drive is sent. -/
def command (i : Nat) (p e : List Word) (x : Axis) : Axis :=
  let corr := if x.st = axSafe ∧ x.cause = 4 then ⟨0, 1⟩ else qMul (prmQ p 14) (qSub x.p x.meas)
  let moving := x.st = axRun ∨ x.st = axSafe ∧ ¬ x.braking
  let v := if moving then qAdd x.v corr else ⟨0, 1⟩
  let tq := if moving then qDiv (qMul (qMul (qInt 32767) (prmQ p 4)) x.a) (prmQ p 5) else ⟨0, 1⟩
  { x with
    seq := (x.seq + 1) % 16, vPrev := v, velCmd := qRound (qMul (qMul (encSign e) (unitScale i p)) v),
    torque := clampI (-32767) 32767 (qRound tq), en := energised x,
    brkRel := x.st == axRun || (x.st == axEnabling && x.ready) || (x.st == axSafe && !x.braking) }

/-- Trajectory of the tick, by state. -/
def moveAxis (s : State) (i : Nat) : State :=
  let p := prmOf s i
  let e := encOf s i
  modAxis s i fun x =>
    let x := { x with target := x.next.getD x.target, next := none }
    let x := if x.st = axRun then runStep p x else if x.st = axSafe ∧ ¬ x.braking then rampStep p x else x
    let x := { x with braking := x.braking || (x.st == axSafe && qZero x.v && qZero x.a) }
    command i p e x

/-- The drive's response (R422): link errors, READY, FAULT. -/
def response (s : State) (i prev : Nat) (x : AxisIn) : State :=
  let a := axisOf s i
  if ¬ x.crcOk ∨ x.seq ≠ prev then
    let s := modAxis s i fun a => { a with spiErr := satInc 0xFF a.spiErr, spiRun := a.spiRun + 1 }
    if energised a ∧ 3 ≤ a.spiRun + 1 then stopAxis s i 3 0x60 else s
  else
    let s := modAxis s i fun a => { a with spiRun := 0, drvFault := x.fault, ready := a.ready || (a.st == axEnabling && x.ready) }
    if energised a ∧ x.fault then stopAxis s i 5 0x61 else clearAxis s i

def axisTick (s : State) (i n : Nat) (x : AxisIn) : State :=
  let prev := (axisOf s i).seq
  response (moveAxis (follow (latch s i n x) i) i) i prev x

/-- Both outputs of R439, or ALIVE_H alone, hold their level. -/
def stopAlive (s : State) (m : Bool) : State :=
  let s := { s with mc := { s.mc with latchH := false }, pw := { s.pw with pins := { s.pw.pins with aliveH := .low } } }
  if m then { s with mc := { s.mc with latchM := false }, pw := { s.pw with pins := { s.pw.pins with aliveM := .low } } } else s

/-- The core re-arms the latches in the tick, or misses its re-arm; the second miss in a row stops both (R439). -/
def rearm (s : State) (ok : Bool) : State :=
  if ok then { s with mc := { s.mc with missedArm := 0 } }
  else
    let k := s.mc.missedArm + 1
    let s := { s with mc := { s.mc with missedArm := k } }
    if k = 2 ∧ s.mc.armed then raise (stopAlive s true) (plainFault 0x330 0x66 uMotion 0 0) else s

/-- A tick: encoders, trajectories and loops, SPI frames, the row poses due. -/
def loopTick (s : State) (ins : List AxisIn) (armed : Bool) : State :=
  let n := s.now / 50000
  let s := rearm s armed
  if s.mc.halted then
    (List.range 6).foldl (fun s i => latch s i n (ins.getD i default)) { s with mc := { s.mc with tm := [] } }
  else
    let z0 := (axisOf s 3).meas
    let s := (List.range 6).foldl (fun s i => axisTick s i n (ins.getD i default)) s
    let a4 := axisOf s 4
    let s := if (axisOf s 3).meas ≠ z0 ∧ a4.auto ∧ live a4 ∧ s.mc.stats ≠ [] then
        post s 4 (focusFor s (axisOf s 3).meas s.mc.focusD) else s
    sendPoses s n

/-! ### Events at the axes -/

/-- An edge of the quadrature inputs (R423): the counter moves by `dir`; a double transition makes the sample
missing; a rising Z is recorded with its count. -/
def encoderEdge (s : State) (i : Nat) (dir : Int) (both z : Bool) : State :=
  modAxis s i fun a =>
    let c := if both then a.count else sext 32 (intBits 32 (a.count + dir))
    { a with count := c, quadBad := a.quadBad || both, zEdges := if z then a.zEdges ++ [c] else a.zEdges }

/-- A limit input after its filter (R426). -/
def limitInput (s : State) (i : Nat) (pos active : Bool) : State :=
  let a := axisOf s i
  let was := if pos then a.limp else a.limn
  let s := modAxis s i fun a => if pos then { a with limp := active } else { a with limn := active }
  if active then
    if ¬ was ∧ live a then raise (trigger s i 2) (plainFault 0x330 0x64 (112 + i) 2 0) else s
  else clearAxis s i

/-- 100 ms without READY. (DEDUCED: log entry 72). -/
def readyTimeout (s : State) (i : Nat) : State :=
  let a := axisOf s i
  if a.st = axEnabling ∧ ¬ a.ready then stopAxis s i 5 0x61 else s

/-- BRAKE_MS has elapsed. (DEDUCED: log entry 87). -/
def brakeElapsed (s : State) (i : Nat) : State :=
  let a := axisOf s i
  if a.st = axEnabling ∧ a.ready then setAxis s i axRun a.cause
  else if a.st = axSafe ∧ a.braking then setAxis s i (if a.cause = 1 then axOff else axStopped) a.cause
  else s

/-- No heartbeat of Newel for 1 ms: every axis safe-stops as for AXIS_DISABLE (R460). -/
def heartbeatLoss (s : State) : State := (List.range 6).foldl (fun s i => trigger s i 1) s

/-! ### Requests (R426 to R429, R436) -/

def maskAxes (w : Word) : List Nat := (List.range 6).filter fun i => bit w i

def positive (w : Word) : Bool := f32Finite w.toNat && decide (0 < (f32ToQ w.toNat).n)

/-- The ranges of the axis record (R427). -/
def axisRecordOk (i : Nat) (p : List Word) : Bool :=
  p.length == 16 && (i ≥ 3 || f32Finite (wd p 0).toNat)
    && ([1, 2, 3, 4, 5, 8, 9, 10].all fun k => positive (wd p k))
    && f32Finite (wd p 6).toNat && f32Finite (wd p 7).toNat && qLt (prmQ p 6) (prmQ p 7)
    && decide (1 ≤ bits (wd p 11) 15 0 ∧ bits (wd p 11) 15 0 ≤ 1000)
    && decide (2500 ≤ bits (wd p 11) 31 16 ∧ bits (wd p 11) 31 16 ≤ 6250)
    && (i = 4 || i = 5 || (qZero (prmQ p 12) && qZero (prmQ p 13))) && f32Finite (wd p 12).toNat && f32Finite (wd p 13).toNat
    && f32Finite (wd p 14).toNat && qLe ⟨0, 1⟩ (prmQ p 14) && qLe (prmQ p 14) (qInt 2000)
    && f32Finite (wd p 15).toNat && (if i = 5 then positive (wd p 15) else qZero (prmQ p 15))

/-- The ranges of the encoder record, for BiSS-C (R423). -/
def encRecordOk (e : List Word) : Bool :=
  e.length == 2 && (!encBiss e || decide (8 ≤ bits (wd e 1) 7 2 ∧ bits (wd e 1) 7 2 ≤ 40 ∧ 4000 ≤ bits (wd e 1) 21 8
    ∧ bits (wd e 1) 21 8 ≤ 10000))

/-- The encoder offset record and the axis record take effect: the trajectory starts at the measured position.
(DEDUCED: log entry 72). -/
def enableAxis (s : State) (i : Nat) : State :=
  let p := calRec s 2 i
  let e := calRec s 3 i
  let s := modAxis s i fun a =>
    let m := position i p e a.latched
    { a with prm := p, enc := e, meas := m, p := m, v := ⟨0, 1⟩, a := ⟨0, 1⟩, target := m, next := none, ready := false,
             vPrev := ⟨0, 1⟩, ferrRun := 0 }
  setAxis s i axEnabling 0

/-- (DEDUCED: log entry 72). -/
def bodyAxisEnable : Body := fun _ r s =>
  let m := maskAxes (wd r.block 1)
  if deepEntry s then errRes s cBUSY
  else if m.any fun i => ! (axisRecordOk i (calRec s 2 i) && encRecordOk (calRec s 3 i)
      && (!encBiss (calRec s 3 i) || r.ver.bissOk)) then errRes s cRANGE
  else if m.any (fun i => (axisOf s i).st != axOff) ∨ s.mc.crit ∨ s.mc.lockout then errRes s cBADSTATE
  else okRes (m.foldl enableAxis s) []

/-- (DEDUCED: log entry 72). -/
def bodyAxisDisable : Body := fun _ r s =>
  let m := maskAxes (wd r.block 1)
  if m.any fun i => !live (axisOf s i) then errRes s cBADSTATE
  else okRes (m.foldl (fun s i => trigger s i 1) s) []

def bodyAxisClear : Body := fun _ r s =>
  let m := maskAxes (wd r.block 1)
  if m.any fun i => !((axisOf s i).st == axStopped) then errRes s cBADSTATE
  else okRes (m.foldl (fun s i => clearAxis (modAxis s i fun a => { a with clearing := true }) i) s) []

/-- A target beyond the current position in the direction of an active limit input (R426). -/
def towardLimit (a : Axis) (t : Q) : Bool := (a.limp && qLt a.meas t) || (a.limn && qLt t a.meas)

/-- (DEDUCED: log entry 72). -/
def bodyAxisMove : Body := fun _ r s =>
  let m := maskAxes (wd r.block 1)
  let tgt (i : Nat) : Q := prmQ r.block (2 + i)
  if m.any fun i => !f32Finite (wd r.block (2 + i)).toNat || towardLimit (axisOf s i) (tgt i) then errRes s cRANGE
  else if m.any fun i => (axisOf s i).auto then errRes s cBADSTATE
  else okRes (m.foldl (fun s i => modAxis s i fun a => { a with next := some (tgt i) }) s) []

def bodyAxisMode : Body := fun _ r s =>
  okRes (modAxis (modAxis s 4 fun a => { a with auto := bit (wd r.block 1) 0 }) 5 fun a => { a with auto := bit (wd r.block 1) 1 }) []

def bodyExposureSet : Body := fun _ r s =>
  let g := bits (wd r.block 1) 27 16
  let man := bit (wd r.block 1) 0
  if g < 64 ∨ 2048 < g then errRes s cRANGE
  else
    let s := { s with mc := { s.mc with manual := man } }
    okRes (if man then { s with mc := { s.mc with gain := g }, hp := { s.hp with gains := [] } } else s) []

/-! ### The rows and meanings -/

def maskRsv : List Word := [0xFFFFFFC0]
def specAxisEnable : ReqSpec := ⟨0x43, fromO, false, len 8, maskRsv, noLocks, .ready, bodyAxisEnable⟩
def specAxisDisable : ReqSpec := ⟨0x44, fromO, false, len 8, maskRsv, noLocks, .ready, bodyAxisDisable⟩
def specAxisClear : ReqSpec := ⟨0x45, fromO, false, len 8, maskRsv, noLocks, .ready, bodyAxisClear⟩
def specAxisMove : ReqSpec := ⟨0x46, fromO, false, len 32, maskRsv, noLocks, .ready, bodyAxisMove⟩
def specAxisMode : ReqSpec := ⟨0x47, fromO, false, len 8, [0xFFFFFFFC], noLocks, .ready, bodyAxisMode⟩
def specExposureSet : ReqSpec := ⟨0x49, fromO, false, len 8, [0xF000FFFE], noLocks, .ready, bodyExposureSet⟩

def execAxisEnable (r : ReqIn) (s : State) : Out := .next (runRequest specAxisEnable r s)
def execAxisDisable (r : ReqIn) (s : State) : Out := .next (runRequest specAxisDisable r s)
def execAxisClear (r : ReqIn) (s : State) : Out := .next (runRequest specAxisClear r s)
def execAxisMove (r : ReqIn) (s : State) : Out := .next (runRequest specAxisMove r s)
def execAxisMode (r : ReqIn) (s : State) : Out := .next (runRequest specAxisMode r s)
def execExposureSet (r : ReqIn) (s : State) : Out := .next (runRequest specExposureSet r s)
def execLoopTick (ins : List AxisIn) (armed : Bool) (s : State) : Out := .next (loopTick s ins armed)
def execLimitInput (axis : Nat) (pos active : Bool) (s : State) : Out := .next (limitInput s axis pos active)
def execDriveReadyTimeout (axis : Nat) (s : State) : Out := .next (readyTimeout s axis)
def execBrakeTimeElapsed (axis : Nat) (s : State) : Out := .next (brakeElapsed s axis)
def execNewelHeartbeatLoss (s : State) : Out := .next (heartbeatLoss s)
def execEncoderEdge (axis : Nat) (dir : Int) (both z : Bool) (s : State) : Out := .next (encoderEdge s axis dir both z)
def execFrameStatsArrive (s : State) : Out := .next (frameStats s)
def execTMArrive (s : State) : Out := .next (tmArrive s)

end Sys2Proof.Machine
end

