-- ==== Sys2Proof/Machine/Thermal.lean ====
section
/-! DEFINITION. Heater channels, alive outputs under heater runaway, coolant, throttle level and junction
temperature (spec/14, R437 to R443). -/

namespace Sys2Proof.Machine
open Sys2Proof

/-- Resistance of a thermistor under its 10.0 kΩ bias, from the 12-bit converter code of its input (R516).
(DESIGN CHOICE: log entry 71, DEDUCED: log entry 73). -/
def ntcOhm (code : Nat) : Q := qDiv (qInt (10000 * code : Nat)) (qInt (4096 - code : Nat))

/-- The input is open (above 1.240 V of 1.250 V) or shorted (below 0.010 V). (DEDUCED: log entry 73). -/
def ntcOpen (code : Nat) : Bool := decide (124 * 4096 < 125 * code ∨ 125 * code < 4096)

/-- °C of a thermistor by its converter code and its record: BETA, R25, OFFSET (table 0x04).
(DEDUCED: log entry 73). -/
def ntc (s : State) (key code : Nat) : Q :=
  let r := calRec s 4 key
  let inv := qAdd ⟨100, 29815⟩ (qDiv (Config.ln (qDiv (ntcOhm code) (prmQ r 1))) (prmQ r 0))
  qAdd (qSub (qInv inv) ⟨27315, 100⟩) (prmQ r 2)

/-- A reading outside −40 to 150 °C. -/
def offRange (t : Q) : Bool := qLt t (qInt (-40)) || qLt (qInt 150) t

def heaterOf (s : State) (c : Nat) : Heater := s.mc.heaters.getD c default
def modHeater (s : State) (c : Nat) (f : Heater → Heater) : State :=
  { s with mc := { s.mc with heaters := upd s.mc.heaters c f } }

/-- The parameters of HEAT_CONFIG in force from the next period: EN, SET to T_MAX as FP32 words. -/
def takeParams (h : Heater) : Heater :=
  match h.next with
  | none => h
  | some w =>
    let g (i : Nat) : Nat := w.getD i 0
    { h with en := g 0 == 1, set := g 1, kp := g 2, ki := g 3, kh := g 4, tau := g 5, theta := g 6, maxDuty := g 7,
             tMax := g 8, next := none }

/-- Seconds of a heater period. -/
def heatTs : Q := ⟨1, 10⟩

/-- The loop of R437 at a reading. -/
def heatLoop (h : Heater) (t : Q) : Heater :=
  let f := f32ToQ
  let m := qAdd h.m (qMul (qDiv heatTs (f h.tau)) (qSub (qMul (f h.kh) h.u) h.m))
  let hist := (m :: h.hist).take 601
  let md := hist.getD (qRound (qDiv (f h.theta) heatTs)).toNat ⟨0, 1⟩
  let e := qSub (f h.set) (qAdd t (qSub m md))
  let frozen := (qLe (f h.maxDuty) h.u && decide (0 < e.n)) || (decide (h.u.n ≤ 0) && decide (e.n < 0))
  let integ := if frozen then h.integ else qAdd h.integ (qMul (qMul (f h.ki) heatTs) e)
  let u := qClamp ⟨0, 1⟩ (f h.maxDuty) (qAdd (qMul (f h.kp) e) integ)
  { h with m := m, hist := hist, integ := integ, u := u, satur := frozen }

/-- The 12-bit duty (R437, R446). -/
def dutyOf (h : Heater) : Nat := (clampI 0 4095 (qRound (qMul h.u (qInt 4095)))).toNat

/-- A heater period: the checks of R438 in order, then the loop; runaway; the output pin. (DEDUCED: log entry 73). -/
def heaterPeriod (s : State) (c code : Nat) (readback : Bool) : State :=
  let h := takeParams (heaterOf s c)
  let t := ntc s c code
  let h := { h with temp := clampI (-32768) 32767 (qRound (qMul t (qInt 128))) }
  let tMax := f32ToQ h.tMax
  let zeroDuty := h.u.n = 0
  let unit := 118 + c
  let isBad := ntcOpen code || offRange t
  let above := qLt tMax t
  let overs := h.en && !isBad && (above || (h.overs && qLe (qSub tMax (qInt 5)) t))
  let h' : Heater :=
    if ¬ h.en then { h with m := ⟨0, 1⟩, hist := [], integ := ⟨0, 1⟩, u := ⟨0, 1⟩, sensorBad := false, overs := false, satur := false }
    else if isBad then { h with u := ⟨0, 1⟩, sensorBad := true, satur := false }
    else if overs ∨ s.mc.crit then { h with u := ⟨0, 1⟩, sensorBad := false, overs := overs, satur := false }
    else { heatLoop h t with sensorBad := false, overs := false }
  let s := modHeater s c fun _ => h'
  let s := if h.en ∧ isBad = true then raise s (plainFault 0x330 0x69 unit 0 0)
    else if h.en ∧ above = true then raise s (plainFault 0x330 0x6A unit 0 0) else s
  if (h.en ∧ ¬ isBad ∧ qLt (qAdd tMax (qInt 15)) t) ∨ (readback = true ∧ zeroDuty) then
    raise (stopAlive s false) (plainFault 0x330 0x6B unit 0 0)
  else s

/-! ### Coolant and throttle (R441 to R443) -/

/-- The condition of a throttle level, each threshold eased by a margin in °C and in L/min. -/
def levelHolds (s : State) (l : Nat) (dt df : Q) : Bool :=
  let m := s.mc
  let tj := qInt (if l = 1 then 95 else if l = 2 then 100 else 104)
  let inlet := qInt (if l = 1 then 40 else if l = 2 then 45 else 50)
  let fl : Q := if l = 1 then ⟨1, 2⟩ else if l = 2 then ⟨35, 100⟩ else ⟨1, 5⟩
  qLt (qSub tj dt) m.tj || qLt (qSub inlet dt) m.inlet || (m.flowSeen && qLt m.flow (qAdd fl df)) || (l == 2 && m.coolBad)

/-- The highest level whose condition holds. (DEDUCED: log entry 74). -/
def levelNow (s : State) : Nat :=
  if levelHolds s 3 ⟨0, 1⟩ ⟨0, 1⟩ then 3 else if levelHolds s 2 ⟨0, 1⟩ ⟨0, 1⟩ then 2
  else if levelHolds s 1 ⟨0, 1⟩ ⟨0, 1⟩ then 1 else 0

/-- A change of level: COOL_HOT or COOL_FLOW with the new level, and the THROTTLE notice. -/
def setLevel (s : State) (l : Nat) (byFlow : Bool) : State :=
  let s := { s with mc := { s.mc with level := l, byFlow := byFlow } }
  notify (raise s (plainFault 0x330 (if byFlow then 0x6D else 0x6C) 120 l 0)) 0x211 0x11 l

/-- The level rises at the sample that meets a condition. (DEDUCED: log entry 74). -/
def riseLevel (s : State) (byFlow : Bool) : State :=
  let l := levelNow s
  if s.mc.level < l then setLevel s l byFlow else s

/-- It falls by one after the condition of the present level has failed for 5 s, with its margins.
(DEDUCED: log entry 74). -/
def fallLevel (s : State) : State :=
  if s.mc.level = 0 ∨ levelHolds s s.mc.level ⟨2, 1⟩ ⟨1, 20⟩ then s else setLevel s (s.mc.level - 1) s.mc.byFlow

/-- (DEDUCED: log entry 74). -/
def coolantSample (s : State) (inCode outCode : Nat) : State :=
  let ti := ntc s 2 inCode
  let tOut := ntc s 3 outCode
  let bad := ntcOpen inCode || ntcOpen outCode || offRange ti || offRange tOut
  let was := s.mc.coolBad
  let s := { s with mc := { s.mc with inlet := ti, outlet := tOut, coolBad := bad } }
  let s := if bad ∧ ¬ was then raise s (plainFault 0x330 0x6E 120 0 0) else s
  riseLevel s false

/-- Tj reaches 108 °C: energised axes safe-stop, the heater duties are zero, AXIS_ENABLE is locked out. -/
def critical (s : State) : State :=
  let s := if s.mc.crit then s
    else raise { s with mc := { s.mc with crit := true, lockout := true } } (plainFault 0x330 0x6F 120 7 0)
  let s := { s with mc := { s.mc with heaters := s.mc.heaters.map fun h => { h with u := ⟨0, 1⟩ } } }
  (List.range 6).foldl (fun s i => trigger s i 7) s

/-- A junction sample in quarters of a degree. -/
def junctionSample (s : State) (quarters : Int) : State :=
  let s := { s with mc := { s.mc with tj := qMk quarters 4 } }
  let s := if 4 * 108 ≤ quarters then critical s else { s with mc := { s.mc with crit := false } }
  riseLevel s false

/-- A pulse of the flow meter. -/
def flowPulse (s : State) : State := { s with mc := { s.mc with pulses := s.mc.pulses ++ [s.now] } }

/-- The flow over the last second, at the 100 ms update. -/
def flowUpdate (s : State) : State :=
  let ps := s.mc.pulses.filter fun t => decide (s.now < t + 1000000000)
  let perL := f32ToQ (wd (calRec s 4 4) 0).toNat
  let flow := qDiv (qInt (60 * ps.length : Nat)) perL
  riseLevel { s with mc := { s.mc with pulses := ps, flow := flow, flowSeen := true } } true

/-- Tj has stayed below 100 °C for 5 s. (DEDUCED: log entry 87). -/
def lockoutEnd (s : State) : State :=
  if qLt s.mc.tj (qInt 100) then { s with mc := { s.mc with lockout := false } } else s

/-! ### HEAT_CONFIG -/

/-- The ranges of the heater parameters. -/
def heatRanges (w : List Word) : Bool :=
  let q (i : Nat) : Q := f32ToQ (wd w i).toNat
  let within (i : Nat) (lo hi : Q) : Bool := qLe lo (q i) && qLe (q i) hi
  ((List.range 8).all fun i => f32Finite (wd w (2 + i)).toNat)
    && within 2 (qInt (-40)) (qInt 80) && within 3 (qInt 0) (qInt 10) && within 4 (qInt 0) (qInt 1)
    && within 5 ⟨1, 10⟩ (qInt 200) && within 6 (qInt 1) (qInt 3600) && within 7 (qInt 0) (qInt 60)
    && (qToF32 (qMk (qRound (qMul (q 7) (qInt 10))) 10) == (wd w 7).toNat)
    && within 8 (qInt 0) (qInt 1) && within 9 (qInt 0) (qInt 120)

def bodyHeatConfig : Body := fun _ r s =>
  let w := r.block
  if ¬ heatRanges w then errRes s cRANGE
  else
    let c := bits (wd w 1) 0 0
    let ps := (if bit (wd w 1) 1 then 1 else 0) :: (List.range 8).map fun i => (wd w (2 + i)).toNat
    okRes (modHeater s c fun h => { h with next := some ps }) []

def specHeatConfig : ReqSpec := ⟨0x48, fromO, false, len 40, [0xFFFFFFFC], noLocks, .ready, bodyHeatConfig⟩

def execHeatConfig (r : ReqIn) (s : State) : Out := .next (runRequest specHeatConfig r s)
def execHeaterPeriod (ch code : Nat) (readback : Bool) (s : State) : Out := .next (heaterPeriod s ch code readback)
def execCoolantSample (inCode outCode : Nat) (s : State) : Out := .next (coolantSample s inCode outCode)
def execJunctionSample (quarters : Int) (s : State) : Out := .next (junctionSample s quarters)
def execFlowPulse (s : State) : Out := .next (flowPulse s)
def execFlowUpdate (s : State) : Out := .next (flowUpdate s)
def execThrottleFallTimeout (s : State) : Out := .next (fallLevel s)
def execThermalLockoutEnd (s : State) : Out := .next (lockoutEnd s)

end Sys2Proof.Machine
end

