-- ==== Sys2Proof/Machine/TileCycle.lean ====
section
/-! DEFINITION. The start of a tile cycle (spec/11): time, frames, frame-boundary work, house slots, budgets,
background shortfalls. -/

namespace Sys2Proof.Machine
open Sys2Proof

/-- The Timebase runs: the part is powered and in Run or Idle. -/
def timeRuns (s : State) : Bool := s.pw.st == .run || s.pw.st == .idle

/-- The instant of the next tile cycle: in phase with the epoch once it is set, else 1 µs on.
(DEDUCED: log entry 58). -/
def nextCycle (s : State) : Nat :=
  if ¬ s.tt.set then s.now + 1000
  else if s.now < s.tt.epoch then
    let d := (s.tt.epoch - s.now) % 1000
    s.now + if d = 0 then 1000 else d
  else s.tt.epoch + 1000 * ((s.now - s.tt.epoch) / 1000 + 1)

/-! ### Budgets (R340, R453) -/

/-- Groups of the active image's Hall entries: Hall, context, kind, tag, first cycle, end. (DEDUCED: log entry 70). -/
def groups (s : State) : List (Nat × Nat × Nat × Nat × Nat × Nat) :=
  let es := ((s.tt.active.map TtImage.entries).getD []).filter fun e => e.unit < 4 && !e.idle && tasksFor' s e != []
  es.foldl (fun l e =>
    if l.any fun g => g.1 == e.unit && g.2.1 == e.ctx && g.2.2.1 == e.kind && g.2.2.2.1 == e.tag then
      l.map fun g => if g.1 = e.unit ∧ g.2.1 = e.ctx ∧ g.2.2.1 = e.kind ∧ g.2.2.2.1 = e.tag then
        (g.1, g.2.1, g.2.2.1, g.2.2.2.1, min g.2.2.2.2.1 e.start, max g.2.2.2.2.2 (e.start + e.len)) else g
    else l ++ [(e.unit, e.ctx, e.kind, e.tag, e.start, e.start + e.len)]) []
where tasksFor' (s : State) (e : TtEntry) : List Task :=
  ((tget s.tt.sched e.ctx).map Sched.tasks).getD [] |>.filter fun t => t.hall == e.unit && t.load == (e.kind == 3) && t.tag == e.tag

/-- The first window of a group begins: note what the Hall has taken so far. (DEDUCED: log entry 70). -/
def markGroups (s : State) : State :=
  (groups s).foldl (fun s g =>
    if g.2.2.2.2.1 = s.tt.cycle then
      { s with tt := { s.tt with marks := (s.tt.marks.filter fun m => !(m.1 == g.1 && m.2.1 == g.2.1 && m.2.2.1 == g.2.2.1 && m.2.2.2.1 == g.2.2.2.1))
        ++ [(g.1, g.2.1, g.2.2.1, g.2.2.2.1, (hallOf s g.1).arrivals)] } }
    else s) s

/-- A declared list of the tag that was there before the group's first window is still in the queue.
(DEDUCED: log entry 70). -/
def overran (s : State) (h c kind tag mark : Nat) : Bool :=
  let vas := (((tget s.tt.sched c).map Sched.tasks).getD [] |>.filter fun t => t.hall == h && t.load == (kind == 3) && t.tag == tag).map Task.va
  (hq (hallOf s h) (kind == 3) c).entries.any fun e => e.single == [] && e.arrival ≤ mark && vas.contains e.va

/-- The last window of a group of the frame has ended at cycle `c`. (DEDUCED: log entry 70). -/
def checkBudgets (s : State) (c : Nat) : State :=
  if s.tt.slowed ∨ 0 < s.tt.level then s
  else (groups s).foldl (fun s g =>
    if g.2.2.2.2.2 = c ∧ ¬ s.tt.waited.contains (g.1, g.2.1) then
      match s.tt.marks.find? fun m => m.1 == g.1 && m.2.1 == g.2.1 && m.2.2.1 == g.2.2.1 && m.2.2.2.1 == g.2.2.2.1 with
      | some m => if overran s g.1 g.2.1 g.2.2.1 g.2.2.2.1 m.2.2.2.2 then raise s (ctxFault 0x310 0x4B uNewel g.2.1 g.2.2.2.1 0) else s
      | none => s
    else s) s

/-! ### Frame boundaries (R333, R334, R348, R350, R352, R467) -/

/-- The shortfall accounting of the frame that ended; a newly due activity raises BG_DEFER.
(DEDUCED: log entry 82). -/
def bgBoundary (s : State) : State :=
  (List.range 7).foldl (fun s a =>
    let b := s.tt.bg.getD a default
    let n := if 0 < b.shortfall then satInc 0x7FFF b.shortFr else 0
    let due := decide (2 ≤ n)
    let s := { s with tt := { s.tt with bg := s.tt.bg.set a { b with shortFr := n, due := due } } }
    if due ∧ ¬ b.due then raise s (plainFault 0x310 0x4C uNewel a 0) else s) s

/-- Halls that cannot present their array are withdrawn. -/
def withdrawHalls (s : State) : State :=
  (List.range 4).foldl (fun s h =>
    if s.fc.hallBad.getD h false ∧ ¬ s.fc.hallOut.getD h false then
      raise { s with fc := { s.fc with hallOut := s.fc.hallOut.set h true } } (plainFault 0x310 0x7D h 0 0)
    else s) s

/-- Rows of the house weight region with an uncorrectable error are rewritten in the maintenance slot (R94). -/
def rewriteHouseRows (s : State) : State :=
  (List.range 4).foldl (fun s h => modHall s h fun x => { x with badRows := x.badRows.filter fun b => !(b.1 == 0 && decide (b.2 < 32768)) }) s

/-- Flights that wait for a frame boundary may run their next tread. (DEDUCED: log entry 16). -/
def wakeFrameFlights (s : State) : State :=
  { s with nw := { s.nw with flights := s.nw.flights.map fun f => if f.wait = .frame then { f with wait := .ready } else f } }

/-- Frames that pass while a Grave fault holds the house pipeline stopped are lost (R469). -/
def graveLost (s : State) : State :=
  if s.hp.graveStop then
    let n := ((List.range 2).filter fun st => streamOn s st).length
    { s with fc := { s.fc with availLost := sat 0xFFFFFFFF (s.fc.availLost + n) } }
  else s

/-- A core's substitution that has waited 600 frames takes the core's tenant slots for a frame (R465). -/
def holdCores (s : State) : State :=
  let due := s.fc.substWait.filter fun w => w.1 == 0 && decide (w.2.2 + 600 ≤ s.tt.frame)
  let cores := (List.range 32).filter fun k => due.any fun w =>
    w.2.1 == 9 * (k / 8) + s.ms.scMap.getD (k / 8) 0 / 16 ^ (k % 8) % 16
  { s with tt := { s.tt with heldCores := cores } }

/-- (DEDUCED: log entry 88). -/
def frameBoundary (s : State) : State :=
  let s := holdCores (graveLost (bgBoundary s))
  let s := { s with tt := { s.tt with marks := [], waited := [], slowed := decide (0 < s.tt.level), levelFrame := s.tt.level, gated := s.pw.st != .run,
                                      readyPrev := s.tt.ready, ready := [none, none, none, none] } }
  let s := activate s
  let s := withdrawHalls (rewriteHouseRows s)
  let s := if s.hp.stopping then stopHouse s else s
  let s := if s.hp.starting ∧ s.pw.houseCtxReady ∧ s.pw.st = .run ∧ houseFits s then startHouse s else s
  let s := unbindDue s
  let s := if s.hp.running then
      { scheduleFsync s with tt := { s.tt with ttFrame := s.tt.ttFrame + 1 } }
    else { s with tt := { s.tt with ttFrame := 0 } }
  wakeFrameFlights s

/-! ### The tile cycle -/

/-- Without the house pipeline the Halls have no house slot. -/
def clearSlots (s : State) : State :=
  (List.range 4).foldl (fun s h => modHall s h fun x =>
    { x with kind := if s.tt.set ∧ s.tt.cycle < maintLen then 4 else 0, ctx := 0, busy := false, fresh := [] }) s

/-- The counters of the new cycle. -/
def setCycle (s : State) : State :=
  let n := (s.now - s.tt.epoch) / 1000
  let k := frameOf s.tt.rate n
  { s with tt := { s.tt with total := n, frame := k, cycle := n - frameStart s.tt.rate k } }

/-- (DEDUCED: log entry 58). -/
def tileCycle (s : State) : State :=
  let s := { s with now := nextCycle s, tt := { s.tt with level := s.mc.level } }
  if ¬ timeRuns s ∨ ¬ s.tt.set ∨ s.now < s.tt.epoch then s
  else
    let len := frameStart s.tt.rate (s.tt.frame + 1) - frameStart s.tt.rate s.tt.frame
    let s := setCycle s
    let s := checkBudgets s (if s.tt.cycle = 0 then len else s.tt.cycle)
    let was := s.hp.running
    let s := if s.tt.cycle = 0 then frameBoundary s else s
    let s := if 0 < s.tt.level then { s with tt := { s.tt with slowed := true } } else s
    let s := markGroups s
    if s.hp.running then
      let s := if was then { s with hp := { s.hp with slots := s.hp.slots + 1 } } else s
      restores (houseSlots (assignSlots s))
    else restores (clearSlots s)

/-- What is slewed out, rate by rate, while the rate returns to nominal. -/
def brake (r : Int) : Int := r * (r.natAbs + 1 : Nat) / 2

/-- The rate of the next tile cycle: at most 0.01 ppm from the last and within ±50 ppm, the fastest that can return to
nominal without overrunning the offset (R15, R392). (DESIGN CHOICE: log entry 101). -/
def nextRate (r g : Int) : Int :=
  clampI (-5000) 5000 (if brake (r + 1) ≤ g ∧ r < 5000 then r + 1 else if brake r ≤ g then r else r - 1)

/-- A tile cycle of slewing; in holdover the Timebase keeps its rate (R15, R392, R393). (DEDUCED: log entry 58). -/
def slew (s : State) : State :=
  if s.ring.gHold then s
  else
    let r := nextRate s.ring.gRate s.ring.gSlew
    { s with ring := { s.ring with gRate := r, gSlew := s.ring.gSlew - r } }

def execTileCycleStart (s : State) : Out := .next (refreshDoms (tileCycle (slew s)))

end Sys2Proof.Machine
end

