-- ==== Sys2Proof/Machine/Collector.lean ====
section
/-! DEFINITION. The Fault Collector and Newel's handling of its messages: classes, windows, FAULT_N, the first
fault, the pending queue, context fault records, the global error queue, Grave responses, FAULT_CLEAR
(spec/15, R448 to R462; R127, R152, R171). -/

namespace Sys2Proof.Machine
open Sys2Proof


/-- Kinds bound to a context (R453, R454). -/
def contextBound (kind : Nat) : Bool :=
  [0x13, 0x14, 0x18, 0x19, 0x1A, 0x20, 0x30, 0x31, 0x32, 0x33, 0x43, 0x48, 0x49, 0x4A, 0x4B, 0x50, 0x51].contains kind

/-- Grave kinds; ARR_ECC_UNC only in Newel or the Landing. -/
def graveKind (kind unit : Nat) : Bool :=
  [0x66, 0x67, 0x68, 0x6B, 0x70, 0x42, 0x7E].contains kind || (kind == 0x78 && (unit == uLanding || unit == uNewel))

/-- Entry class and thresholds (N, W in ns or none for "total", class) of a counting source (R453). -/
def classRule (kind unit : Nat) : Nat × List (Nat × Option Nat × Nat) :=
  if graveKind kind unit then (3, [])
  else if kind = 0x01 then (0, [(1000, some nsSec, 1)])
  else if [0x02, 0x03, 0x04, 0x05, 0x06].contains kind then (0, [(16, some nsSec, 1)])
  else if kind = 0x07 ∨ kind = 0x09 then (1, [])
  else if [0x08, 0x34, 0x36, 0x37].contains kind then (0, [(1000, some nsSec, 1)])
  else if [0x0A, 0x2B, 0x35].contains kind then (0, [(4, some nsHour, 1), (64, some nsHour, 2)])
  else if [0x10, 0x23, 0x25].contains kind then (0, [(256, some nsHour, 1)])
  else if [0x11, 0x24, 0x26, 0x78].contains kind then (0, [(4, some nsDay, 1)])
  else if kind = 0x21 ∨ kind = 0x22 then (1, [(4, some nsDay, 2)])
  else if kind = 0x27 then (0, [(4, some nsHour, 1), (64, some nsHour, 2)])
  else if [0x28, 0x12, 0x79, 0x1B, 0x40, 0x63, 0x54, 0x55, 0x56].contains kind then (0, [(16, some nsSec, 1)])
  else if [0x29, 0x7A, 0x41, 0x44, 0x53, 0x7C].contains kind then (1, [(256, none, 2)])
  else if [0x2A, 0x7D, 0x1C, 0x45, 0x6F].contains kind then (2, [])
  else if [0x60, 0x61, 0x62, 0x64, 0x65, 0x69, 0x6A, 0x6C, 0x6D, 0x6E].contains kind then (1, [])
  else if kind = 0x52 then (0, [(64, some nsSec, 1)])
  else if kind = 0x4C then (0, [(36, some nsHour, 1)])
  else (0, [])

/-- A message in a window of a threshold: a message later than W after the start opens a new window. -/
def countWindow (now : Nat) (w : Option Nat) (x : Window) : Window :=
  let open' := match w with
    | some d => x.count == 0 || decide (x.start + d < now)
    | none => x.count == 0
  if open' then ⟨1, now⟩ else ⟨satInc 0xFFFF x.count, x.start⟩

def freshSource (kind unit : Nat) : Source := ⟨kind, unit, 0, (classRule kind unit).2.map fun _ => ⟨0, 0⟩, 0⟩

def sourceOf (s : State) (kind unit : Nat) : Source :=
  (s.fc.sources.find? fun x => x.kind == kind && x.unit == unit).getD (freshSource kind unit)

def putSource (s : State) (x : Source) : State :=
  { s with fc := { s.fc with sources := (s.fc.sources.filter fun y => !(y.kind == x.kind && y.unit == x.unit)) ++ [x] } }

/-- A counting source after one more message (R451). -/
def countSource (now : Nat) (x : Source) : Source :=
  let rule := classRule x.kind x.unit
  let wins := (rule.2.zip x.wins).map fun p => countWindow now p.1.2.1 p.2
  let cls := (rule.2.zip wins).foldl (fun c p => if p.1.1 ≤ p.2.count then max c p.1.2.2 else c) (max x.cls rule.1)
  { x with wins := wins, cls := cls, total := satInc 0xFFFF x.total }

/-- FAULT_N is low while any source stands at Degraded or above (R456). -/
def faultLow (s : State) : Bool := s.fc.sources.any fun x => decide (1 ≤ x.cls)

def driveFaultN (s : State) : State :=
  { s with pw := { s.pw with pins := { s.pw.pins with faultN := if faultLow s then .low else .high } } }

/-- FIRST_SRC and OVF (R457). -/
def latchFirst (s : State) (m : FaultMsg) (cls : Nat) : State :=
  if cls = 0 then s
  else if s.fc.first.valid then { s with fc := { s.fc with first := { s.fc.first with ovf := true } } }
  else { s with fc := { s.fc with first := ⟨true, false, cls, m.kind, m.source, m.unit, m.addr % 2 ^ 48, m.arg % 65536⟩ } }

/-! ### Grave responses (R460) -/

/-- Motion: no setpoints, no row poses, the alive outputs stop. -/
def graveMotion (s : State) (heat : Bool) : State :=
  let s := stopAlive s (!heat)
  { s with mc := { s.mc with halted := true } }

/-- What hardware does at once (R381, R439, R460). (DEDUCED: log entry 75). -/
def graveHardware (s : State) (kind unit : Nat) : State :=
  if [0x66, 0x67, 0x68].contains kind then graveMotion s false
  else if kind = 0x6B then graveMotion s true
  else if kind = 0x42 ∨ (kind = 0x78 ∧ unit = uNewel) ∨ (kind = 0x7E ∧ unit = 194) then
    { s with pw := { s.pw with newelHalt := true } }
  else if (kind = 0x78 ∧ unit = uLanding) ∨ (kind = 0x7E ∧ unit = 193) then
    { s with pw := { s.pw with pins := { s.pw.pins with bypHold := .low } } }
  else s

/-- Abort every queue, as for a destroy (R320). -/
def abortAll (s : State) : State :=
  ((s.cc.queues.filter fun p => p.2.st != .free).map Prod.fst).foldl (fun s q => quiesceQueue (beginDestroy s q) q) s

/-- What Newel does when it handles a Grave message. (DEDUCED: log entry 75). -/
def graveNewel (s : State) (kind unit : Nat) : State :=
  let s := { s with num := { s.num with svc := 3 } }
  if kind = 0x7E ∧ 195 ≤ unit then
    let s := stopHouse s
    abortAll { s with hp := { s.hp with graveStop := true, starting := false }, pw := { s.pw with onlyStatus := true } }
  else s

/-! ### Arrival (R450, R451, R457, R458) -/

/-- A message is presented in the order of SOURCE, then UNIT. (DEDUCED: log entry 75). -/
def insMsg (m : FaultMsg) : List FaultMsg → List FaultMsg
  | [] => [m]
  | x :: r => if m.source < x.source ∨ (m.source = x.source ∧ m.unit < x.unit) then m :: x :: r else x :: insMsg m r

/-- The island a unit stands in: the crossing its messages take (R13, R17). -/
def unitIsland (u : Nat) : Nat :=
  if 16 ≤ u ∧ u < 48 then 10 + (u - 16) / 8
  else if 216 ≤ u ∧ u < 252 then 10 + (u - 216) / 9
  else if (80 ≤ u ∧ u < 112) ∨ (128 ≤ u ∧ u < 192) then 5
  else if 192 ≤ u ∧ u < 213 then u - 192
  else if u = uOutbound then 15 else 1

/-- The crossing of a message: that of its source's island (R450). -/
def crossing (m : FaultMsg) : Nat := if m.source = 0x370 then unitIsland m.unit else m.source

/-- A message that a crossing does not hold yet is presented to it, behind those it holds. -/
def present (s : State) (m : FaultMsg) : State := if s.fc.wire.contains m then s else raise s m

/-- The next message of the crossing that a message takes: each crossing delivers in the order of presentation (R17). -/
def nextOf (s : State) (m : FaultMsg) : FaultMsg := (s.fc.wire.find? fun x => crossing x == crossing m).getD m

/-- The message is no longer at its crossing. -/
def offWire (s : State) (m : FaultMsg) : State := { s with fc := { s.fc with wire := s.fc.wire.erase m } }

/-- The collector takes one message: count, class, event, FAULT_N, first fault, pending queue. A Grave message
that finds the queue full stays at its crossing, and what stands behind it there with it. (DEDUCED: log entry 75). -/
def takeMsg (s : State) (m : FaultMsg) : State :=
  let was := sourceOf s m.kind m.unit
  let x := countSource s.now was
  if x.cls = 3 ∧ 64 ≤ s.fc.pending.length then s
  else
    let s := putSource (offWire s m) x
    let s := if was.cls < x.cls ∧ ¬ s.pw.newelHalt then sendEvent s 0x300 0x89 0xFFF (fld 0 8 m.kind + fld 8 8 m.unit + fld 16 2 x.cls) else s
    let s := driveFaultN (latchFirst s m x.cls)
    let s := if x.cls = 3 then
        let s := graveHardware s m.kind m.unit
        { s with pw := { s.pw with grave := if s.pw.grave.contains (m.kind, m.unit) then s.pw.grave else s.pw.grave ++ [(m.kind, m.unit)] } }
      else s
    if x.cls ≠ 3 ∧ 60 ≤ s.fc.pending.length then { s with fc := { s.fc with dropped := satInc 0xFFFF s.fc.dropped } }
    else { s with fc := { s.fc with pending := s.fc.pending ++ [⟨m, x.cls, s.now, s.fc.cycles⟩] } }

/-- The messages that arrive in one Newel cycle, in the order of SOURCE, then UNIT: each crossing they come by delivers the
one presented first (R17). (DEDUCED: log entry 75). -/
def arrive (s : State) (ms : List FaultMsg) : State :=
  let s := ms.foldl present { s with fc := { s.fc with cycles := s.fc.cycles + 1 } }
  (ms.foldr insMsg []).foldl (fun s m => takeMsg s (nextOf s m)) s

/-! ### Handling (R459, R461, R462) -/

/-- The words of the NaN trap record (R127). -/
def nanRecord (s : State) (m : FaultMsg) : List Word :=
  let e (i : Nat) : Nat := m.extra.getD i 0
  [sizeVer 64, reg [fld 0 12 m.ctx, fld 16 11 m.queue], BitVec.ofNat 32 m.cmd, reg [fld 0 8 (e 0), fld 8 8 (e 1), fld 16 16 (e 2)],
   BitVec.ofNat 32 (e 3), BitVec.ofNat 32 (e 4), BitVec.ofNat 32 (e 5), BitVec.ofNat 32 (e 6)] ++ timeWords s ++ [1]
   ++ List.replicate 5 0

/-- The words of the collective fault record (R152). -/
def collRecord (s : State) (m : FaultMsg) : List Word :=
  let e (i : Nat) : Nat := m.extra.getD i 0
  [sizeVer 64, reg [fld 0 12 m.ctx, fld 16 11 m.queue], BitVec.ofNat 32 m.cmd, reg [fld 0 8 (e 0), fld 8 8 (e 1), fld 16 16 (e 2)],
   BitVec.ofNat 32 (e 3), BitVec.ofNat 32 (e 4), reg [fld 0 5 (e 5), fld 5 5 (e 6)], BitVec.ofNat 32 (e 7),
   BitVec.ofNat 32 (e 8), BitVec.ofNat 32 (e 9), BitVec.ofNat 32 (e 10)] ++ timeWords s ++ [1, 0, 0]

/-- The words of the memory fault record (R171). -/
def memRecord (s : State) (m : FaultMsg) (n : Nat) : List Word :=
  [sizeVer 48, reg [fld 0 12 m.ctx, fld 16 11 m.queue], BitVec.ofNat 32 m.cmd,
   reg [fld 0 8 m.unit, fld 8 3 m.arg, fld 11 3 (m.arg / 8)], lo32 m.addr, hi32 (m.addr % 2 ^ 48)] ++ timeWords s
   ++ [BitVec.ofNat 32 n, 0, 0, 0]

/-- A count in the low half of a record's word goes up by one, saturating. -/
def bumpWord (ws : List Word) (i : Nat) : List Word := ws.set i (BitVec.ofNat 32 (satInc 0xFFFF (bits (wd ws i) 15 0)))

/-- Uncorrectable errors and broken checks of a context's data: its fault state records the event (R53, R190). -/
def eventKinds : List Nat := [0x0A, 0x11, 0x24, 0x26]

/-- The last address and the count of an event kind. (DESIGN CHOICE: log entry 96). -/
def noteEvent (l : List (Nat × Nat × Nat)) (m : FaultMsg) : List (Nat × Nat × Nat) :=
  tput l m.kind (m.addr, satInc 0xFFFF (((tget l m.kind).map Prod.snd).getD 0))

/-- The fault records of the context a message names. -/
def recordFault (s : State) (p : Pending) : State :=
  let m := p.msg
  match ctxOf s m.ctx with
  | none => s
  | some c =>
    if m.kind = 0x13 ∨ m.kind = 0x18 then
      setCtx s m.ctx { c with nanRec := if c.nanRec = [] then nanRecord s m else bumpWord c.nanRec 10 }
    else if m.kind = 0x19 then
      setCtx s m.ctx { c with collRec := if c.collRec = [] then collRecord s m else bumpWord c.collRec 13 }
    else if m.kind = 0x20 ∧ m.source = 0x370 ∧ m.unit = uLanding then s
    else if m.kind = 0x20 then
      if c.memRec = [] then setCtx s m.ctx { c with memRec := memRecord s m 1, memRecCyc := p.cyc }
      else if c.memRecCyc = p.cyc ∧ m.unit < bits (wd c.memRec 3) 7 0 then
        setCtx s m.ctx { c with memRec := memRecord s m (satInc 0xFFFF (bits (wd c.memRec 8) 15 0)) }
      else setCtx s m.ctx { c with memRec := bumpWord c.memRec 8 }
    else if eventKinds.contains m.kind then setCtx s m.ctx { c with events := noteEvent c.events m }
    else s

/-- An entry of the global error queue. -/
def errEntry (p : Pending) : List Word :=
  let m := p.msg
  [sizeVer 32, reg [fld 0 12 m.source, fld 12 8 m.kind, fld 20 2 p.cls, fld 22 8 m.unit], reg [fld 0 12 m.ctx, fld 12 11 m.queue],
   BitVec.ofNat 32 m.obj, lo32 m.addr, reg [fld 0 16 (m.addr / 2 ^ 32), fld 16 16 m.cmd], lo32 p.time, hi32 p.time]

/-- Newel writes the entry, or drops it: no object, or the queue is full. -/
def writeErr (s : State) (p : Pending) : State :=
  let drop := { s with fc := { s.fc with errqDrop := satInc 0xFFFFFFFF s.fc.errqDrop } }
  match (if s.fc.errqObj = 0 then none else findObj s s.fc.errqObj) with
  | none => drop
  | some (slot, _) =>
    if (s.fc.errqW - s.fc.errqR).toNat = 4096 then drop
    else
      let s := objWrite s slot (32 * (s.fc.errqW.toNat % 4096)) (wordBytes (errEntry p))
      { s with fc := { s.fc with errqW := s.fc.errqW + 1 } }

/-- Newel handles one pending message: Grave messages first, each class in arrival order. -/
def handleMsg (s : State) : State :=
  if s.pw.newelHalt then s
  else match (s.fc.pending.find? fun p => p.cls == 3).or s.fc.pending.head? with
    | none => s
    | some p =>
      let s := { s with fc := { s.fc with pending := s.fc.pending.erase p } }
      let s := recordFault s p
      let s := if contextBound p.msg.kind ∨ 1 ≤ p.cls then writeErr s p else s
      if p.cls = 3 then graveNewel s p.msg.kind p.msg.unit
      else if p.msg.kind = 0x78 ∧ 192 ≤ p.msg.unit ∧ ¬ s.fc.sramRows.contains (p.msg.unit, p.msg.addr) then
        wantSpare s (1000 + p.msg.unit) p.msg.addr
      else s

/-! ### FAULT_CLEAR (R455) and the register writes -/

def clearSource (x : Source) : Source := if x.cls = 3 then x else { x with cls := 0, wins := x.wins.map fun _ => ⟨0, 0⟩, total := 0 }

def bodyFaultClear : Body := fun _ r s =>
  let w := wd r.block 1
  let k := bits w 7 0
  let u := bits w 15 8
  if bit w 16 then
    let xs := s.fc.sources.map clearSource
    let n := sat 0x3FFF (xs.filter fun x => x.cls == 3).length
    { st := driveFaultN { s with fc := { s.fc with sources := xs } }, status := cOK, detail := n, result := [] }
  else if (sourceOf s k u).cls = 3 then errRes s cBADSTATE
  else
    let one (x : Source) : Source := if x.kind = k ∧ x.unit = u then clearSource x else x
    okRes (driveFaultN { s with fc := { s.fc with sources := s.fc.sources.map one } }) []

def emptyFirst : FirstSrc := ⟨false, false, 0, 0, 0, 0, 0, 0⟩

/-- A write of 1 to FIRST_SRC.VALID. -/
def clearFirst (s : State) (w : Word) : State :=
  if bit w 31 then { s with fc := { s.fc with first := emptyFirst } } else s

/-- A write of ERRQ_RPTR (R462). -/
def writeErrR (s : State) (v : Word) : State :=
  if (s.fc.errqW - v).toNat ≤ 4096 then { s with fc := { s.fc with errqR := v } } else s

def specFaultClear : ReqSpec := ⟨0x57, fromO, false, len 8, [0xFFFE0000], noLocks, .ready, bodyFaultClear⟩

def execFaultClear (r : ReqIn) (s : State) : Out := .next (runRequest specFaultClear r s)
def execFaultMessageArrive (ms : List FaultMsg) (s : State) : Out := .next (arrive s ms)
def execFaultMessageHandle (s : State) : Out := .next (handleMsg s)
def execFirstSrcClear (w : Word) (s : State) : Out := .next (clearFirst s w)
def execErrqRptrWrite (v : Word) (s : State) : Out := .next (writeErrR s v)

end Sys2Proof.Machine
end

