-- ==== Sys2Proof/Machine/Flags.lean ====
section
/-! DEFINITION. What a write does to a bit of each access code, and the named status bits of the part's
registers that clear on a write of 1 (spec/00, R5, R6; spec/18, R532). The part has no condition flags: its
flags are these status bits. -/

namespace Sys2Proof.Machine
open Sys2Proof

/-- A write of 1 clears the bit; a write of 0 leaves it. -/
def w1c (was : Bool) (written : Bool) : Bool := was && !written

/-- The error bits [11:0] of CSI_STATn after a W1C write (R59). -/
def w1cBits (was : Nat) (w : Word) : Nat :=
  (BitVec.ofNat 32 was &&& ~~~w).toNat % 4096

end Sys2Proof.Machine
end

