-- ==== Sys2Proof/Machine/Spares.lean ====
section
/-! DEFINITION. Background activities, scrubbing, retirement, lanes, self-tests, wear, telemetry, substitution
and MAP_READ (spec/06, R190 to R198; spec/11, R347 to R349; spec/15, R463 to R471; spec/01, R24 to R28). -/

namespace Sys2Proof.Machine
open Sys2Proof

/-! ### Background shares (R347, R348) -/

/-- Work of an activity: `lost` adds to its shortfall, `made` makes it up; a due activity that clears its
shortfall in a maintenance slot counts it. (DEDUCED: log entry 82). -/
def bgWork (s : State) (a lost made : Nat) : State :=
  let b := s.tt.bg.getD a default
  let n := b.shortfall + lost - made
  let m := if b.due ∧ inMaint s ∧ 0 < b.shortfall ∧ n = 0 then satInc 0xFFFF b.makeups else b.makeups
  { s with tt := { s.tt with bg := s.tt.bg.set a { b with shortfall := n, makeups := m } } }

/-! ### HBM errors, retirement, lanes (R190 to R195) -/

def passBytes : Nat := 48 * 2 ^ 30

/-- A scrub reads the flits that `here` names: what a code corrects is reported and written back corrected, what it
cannot correct is reported and stays (R190, R191). -/
def scrubUpsets (s : State) (here : Upset → Bool) : State :=
  let s := (s.mem.upsets.filter here).foldl meetUpset s
  { s with mem := { s.mem with upsets := s.mem.upsets.filter fun u => !(here u && upsetClass u != 2) } }

/-- Bits change in stored data (the environment's doing): they stand until a scrub or a write puts them right. -/
def strike (s : State) (ups : List Upset) : State := { s with mem := { s.mem with upsets := s.mem.upsets ++ ups } }

/-- The scrubber reads `bytes` from where it stands; errors met: channel, frame, uncorrectable (R191, R199).
(DESIGN CHOICE: log entry 5, DESIGN CHOICE: log entry 81, DESIGN CHOICE: log entry 94). -/
def hbmScrub (s : State) (bytes lost made : Nat) (errs : List (Nat × Nat × Bool)) (ups : List Upset) : State :=
  let at0 := s.mem.scrubPos
  let s := scrubUpsets s fun u => u.hbm && decide (at0 ≤ u.addr ∧ u.addr < at0 + bytes)
  let m := s.mem
  let start := if m.scrubActive then m.scrubStart else s.now
  let pos := m.scrubPos + bytes
  let s := if passBytes ≤ pos then
      { s with mem := { m with scrubActive := true, scrubPos := pos - passBytes, scrubStart := s.now,
                               scrubLast := min 0xFFFFFF ((s.now - start) / nsSec) } }
    else { s with mem := { m with scrubActive := true, scrubPos := pos, scrubStart := start } }
  strike (errs.foldl (fun s e => hbmError s e.1 e.2.1 e.2.2) (bgWork s 0 lost made)) ups

/-- The copy has read a unit through its code: what had changed in its stored bits stays behind. -/
def unitCopied (s : State) (f n : Nat) : State :=
  { s with mem := { s.mem with upsets := s.mem.upsets.filter fun u =>
      !(u.hbm && decide (f * frameBytes + 4096 * n ≤ u.addr ∧ u.addr < f * frameBytes + 4096 * (n + 1))) } }

/-- A unit of 4 KiB of a frame in retirement is copied and has its new place at once (`unitFrame`); after the sixteenth
the frame is retired, and the copy of the next one due begins (R193). (DESIGN CHOICE: log entry 81). -/
def frameRetire (s : State) (c : Nat) : State :=
  match (channelOf s c).copying with
  | none => s
  | some (f, sp, n) =>
    let s := unitCopied s f n
    if n + 1 < 16 then modChannel s c fun x => { x with copying := some (f, sp, n + 1) }
    else
      let due := (channelOf s c).due
      let s := raise (modChannel s c fun x => { x with copying := none, remap := tput x.remap f sp, errors := tdel x.errors f, due := due.drop 1 })
        (plainFault 0x370 0x28 (128 + c) 0 (f * frameBytes))
      match due with
      | [] => s
      | g :: _ => retire s c g false

/-- A faulty lane, found at training or in service: remapped while fewer than two are, else HBM_LANE (R195). -/
def repairLane (s : State) (c lane : Nat) : State :=
  if (channelOf s c).lanes.contains lane then s
  else if (channelOf s c).lanes.length < 2 then modChannel s c fun x => { x with lanes := x.lanes ++ [lane] }
  else raise s (plainFault 0x370 0x2A (128 + c) lane 0)

/-- The repair of a lane in service retrains the pseudo-channel in a tread inside a maintenance slot (R195); before a
timetable is set there are no slots. (DEDUCED: log entry 79). -/
def laneRepair (s : State) (c lane : Nat) : State := if !s.tt.set || inMaint s then repairLane s c lane else s

/-! ### On-die arrays (R190, R191, R464) -/

/-- Identity and unit under which an array's fault is reported. (DEDUCED: log entry 77). -/
def arraySource (u : Nat) : Nat × Nat :=
  if u < 4 then (0x340 + u, u) else if u = 193 then (0x370, uLanding) else if u = 194 then (0x310, uNewel) else if u = 195 then (0x320, u)
  else if u = 196 then (0x350, u) else if 198 ≤ u ∧ u < 202 then (0x340 + (u - 198), u) else if u = 206 then (0x360, u)
  else if u = 208 then (0x330, u) else (0x370, u)

/-- Rows of a Hall's weight store; those of its activation store are numbered after them (R19). -/
def weightRows : Nat := 98304

/-- The logical core that a physical core carries. -/
def carried (s : State) (p : Nat) : Option Nat :=
  ((List.range 8).find? fun l => s.ms.scMap.getD (p / 9) 0 / 16 ^ l % 16 == p % 9).map fun l => 8 * (p / 9) + l

/-- An uncorrectable error in a core's registers or local memory stops the launches resident there with code ECC
(R157, R158, R190). (DESIGN CHOICE: log entry 94). -/
def coreLost (s : State) (k : Nat) : State := ((coreOf s k).blocks.map Block.launch).eraseDups.foldl (fun s l => stopLaunch s l 0x0A) s

/-- An error in an on-die array: a Mezzanine slice (80 to 111, by the address of the line), a Hall's stores (0 to 3), a
physical shader core (216 to 251) or an island (192 to 212). An uncorrectable error of a Hall's row stands until the row
is rewritten (R94). -/
def arrayError (s : State) (u row : Nat) (unc : Bool) : State :=
  if 80 ≤ u ∧ u < 112 then sliceError s u row unc
  else if u < 4 then
    let s := raise s (plainFault (0x340 + u) (if unc then 0x11 else 0x10) u 0 row)
    let b := if row < weightRows then (0, row) else (1, row - weightRows)
    rowError (modHall s u fun h =>
      if unc then { h with unc := satInc 0xFFFF h.unc, badRows := if h.badRows.contains b then h.badRows else h.badRows ++ [b] }
      else { h with corr := satInc 0xFFFF h.corr }) u row unc
  else if 216 ≤ u ∧ u < 252 then
    if unc then
      let s := match carried s (u - 216) with
        | some k => coreLost s k
        | none => s
      let r := rowTimes (raise s (plainFault 0x370 0x78 u 0 row)) u (2 ^ 20 - 1)
      rowError (if 2 ≤ r.2 then wantSpare r.1 0 (u - 216) else r.1) u row true
    else rowError s u row false
  else if u = 208 then
    if unc then rowError (raise (stopAlive s true) (plainFault 0x330 0x67 uMotion 0 row)) u row true else rowError s u row false
  else
    let src := arraySource u
    rowError (if unc then raise s (plainFault src.1 0x78 src.2 0 row) else s) u row unc

/-- The scrub of the on-die arrays reads the Mezzanine's slices too (R191). (DESIGN CHOICE: log entry 94). -/
def arrayScrub (s : State) (lost made : Nat) (errs : List (Nat × Nat × Bool)) (ups : List Upset) : State :=
  strike (errs.foldl (fun s e => arrayError s e.1 e.2.1 e.2.2) (bgWork (scrubUpsets s fun u => !u.hbm) 1 lost made)) ups

/-- A self-test tread of a logical core: a failure raises SC_SELFTEST and asks for the spare.
(DEDUCED: log entry 77). -/
def selfTest (s : State) (k : Nat) (pass : Bool) (lost made : Nat) : State :=
  let s := bgWork s 3 lost made
  let i := s.ms.scMap.getD (k / 8) 0 / 16 ^ (k % 8) % 16
  if pass ∨ 32 ≤ k ∨ i = 0xF then s
  else
    let p := 9 * (k / 8) + i
    wantSpare (raise s (plainFault 0x370 0x1B (216 + p) (k / 8) 0)) 0 p

/-! ### Zeroing (R65) -/

/-- The first region in a Hall's list is zeroed, in a load or maintenance slot of the Hall; the Hall reports it.
(DEDUCED: log entry 80). -/
def zeroing (s : State) (h lost made : Nat) : State :=
  let s := bgWork s 5 lost made
  match (hallOf s h).zeroing with
  | [] => s
  | p :: r =>
    if (hallOf s h).kind ≠ 3 ∧ (hallOf s h).kind ≠ 4 then s
    else notify (modHall (zeroRegion s h p.1 p.2) h fun x => { x with zeroing := r }) (0x212 + h) 0x20 p.1

/-! ### Wear (R463, R476) -/

/-- Islands whose units carry spares of their own: the Halls and the shader groups. -/
def sparedIsland (u : Nat) : Bool := decide (198 ≤ u ∧ u < 206)

def acted (s : State) (u k : Nat) : Bool := s.fc.acted.contains (u, k)
def setActed (s : State) (u k : Nat) (b : Bool) : State :=
  let l := s.fc.acted.filter fun p => p != (u, k)
  { s with fc := { s.fc with acted := if b then l ++ [(u, k)] else l } }

/-- A threshold acts once until the measure recovers. (DEDUCED: log entry 78). -/
def threshold (s : State) (u k : Nat) (holds recovered : Bool) (act : State → State) : State :=
  if holds ∧ ¬ acted s u k then act (setActed s u k true)
  else if recovered then setActed s u k false else s

/-- (DEDUCED: log entry 77). -/
def margin (s : State) (u v : Nat) : State := raise s (plainFault 0x310 0x7C (u % 256) v 0)

/-- The spare of a monitored shader core or Hall line group, if one remains. (DEDUCED: log entry 78). -/
def wearSpare (s : State) (u v : Nat) : State :=
  if 216 ≤ u ∧ u < 252 then
    let p := u - 216
    if s.fc.pscFailed.any fun q => q / 9 == p / 9 then margin s u v else wantSpare s 0 p
  else
    let h := (u - 256) / 1024
    let l := (u - 256) % 1024
    let m := if l % 2 = 1 then s.fc.hallCols else s.fc.hallRows
    if (m.getD h []).getD (l / 2 / 17) 0xFFFF = 0xFFFF then wantSpare s (100 + h) l else margin s (192 + 6 + h) v

/-- A wear sample: of an island (192 to 212), of a physical core (216 to 251), or of a line of a Hall's array
(256 + 1024 × Hall + 2 × line, + 1 for a column). (DEDUCED: log entry 78). -/
def wearSample (s : State) (u slack drift days lost made : Nat) : State :=
  let s := bgWork s 4 lost made
  let island := decide (192 ≤ u ∧ u < 213)
  let s := if island then { s with fc := { s.fc with wear := s.fc.wear.set (u - 192) ⟨slack, drift, days⟩ } } else s
  let s := if island then
      let s := threshold s u 0 (decide (30 < drift)) (decide (drift ≤ 20)) fun s => raise s (plainFault 0x310 0x7B u drift 0)
      threshold s u 1 (decide (60 < drift)) (decide (drift ≤ 50)) fun s => margin s u drift
    else s
  let s := if island && sparedIsland u then s
    else threshold s u 2 (decide (slack < 8)) (decide (9 ≤ slack)) fun s => if island then margin s u slack else wearSpare s u slack
  threshold s u 3 (decide (slack < 4)) (decide (5 ≤ slack)) fun s =>
    let v := if u < 256 then u else 198 + (u - 256) / 1024
    (List.range 256).foldl (fun s _ => margin s v slack) s

/-! ### Telemetry (R349, R471) -/

/-- A telemetry entry, or its skipped form. -/
def telemetry (s : State) (kind unit a b c : Nat) (skipped : Bool) : State :=
  let s := if skipped then
      let x := s.tt.bg.getD 7 default
      raise { s with tt := { s.tt with bg := s.tt.bg.set 7 { x with makeups := satInc 0xFFFF x.makeups } } }
        (plainFault 0x310 0x4D uNewel 0 0)
    else s
  match (if s.fc.tlmObj = 0 then none else findObj s s.fc.tlmObj) with
  | none => s
  | some (slot, _) =>
    let v (n : Nat) : Word := if skipped then 0 else BitVec.ofNat 32 n
    let ws := [sizeVer 32, s.fc.tlmSeq, reg [fld 0 8 kind, fld 8 8 unit, flg 16 skipped]] ++ timeWords s ++ [v a, v b, v c]
    let s := objWrite s slot (32 * (s.fc.tlmSeq.toNat % 32768)) (wordBytes ws)
    { s with fc := { s.fc with tlmSeq := s.fc.tlmSeq + 1 } }

/-! ### Substitution (R464 to R466) -/

/-- The map of a group from its working physical cores in ascending order. -/
def groupMap (failed : List Nat) (g : Nat) : Nat :=
  let ok := (List.range 9).filter fun i => !failed.contains (9 * g + i)
  (List.range 8).foldl (fun n l => n + (ok.getD l 0xF) * 16 ^ l) 0

/-- The map with one logical core moved from index `a` to index `b`. -/
def moveCore (m a b : Nat) : Nat :=
  (List.range 8).foldl (fun n l => n + (let i := m / 16 ^ l % 16; if i = a then b else i) * 16 ^ l) 0

/-- A failed physical core: the first of its group gives its logical core to the spare; a further one, or a
spare that fails its own self-test, leaves logical cores with no carrier.
(DEDUCED: log entry 77, DEDUCED: log entry 79). -/
def substCore (s : State) (p : Nat) (spareOk : Bool) : State :=
  let g := p / 9
  let m := s.ms.scMap.getD g 0
  let spare := ((List.range 9).find? fun i => (List.range 8).all fun l => m / 16 ^ l % 16 != i).getD 0xF
  let failed0 := sins s.fc.pscFailed p
  let failed := if spareOk ∨ spare = 0xF ∨ failed0.contains (9 * g + spare) then failed0 else sins failed0 (9 * g + spare)
  let n := (failed.filter fun q => q / 9 == g).length
  let s := { s with fc := { s.fc with pscFailed := failed } }
  if n ≤ 1 then { s with ms := { s.ms with scMap := s.ms.scMap.set g (moveCore m (p % 9) spare) } }
  else raise { s with ms := { s.ms with scMap := s.ms.scMap.set g (groupMap failed g) } } (plainFault 0x370 0x1C (216 + p) g 0)

/-- A failed line of a Hall: one per group is shifted out; a second makes the Hall unable to present its array
(R25, R467). (DEDUCED: log entry 79). -/
def substLine (s : State) (h l : Nat) : State :=
  let g := l / 2 / 17
  let m := if l % 2 = 1 then s.fc.hallCols else s.fc.hallRows
  let cur := (m.getD h []).getD g 0xFFFF
  let m' := m.set h ((m.getD h []).set g (l / 2))
  if cur = 0xFFFF then { s with fc := if l % 2 = 1 then { s.fc with hallCols := m' } else { s.fc with hallRows := m' } }
  else if cur = l / 2 then s
  else { s with fc := { s.fc with hallBad := s.fc.hallBad.set h true } }

/-- A row of an SRAM sub-array (64 rows, one spare) of an array (R23, R464). -/
def substRow (s : State) (u row : Nat) : State :=
  let src := arraySource u
  if s.fc.sramRows.any fun p => p.1 == u && p.2 / 64 == row / 64 then raise s (plainFault src.1 0x7A src.2 0 row)
  else raise { s with fc := { s.fc with sramRows := s.fc.sramRows ++ [(u, row)], rowErrs := tdel s.fc.rowErrs (u * 2 ^ 20 + row) } }
    (plainFault src.1 0x79 src.2 0 row)

/-- A core neither saves nor restores on the physical core. -/
def coreStill (s : State) (p : Nat) : Bool := ((carried s p).map fun k => (coreOf s k).xfer == 0).getD true

/-- Where the waiting substitution may run now (R464, R465): a maintenance slot, with the core neither saving
nor restoring; a Hall between runs. (DEDUCED: log entry 79). -/
def substNow (s : State) (res unit : Nat) : Bool :=
  let slot := !s.tt.set || inMaint s
  if res = 0 then slot && coreStill s unit
  else if 1216 ≤ res ∧ res < 1252 then slot && coreStill s (res - 1216)
  else if 1000 ≤ res then slot
  else if 100 ≤ res then !(hallOf s (res - 100)).busy && !bandOn s (res - 100)
  else slot

/-- A substitution tread. (DEDUCED: log entry 79). -/
def substitute (s : State) (res unit : Nat) (spareOk : Bool) : State :=
  if ¬ (s.fc.substWait.any fun w => w.1 == res && w.2.1 == unit) ∨ ¬ substNow s res unit then s
  else
    let s := { s with fc := { s.fc with substWait := s.fc.substWait.filter fun w => !(w.1 == res && w.2.1 == unit) } }
    if res = 0 then substCore s unit spareOk
    else if 1000 ≤ res then substRow s (res - 1000) unit
    else if 100 ≤ res then substLine s (res - 100) unit
    else s

/-! ### MAP_READ -/

/-- The failed line of each group, counted within its group, or 0xFF. (DEDUCED: log entry 76). -/
def mapBytes (l : List Nat) : List Byte :=
  (List.range 16).map fun g => let v := l.getD g 0xFFFF; if v = 0xFFFF then 0xFF else BitVec.ofNat 8 (v - 17 * g)

/-- (DEDUCED: log entry 76). -/
def bodyMapRead : Body := fun _ r s =>
  let which := bits (wd r.block 1) 1 0
  let idx := (wd r.block 2).toNat
  let first := (wd r.block 3).toNat
  if which < 2 then
    if 4 ≤ idx then errRes s cRANGE
    else okRes s (16 :: bytesWords (mapBytes ((if which = 0 then s.fc.hallRows else s.fc.hallCols).getD idx [])))
  else if which = 3 ∨ idx < 128 ∨ 192 ≤ idx then errRes s cRANGE
  else
    let ps := (((channelOf s (idx - 128)).remap.filter fun p => !s.cx.badFrames.contains p.1).drop first).take 500
    okRes s (BitVec.ofNat 32 ps.length :: ps.flatMap fun p => [BitVec.ofNat 32 p.1, BitVec.ofNat 32 p.2])

def specMapRead : ReqSpec := ⟨0x58, fromO, false, len 16, [0xFFFFFFFC], noLocks, .ready, bodyMapRead⟩

def execMapRead (r : ReqIn) (s : State) : Out := .next (runRequest specMapRead r s)
def execHbmScrub (bytes lost made : Nat) (found : Found) (s : State) : Out :=
  .next (hbmScrub s bytes lost made found.errs found.ups)
def execArrayScrub (lost made : Nat) (found : Found) (s : State) : Out :=
  .next (arrayScrub s lost made found.errs found.ups)
def execHallArrayTest (h lost made : Nat) (failed : List (Bool × Nat)) (s : State) : Out :=
  .next (hallArrayTest (bgWork s 2 lost made) h failed)
def execShaderSelfTest (core : Nat) (pass : Bool) (lost made : Nat) (s : State) : Out := .next (selfTest s core pass lost made)
def execWearSample (u slack drift days lost made : Nat) (s : State) : Out := .next (wearSample s u slack drift days lost made)
def execZeroing (h lost made : Nat) (s : State) : Out := .next (zeroing s h lost made)
def execHbmCalibration (lost made : Nat) (s : State) : Out := .next (bgWork s 6 lost made)
def execTelemetrySample (kind unit a b c : Nat) (skipped : Bool) (s : State) : Out := .next (telemetry s kind unit a b c skipped)
def execFrameRetire (ch : Nat) (s : State) : Out := .next (frameRetire s ch)
def execLaneRepair (ch lane : Nat) (s : State) : Out := .next (laneRepair s ch lane)
def execSpareSubstitution (res unit : Nat) (spareOk : Bool) (s : State) : Out := .next (substitute s res unit spareOk)

end Sys2Proof.Machine
end

