-- ==== Sys2Proof/Machine/Regs.lean ====
section
/-! DEFINITION. The register window: what each register reads and what a write of it does (spec/18, R532,
R533; the register tables of chapters 01 to 17). -/

namespace Sys2Proof.Machine
open Sys2Proof

/-- Nominal frequency of islands 0 to 16 in MHz, rounded to even (R13, R27). -/
def nominal : List Nat := [0, 312, 1000, 1000, 1000, 1600, 800, 800, 800, 800, 1200, 1200, 1200, 1200, 1200, 500, 200]

/-- The voted domain of an island (R485); none for the islands that are on while the window is readable. -/
def islandDomain (i : Nat) : Option Nat :=
  if 6 ≤ i ∧ i < 10 then some (i - 6) else if 10 ≤ i ∧ i < 14 then some (i - 6)
  else if i = 4 ∨ 17 ≤ i then some 8 else if i = 14 then some 9 else if i = 15 then some 10 else if i = 16 then some 11
  else none

/-- Islands whose clock the power state gates (R477). -/
def islandGated (p : Power) (i : Nat) : Bool :=
  let eng := i == 4 || (decide (6 ≤ i) && decide (i ≤ 15)) || decide (17 ≤ i)
  match p with
  | .run => false
  | .idle => eng
  | .sleep => eng || i == 2 || i == 3 || i == 5
  | _ => i != 0

/-- (DEDUCED: log entry 84). -/
def islandPwr (s : State) (i : Nat) : Nat :=
  match islandDomain i with
  | none => 2
  | some d => (domOf s d).pwr

/-- `ISL_STATn`: zero until the window becomes readable (R27). (DEDUCED: log entry 84). -/
def regIsl (s : State) (i : Nat) : Word :=
  if s.pw.phase < 2 then 0
  else
  let x := s.ms.islands.getD i default
  let p := islandPwr s i
  let lock := i == 0 || x.locked
  reg [fld 26 3 p, flg 25 (p == 2 && lock && !islandGated s.pw.st i), flg 24 lock,
       fld 0 16 (if 17 ≤ i then x.freq else nominal.getD i 0)]

/-- `CSI_STATn` (R59); with no lane rate measured yet SKEW_OK has its reset value. -/
def regCsi (s : State) (n : Nat) : Word :=
  let c := s.hp.csi.getD n default
  reg [flg 31 c.hs, flg 30 (c.skewSeen || decide (0 < c.rate ∧ c.rate ≤ 1500)), fld 26 4 c.lanes, fld 13 13 c.rate, fld 0 12 c.errs]

/-- `MH_STATn` (R100): the slot, a run or a house band in progress, the spare lines in use. -/
def regMh (s : State) (n : Nat) : Word :=
  let h := s.mh.halls.getD n default
  let used (ls : List Nat) : Nat := (ls.filter fun l => l != 0xFFFF).length
  reg [flg 31 (h.busy || bandOn s n), fld 28 3 h.kind, fld 16 12 (if h.kind = 0 then 0 else h.ctx),
       fld 5 5 (used (s.fc.hallCols.getD n [])), fld 0 5 (used (s.fc.hallRows.getD n []))]

def regMhEcc (s : State) (n : Nat) : Word :=
  let h := s.mh.halls.getD n default
  reg [fld 16 16 h.unc, fld 0 16 h.corr]

/-- `SC_STATn` (R164); zero where no working core carries the logical core. (DEDUCED: log entry 84). -/
def regSc (s : State) (n : Nat) : Word :=
  let c := s.sh.cores.getD n default
  if s.ms.scMap.getD (n / 8) 0 / 16 ^ (n % 8) % 16 = 15 then 0
  else
    reg [flg 31 (c.blocks != []), fld 28 3 c.kind, fld 16 12 (if c.kind = 0 then 0 else c.ctx), fld 14 2 c.xfer,
         fld 10 4 c.split, fld 0 8 (c.blocks.foldl (fun k b => k + b.groups.length) 0)]

/-- Pseudo-channels of stack s: 32s to 32s + 31; spare frames left, lanes remapped, spare frames in use (R198). -/
def stackSpares (s : State) (k : Nat) : Nat × Nat × Nat :=
  let cs := s.mem.chans.filter fun p => p.1 / 32 == k
  (cs.foldl (fun m p => min m p.2.spareLeft) 768, cs.foldl (fun n p => n + p.2.lanes.length) 0,
   cs.foldl (fun n p => n + (768 - p.2.spareLeft)) 0)

def regSpare (s : State) (k : Nat) : Word :=
  let x := stackSpares s k
  reg [fld 22 10 x.1, fld 15 7 x.2.1, fld 0 15 x.2.2]

/-- `SCRUB_STAT` (R199): PROGRESS from the scrubber's position. -/
def regScrub (s : State) : Word :=
  reg [flg 31 s.mem.scrubActive, fld 24 7 (if s.mem.scrubActive then min 100 (s.mem.scrubPos * 100 / passBytes) else 0), fld 0 24 s.mem.scrubLast]

/-- `RAS_RESERVE` (R237). -/
def regReserve (s : State) : Word :=
  let st := s.rs.ctx.foldl (fun n p => n + (p.2.passes.filter fun x => x.stalledAt.isSome).length) 0
  reg [fld 16 10 (sat 520 st), fld 0 16 (sat 0xFFFF s.cx.reserve)]

/-- `FEED_STATn` (R239). (DEDUCED: log entry 84). -/
def regFeed (s : State) (k : Nat) : Word :=
  match feedOf s k with
  | none => 0
  | some f =>
    if ¬ f.bound then 0
    else reg [flg 31 true, flg 30 f.layer.isSome, fld 29 1 (fStream f.words), fld 17 12 (fOwner f.words), fld 0 16 f.late]

/-- `CMP_STAT` (R262): a coder codes while it has a resident job or a feed tile. -/
def regCmp (s : State) : Word :=
  let busy := (List.range 8).foldl (fun n c =>
    n + flg c ((residentJob s c).isSome && (s.cm.slot.getD c none).isSome || (coderFeed s c).isSome)) 0
  reg [fld 8 9 s.cm.slots.length, fld 0 8 busy]

/-- `CMP_FEEDn` (R264). -/
def regCmpFeed (s : State) (k : Nat) : Word :=
  match feedCodeOf s k with
  | none => 0
  | some f => reg [flg 31 true, fld 28 3 f.coder, fld 25 3 f.ratio, fld 22 3 f.effort, fld 20 2 f.depth, fld 0 16 f.drop]

/-- `NEWEL_STAT` (R288). -/
def regNewel (s : State) : Word :=
  reg [fld 30 2 s.nw.coreA, fld 28 2 s.nw.coreB, flg 27 s.nw.spareOk, fld 16 8 (sat 255 s.nw.flights.length),
       fld 0 16 s.nw.treadMax]

/-- `MBX_STAT` (R290). -/
def regMbxStat (s : State) : Word :=
  let full (lo hi : Nat) : Nat := (s.nw.mbx.filter fun p => decide (lo ≤ p.1 ∧ p.1 < hi) && p.2.full).length
  reg [flg 31 s.nw.collAny, fld 16 12 (full 0x400 0x609), fld 0 12 (full 0 0x400)]

/-- `MBX_INFO` of the selected mailbox (R291). -/
def regMbxInfo (s : State) : Word :=
  match mbxWriter s.nw.mbxSel with
  | none => 0
  | some w =>
    let m := mbxOf s s.nw.mbxSel
    reg [flg 31 m.full, flg 30 m.coll, fld 16 12 w, fld 0 16 m.count]

/-- `CONC_STAT` (R323). -/
def regConc (s : State) : Word :=
  reg [fld 16 12 (s.cc.queues.filter fun q => q.2.st == .blocked).length,
       fld 0 12 (s.cc.queues.filter fun q => q.2.st != .free).length]

def ctxStCode : CtxSt → Nat
  | .free => 0 | .created => 1 | .active => 2 | .teardown => 3

/-- `CTX_INFO` of the selected context (R325). (DEDUCED: log entry 84). -/
def regCtxInfo (s : State) : Word :=
  let c := s.cx.ctxSel
  if 0x208 ≤ c then 0
  else reg [fld 30 2 (ctxStCode (ctxState s c)), fld 23 7 (ownedQueues s c), fld 13 10 (sat 1023 (ownedFences s c)),
            fld 0 13 (sat 8191 (ownedObjs s c))]

/-- `Q_INFO` of the selected queue (R326). (DEDUCED: log entry 84). -/
def regQInfo (s : State) : Word :=
  match queueOf s s.cc.qSel with
  | none => 0
  | some q => if q.st = .free then 0 else reg [fld 29 3 (queueStCode q.st), fld 17 12 q.owner, fld 9 8 q.faultCode]

/-- `TT_CTRL` (R351) and `TT_STAT` (R352). -/
def regTtCtrl (s : State) : Word :=
  if s.tt.set then reg [flg 31 true, fld 20 3 s.tt.rate, fld 0 15 (period s.tt.rate)] else 0

def regTtStat (s : State) : Word :=
  let es := (s.tt.active.map TtImage.entries).getD []
  reg [flg 31 s.tt.active.isSome, flg 30 s.tt.pendingImg.isSome, fld 28 2 s.tt.level, fld 14 14 es.length,
       fld 0 14 (sat 0x3FFF (es.filter TtEntry.idle).length)]

def regBg (s : State) (a : Nat) : Word :=
  let b := s.tt.bg.getD a default
  reg [flg 31 b.due, fld 16 15 b.shortFr, fld 0 16 b.makeups]

/-- `SEC_STAT` (R378). -/
def regSec (s : State) : Word :=
  if ¬ s.sec.identOk then reg [flg 27 s.sec.recovery]
  else
    reg [flg 31 true, flg 30 s.sec.skeyReady, flg 29 (s.sec.cfg.operatorDigest.any fun b => b != 0), flg 28 (bound s 0x300),
         flg 27 s.sec.recovery, fld 20 7 s.sec.minSvn, fld 16 4 s.sec.keyRevoked,
         fld 0 10 (s.sec.sess.filter fun p => isCtx p.1 && p.2.full).length]

/-- `RING_STATp` (R415), `RING_ERRp` (R416). -/
def regRing (s : State) (p : Nat) : Word :=
  let x := s.ring.ports.getD p default
  reg [flg 31 x.link, flg 30 x.master, flg 29 x.scUp, fld 27 2 x.tc10, fld 24 3 x.sqi, flg 23 (s.pw.pins.bypHold == .high),
       fld 0 16 x.downs]

def regRingErr (s : State) (p : Nat) : Word :=
  let x := s.ring.ports.getD p default
  reg [fld 22 10 x.errHdr, fld 11 11 x.errIcv, fld 0 11 x.errFcs]

/-- `GPTP_STAT` (R417). -/
def regGptp (s : State) : Word :=
  reg [flg 31 s.ring.gSync, flg 30 s.ring.gHold, fld 29 1 s.ring.gPort, fld 23 6 s.ring.gHops,
       (intBits 16 (clampI (-32767) 32767 s.ring.gOffset))]

/-- `OB_STAT` and `OB_ERR` (R418). -/
def regOb (s : State) : Word :=
  reg [fld 30 2 s.ob.mode, flg 29 s.ob.link, fld 26 3 s.ob.rate, fld 22 4 s.ob.width,
       fld 0 12 (if s.ob.mode = 2 then s.ob.owner else 0)]

def regObErr (s : State) : Word := reg [fld 16 16 s.ob.cplErr, fld 8 8 s.ob.nvmeErr, fld 0 8 s.ob.linkErr]

/-- `AX_STATn` (R444). -/
def regAxis (s : State) (n : Nat) : Word :=
  let a := axisOf s n
  reg [fld 29 3 a.st, fld 27 2 (if a.auto then 1 else 0), flg 26 a.held, flg 25 a.limp, flg 24 a.limn, flg 23 a.brkRel,
       fld 19 4 a.cause, fld 8 8 a.encMiss, fld 0 8 a.spiErr]

/-- `HT_STATn` (R446). -/
def regHeater (s : State) (n : Nat) : Word :=
  let h := heaterOf s n
  reg [flg 31 h.en, flg 30 h.sensorBad, flg 29 h.overs, flg 28 h.satur, fld 16 12 (dutyOf h), intBits 16 h.temp]

/-- A temperature field of `COOL_TEMP`: (T + 64) · 4 (R447). (DEDUCED: log entry 73). -/
def tempField (t : Q) : Nat := (clampI 0 1023 (qRound (qMul (qAdd t (qInt 64)) (qInt 4)))).toNat

/-- (DEDUCED: log entry 73). -/
def regCoolTemp (s : State) : Word :=
  reg [fld 20 10 (tempField s.mc.tj), fld 10 10 (tempField s.mc.outlet), fld 0 10 (tempField s.mc.inlet)]

/-- (DEDUCED: log entry 73). -/
def regCoolStat (s : State) : Word :=
  reg [fld 30 2 s.mc.level, flg 29 (s.mc.flowSeen && qLt s.mc.flow ⟨1, 2⟩), flg 28 s.mc.coolBad, flg 27 s.mc.crit,
       fld 0 16 (clampI 0 65535 (qRound (qMul s.mc.flow (qInt 1000)))).toNat]

/-- `FIRST_SRC` (R472). -/
def regFirst (s : State) : Word :=
  let f := s.fc.first
  reg [flg 31 f.valid, flg 30 f.ovf, fld 28 2 f.cls, fld 20 8 f.kind, fld 8 12 f.source, fld 0 8 f.unit]

/-- `FC_STAT` and `FC_CLASS` (R474). -/
def regFcStat (s : State) : Word :=
  reg [flg 31 (s.pw.pins.faultN == .low), fld 24 7 s.fc.pending.length, fld 0 16 s.fc.dropped]

def regFcClass (s : State) : Word :=
  let n (c : Nat) : Nat := sat 255 (s.fc.sources.filter fun x => x.cls == c).length
  reg [fld 16 8 (n 3), fld 8 8 (n 2), fld 0 8 (n 1)]

def regWear (s : State) (i : Nat) : Word :=
  let w := s.fc.wear.getD i default
  reg [fld 24 8 w.slack, fld 16 8 w.drift, fld 0 16 w.runDays]

/-- `PWR_STAT` (R496). -/
def regPwr (s : State) : Word :=
  reg [fld 29 3 (powerCode s.pw.st), flg 28 s.pw.entering.isSome, fld 25 3 ((s.pw.entering.map powerCode).getD 0),
       (List.range 12).foldl (fun n d => n + flg d ((domOf s d).pwr == 2)) 0]

def regBoot (s : State) : Word :=
  reg [fld 28 4 s.pw.phase, fld 14 14 (sat 16383 s.pw.linkMs), fld 0 14 (sat 16383 s.pw.houseMs)]

/-- `PWR_DOMd` (R499). -/
def regDom (s : State) (d : Nat) : Word :=
  let x := domOf s d
  let v := votesOf s d
  reg [flg 31 (x.pwr == 2), fld 28 3 x.pwr, flg 27 v.house, flg 26 v.timetable, flg 25 v.dispatch, flg 24 v.hold,
       flg 23 v.feed, flg 22 v.operator, flg 21 v.axis, flg 20 v.heater, flg 19 v.firmware, fld 0 16 x.ups]

def word32 (n : Nat) : Word := BitVec.ofNat 32 n

/-- What the register at an offset of the window reads; an unmapped offset reads zero (R6, R532). -/
def regRead (s : State) (off : Nat) : Word :=
  let i := off / 4
  if off % 4 ≠ 0 then 0
  else if off = 0 then 0x4280B001
  else if off < 0x1000 then 0
  else if off < 0x1054 then regIsl s (i - 0x400)
  else if off < 0x1080 then 0
  else if off < 0x1090 then word32 (s.ms.scMap.getD (i - 0x420) 0)
  else if off < 0x1200 then 0
  else if off < 0x1210 then regCsi s (i - 0x480)
  else if off = 0x1220 then word32 (s.hp.late.getD 0 0)
  else if off = 0x1224 then word32 (s.hp.late.getD 1 0)
  else if off < 0x1300 then 0
  else if off < 0x1310 then regMh s (i - 0x4C0)
  else if off < 0x1320 then regMhEcc s (i - 0x4C4)
  else if off = 0x1400 then reg [fld 1 2 s.num.svc, flg 0 s.num.keep]
  else if off = 0x1404 then reg [fld 8 8 s.num.firstUnit, flg 0 s.num.flushed]
  else if off < 0x1500 then 0
  else if off < 0x1580 then regSc s (i - 0x540)
  else if off = 0x1600 then reg [fld 16 16 s.mem.mzUnc, fld 0 16 s.mem.mzCorr]
  else if off = 0x1610 ∨ off = 0x1614 then reg [fld 16 16 (s.mem.hbmUnc.getD (i - 0x584) 0), fld 0 16 (s.mem.hbmCorr.getD (i - 0x584) 0)]
  else if off = 0x1620 ∨ off = 0x1624 then (if s.pw.phase < 2 then 0 else regSpare s (i - 0x588))
  else if off = 0x1630 then regScrub s
  else if off = 0x1700 then regReserve s
  else if off = 0x1704 then word32 s.rs.grow
  else if off = 0x1708 then word32 s.rs.partialCnt
  else if off < 0x1780 then 0
  else if off < 0x1800 then regFeed s (i - 0x5E0)
  else if off = 0x1800 then regCmp s
  else if off = 0x1804 then word32 s.cm.late
  else if off < 0x1880 then 0
  else if off < 0x1900 then regCmpFeed s (i - 0x620)
  else if off = 0x1900 then regNewel s
  else if off = 0x1904 then reg [fld 0 16 s.nw.rerun]
  else if off = 0x1910 then regMbxStat s
  else if off = 0x1914 then reg [fld 0 12 s.nw.mbxSel]
  else if off = 0x1918 then regMbxInfo s
  else if off = 0x1A00 then regConc s
  else if off = 0x1A04 then word32 s.cc.dbBad
  else if off = 0x1A08 then word32 s.cc.fenceCyc
  else if off = 0x1A10 then reg [fld 0 12 s.cx.ctxSel]
  else if off = 0x1A14 then regCtxInfo s
  else if off = 0x1A18 then reg [fld 0 11 s.cc.qSel]
  else if off = 0x1A1C then regQInfo s
  else if off = 0x1B00 then regTtCtrl s
  else if off = 0x1B04 then regTtStat s
  else if off = 0x1B08 then s.tt.ttFrame
  else if off < 0x1B10 then 0
  else if off < 0x1B30 then regBg s (i - 0x6C4)
  else if off = 0x1C00 then regSec s
  else if off = 0x1C08 then word32 s.sec.attCount
  else if off = 0x1C0C then word32 s.sec.attLatch
  else if off = 0x1D00 then reg [flg 0 s.ring.dsBypass]
  else if off = 0x1D04 then Config.macAddr.setWidth 32
  else if off = 0x1D08 then (Config.macAddr.extractLsb' 32 16).setWidth 32
  else if off = 0x1D10 ∨ off = 0x1D14 then regRing s (i - 0x744)
  else if off = 0x1D20 ∨ off = 0x1D24 then regRingErr s (i - 0x748)
  else if off = 0x1D28 ∨ off = 0x1D2C then word32 (s.ring.ports.getD (i - 0x74A) default).fwdDrop
  else if off = 0x1D30 then regGptp s
  else if off = 0x1D40 then regOb s
  else if off = 0x1D44 then regObErr s
  else if off < 0x1E00 then 0
  else if off < 0x1E18 then regAxis s (i - 0x780)
  else if off < 0x1E20 then 0
  else if off < 0x1E38 then BitVec.ofInt 32 (axisOf s (i - 0x788)).latched
  else if off = 0x1E40 ∨ off = 0x1E44 then regHeater s (i - 0x790)
  else if off = 0x1E50 then regCoolTemp s
  else if off = 0x1E54 then regCoolStat s
  else if off = 0x1F00 then regFirst s
  else if off = 0x1F04 then word32 s.fc.first.addr
  else if off = 0x1F08 then reg [fld 16 16 s.fc.first.arg, fld 0 16 (s.fc.first.addr / 2 ^ 32)]
  else if off = 0x1F0C then regFcStat s
  else if off = 0x1F10 then regFcClass s
  else if off = 0x1F20 then s.fc.errqW
  else if off = 0x1F24 then s.fc.errqR
  else if off = 0x1F28 then word32 s.fc.errqDrop
  else if off = 0x1F30 then word32 s.fc.availLost
  else if off < 0x1F40 then 0
  else if off < 0x1F94 then regWear s (i - 0x7D0)
  else if off = 0x2000 then regPwr s
  else if off = 0x2004 then word32 s.pw.cause
  else if off = 0x2008 then regBoot s
  else if off < 0x2010 then 0
  else if off < 0x2040 then regDom s (i - 0x804)
  else 0

/-- A read with its side effect: ATT_CNT_LO latches the counter's high word (R379). -/
def performRead (s : State) (off : Nat) : State × Word :=
  (if off = 0x1C08 then { s with sec := { s.sec with attLatch := s.sec.attCount / 2 ^ 32 } } else s, regRead s off)

/-- W1C of CSI_STATn bits [11:0]. -/
def writeCsi (s : State) (n : Nat) (v : Word) : State :=
  { s with hp := { s.hp with csi := upd s.hp.csi n fun c => { c with errs := w1cBits c.errs v } } }

def writeNumStat (s : State) (v : Word) : State := { s with num := { s.num with flushed := w1c s.num.flushed (bit v 0) } }
def writeMbxStat (s : State) (v : Word) : State := { s with nw := { s.nw with collAny := w1c s.nw.collAny (bit v 31) } }
def writeMbxSel (s : State) (v : Word) : State := { s with nw := { s.nw with mbxSel := bits v 11 0 } }
def writeCtxSel (s : State) (v : Word) : State := { s with cx := { s.cx with ctxSel := bits v 11 0 } }
def writeQSel (s : State) (v : Word) : State := { s with cc := { s.cc with qSel := bits v 10 0 } }
def writeRingCfg (s : State) (v : Word) : State := { s with ring := { s.ring with dsBypass := bit v 0 } }

/-- A write of one register of the window: read-only registers and unmapped offsets ignore it (R6, R403, R532). -/
def regWrite (s : State) (off : Nat) (v : Word) : State :=
  if off = 0x1200 then writeCsi s 0 v
  else if off = 0x1204 then writeCsi s 1 v
  else if off = 0x1208 then writeCsi s 2 v
  else if off = 0x120C then writeCsi s 3 v
  else if off = 0x1404 then writeNumStat s v
  else if off = 0x1910 then writeMbxStat s v
  else if off = 0x1914 then writeMbxSel s v
  else if off = 0x1A10 then writeCtxSel s v
  else if off = 0x1A18 then writeQSel s v
  else if off = 0x1D00 then writeRingCfg s v
  else if off = 0x1F00 then clearFirst s v
  else if off = 0x1F24 then writeErrR s v
  else s

def execCsiStatClear (n : Nat) (v : Word) (s : State) : Out := .next (if n < 4 then writeCsi s n v else s)
def execNumStatClear (v : Word) (s : State) : Out := .next (writeNumStat s v)
def execMbxStatClear (v : Word) (s : State) : Out := .next (writeMbxStat s v)
def execMbxSelWrite (v : Word) (s : State) : Out := .next (writeMbxSel s v)
def execCtxSelWrite (v : Word) (s : State) : Out := .next (writeCtxSel s v)
def execQSelWrite (v : Word) (s : State) : Out := .next (writeQSel s v)
def execRingCfgWrite (v : Word) (s : State) : Out := .next (writeRingCfg s v)
def execAttCntLoRead (s : State) : Out := .next (performRead s 0x1C08).1
/-- A write to any other offset of the window. -/
def execRegisterWriteOther (off : Nat) (v : Word) (s : State) : Out := .next (regWrite s off v)

end Sys2Proof.Machine
end

