-- ==== Sys2Proof/Machine/Power.lean ====
section
/-! DEFINITION. Power states, wakes, resets, start-up, thermal shutdown, the boot configuration record, and the
test access port (spec/16; spec/17, R503, R504, R520 to R522). -/

namespace Sys2Proof.Machine
open Sys2Proof

/-! ### Cold starts (R486) -/

/-- What a start finds in the flash, the fuses and the wear records, over the reset state; the model's clock and
its queue of commands go on. (DEDUCED: log entry 50). -/
def coldFrom (s : State) : State :=
  let z := State.reset
  { z with
    pending := s.pending, now := s.now, free := s.free,
    fc := { z.fc with pscFailed := s.fc.pscFailed, hallRows := s.fc.hallRows, hallCols := s.fc.hallCols, wear := s.fc.wear,
                      sramRows := s.fc.sramRows },
    pw := { z.pw with resetLow := s.pw.resetLow, boot := s.pw.boot, grave := s.pw.grave, thermTrip := s.pw.thermTrip,
                      cause := s.pw.cause },
    nw := { z.nw with calFactory := s.nw.calFactory, calU0 := s.nw.calU0, calU1 := s.nw.calU1 },
    sec := { z.sec with nextPair := s.sec.nextPair, bootCount := s.sec.bootCount,
                        minSvn := s.sec.minSvn, keyRevoked := s.sec.keyRevoked, attMark := s.sec.attMark,
                        cfg := s.sec.cfg, fw := s.sec.fw },
    mem := { z.mem with chans := s.mem.chans.map fun p => (p.1, { p.2 with errors := [], copying := none, due := [] }) },
    ms := { z.ms with jtag := s.ms.jtag } }

/-- The part ignores RESET_N and WAKE_IN: unpowered, or in thermal shutdown (R489). (DEDUCED: log entry 50). -/
def inert (s : State) : Bool := s.pw.st == .thermal || s.pw.st == .unpowered

/-- A power-on reset clears every Grave latch and THERM_TRIP (R486). (DEDUCED: log entry 50). -/
def powerOn (s : State) : State :=
  let z := coldFrom s
  { z with pw := { z.pw with grave := [], thermTrip := false, cause := 1 }, ms := { z.ms with jtag := resetMisc.jtag } }

/-- RESET_N low: a power cycle, which clears the Grave latches but THERM_TRIP. -/
def resetLowNow (s : State) : State :=
  let z := coldFrom s
  { z with pw := { z.pw with grave := [], resetLow := true } }

/-- EXTEST, CLAMP and HIGHZ act as BYPASS from reset release on (R522). (DEDUCED: log entry 83). -/
def jtagRelease (s : State) : State :=
  if [0, 3, 4].contains s.ms.jtag.ir then { s with ms := { s.ms with jtag := { s.ms.jtag with ir := 31 } } } else s

/-- (DEDUCED: log entry 50). -/
def resetPin (s : State) (low : Bool) : State :=
  if inert s then s
  else if low then resetLowNow s
  else if s.pw.resetLow then jtagRelease { s with pw := { s.pw with resetLow := false, cause := 2 } }
  else s

/-- A switched rail fails while PWREN_MAIN is high: as RESET_N low, the next start with cause PIN (R504).
(DEDUCED: log entry 50, DEDUCED: log entry 93). -/
def railFail (s : State) : State :=
  if inert s ∨ ¬ s.pw.pins.pwrenMain then s
  else
    let z := coldFrom s
    { z with pw := { z.pw with grave := [], cause := 2 } }

/-- The pins while their banks are unpowered (R487): BYP_HOLD and FAULT_N are always-on outputs. -/
def bankOffPins (byp fault : Level) : Pins :=
  ⟨byp, fault, .hiZ, .hiZ, .hiZ, .hiZ, .hiZ, .hiZ, .hiZ, .hiZ, false, false, false⟩

/-- VDD_AON is lost: the part is unpowered, the retained set is gone.
(DEDUCED: log entry 50, DEDUCED: log entry 93). -/
def supplyLoss (s : State) : State :=
  let z := coldFrom s
  { z with pw := { z.pw with st := .unpowered, pins := bankOffPins .hiZ .hiZ } }

/-- Thermal shutdown (R489): nothing is saved; the Grave latch THERM_TRIP stands until a power-on reset.
(DEDUCED: log entry 50). -/
def thermTripNow (s : State) : State :=
  if inert s then s
  else
    let z := coldFrom s
    { z with pw := { z.pw with st := .thermal, thermTrip := true, grave := z.pw.grave ++ [(0x70, 120)],
                               pins := bankOffPins .low .low } }

/-- 1 ms after the reply of PART_RESET. (DEDUCED: log entry 50). -/
def partReset (s : State) : State :=
  if s.pw.partReset then
    let z := coldFrom s
    { z with pw := { z.pw with cause := 8 } }
  else s

/-! ### Reset release and recovery (R490, R374, R376) -/

/-- The image in flash is valid: `ok` says that its key, signature and body digest verify. -/
def imageValid (s : State) (ok : Bool) : Bool :=
  ok && s.sec.fw.valid && decide (s.sec.minSvn ≤ s.sec.fw.svn) && s.sec.keyRevoked / 2 ^ s.sec.fw.keySlot % 2 == 0

def enterRecovery (s : State) : State :=
  { s with sec := { s.sec with recovery := true }, num := { s.num with svc := 3 },
           pw := { s.pw with phase := 1, pins := { s.pw.pins with faultN := .low } } }

/-- The ROM loader starts: BYP_HOLD rises, the image is checked. (DEDUCED: log entry 48). -/
def resetRelease (s : State) (ok : Bool) : State :=
  if inert s ∨ s.pw.st = .off ∨ s.pw.st = .deepSleep ∨ s.pw.resetLow ∨ s.pw.started then s
  else
    let s := { s with pw := { s.pw with started := true, startAt := if s.pw.cause = 32 then s.pw.startAt else s.now,
                                        pins := { s.pw.pins with bypHold := .high } } }
    if imageValid s ok then { s with sec := { s.sec with running := s.sec.fw } }
    else if s.pw.cause = 32 then
      let z := coldFrom s
      enterRecovery { z with pw := { z.pw with started := true, startAt := s.pw.startAt, pins := s.pw.pins, cause := 32 } }
    else enterRecovery s

/-! ### Start-up by Dynov (R491) -/

/-- The key store at a cold start (R357, R369): the sealed pair of this lifetime is loaded and its blob erased;
the flight that generates a pair begins. The domains of the operator driver and of Newel get their HBM key pairs (R175).
(DEDUCED: log entry 52). -/
def startKeys (s : State) : State :=
  let s := newKey (newKey s 0x300) 0x310
  { s with
    sec := { s.sec with identOk := true, bootCount := s.sec.bootCount + 1, skeyReady := s.sec.nextPair, nextPair := false,
                        attCount := s.sec.attMark, attMark := s.sec.attMark + 65536 },
    nw := { s.nw with flights := s.nw.flights ++ [⟨0x300, 0x310, 0, default, .skeyGen, .rsa, [], 0⟩] } }

/-- The boot configuration record is verified; an absent one raises CAL_BAD (R493). (DEDUCED: log entry 49). -/
def checkBoot (s : State) (ok : Bool) : State :=
  let s := { s with pw := { s.pw with boot := { s.pw.boot with present := s.pw.boot.present && ok } } }
  if s.pw.boot.present then s else raise s (plainFault 0x310 0x44 uNewel 0 0)

/-- The alive outputs are armed; every axis is OFF. -/
def armAlive (s : State) : State :=
  { s with mc := { s.mc with armed := true, latchM := true, latchH := true },
           pw := { s.pw with pins := { s.pw.pins with aliveM := .high, aliveH := .high } } }

/-- Domains that the start-up self-test needs. -/
def firmwareVotes (s : State) (b : Bool) : State :=
  { s with pw := { s.pw with doms := s.pw.doms.map fun d => { d with firmware := b } } }

/-- (DEDUCED: log entry 52). -/
def dynovStart (s : State) (facOk ok0 ok1 bootOk : Bool) : State :=
  if ¬ s.pw.started ∨ s.pw.phase ≠ 0 then s
  else
    let s := driveFaultN s
    let s := if s.pw.cause = 32 then s else verifyCal (startKeys s) facOk ok0 ok1
    let s := armAlive (checkBoot s bootOk)
    refreshDoms (firmwareVotes { s with pw := { s.pw with phase := 3 } } true)

/-- HBM training ends; a channel that failed its retry raises HBM_LANE (R492). -/
def hbmTraining (s : State) (ok : Bool) (ch lane : Nat) (lanes : List (Nat × Nat)) : State :=
  if s.pw.phase ≠ 3 then s
  else
  let s := lanes.foldl (fun s p => repairLane s p.1 p.2) s
  if ok then { s with pw := { s.pw with hbmReady := true, phase := 4 } }
  else raise { s with pw := { s.pw with hbmFailed := true, phase := 8 } } (plainFault 0x370 0x2A (128 + ch) lane 0)

/-! ### The boot configuration record (R493) and automatic start (R494) -/

def bootWord (s : State) (i : Nat) : Word := wd s.pw.boot.words i
def bootAuto (s : State) : Bool := s.pw.boot.present && bit (bootWord s 1) 0
def bootFree (s : State) : Bool := s.pw.boot.present && bit (bootWord s 1) 1

/-- With its two conditions met, the pipeline starts at the next frame boundary. -/
def autoStart (s : State) : State :=
  if bootAuto s ∧ s.pw.phase = 5 ∧ (s.ring.gSync ∨ s.hp.freeRun) then
    { s with hp := { s.hp with starting := true }, pw := { s.pw with phase := 7 } }
  else s

/-- The configuration, RATE and EPOCH_NS of the record come into force; phase 5 waits for gPTP.
(DEDUCED: log entry 49). -/
def applyBoot (s : State) : State :=
  if ¬ bootAuto s then s
  else
    let w := s.pw.boot.words
    match applyHouse s ((w.drop 4).take 16) ((w.drop 20).take 16) (bits (wd w 36) 3 0) (bits (wd w 36) 7 4) 0 with
    | none => s
    | some s =>
      autoStart { s with tt := { s.tt with set := true, rate := bits (wd w 1) 4 2, epoch := dwd w 2 },
                         pw := { s.pw with phase := 5 } }

/-- No grandmaster 1.2 s after the start: a FREE_RUN start is on the part's own time, and GPTP_LOSS is raised. -/
def freeRunTimeout (s : State) : State :=
  if bootAuto s ∧ bootFree s ∧ ¬ s.ring.gSync ∧ ¬ s.hp.running ∧ ¬ s.hp.freeRun ∧ s.pw.started then
    autoStart (raise { s with hp := { s.hp with freeRun := true } } (plainFault 0x370 0x53 (uPort s.ring.gPort) s.ring.gPort 0))
  else s

/-! ### The self-test and the house context (R491, steps 6 to 8) -/

/-- Newel creates context 0x200: the pose ring, the house regions and weights in every Hall. -/
def houseContext (s : State) : State :=
  let s := setCtx s 0x200 { freshCtx ⟨0, 0, 0, 0, 0, 0⟩ (List.replicate 64 0) s.cx.incarnNext with st := .active, nanTrap := true }
  let s := newKey { s with cx := { s.cx with incarnNext := s.cx.incarnNext + 1 } } 0x200
  let own (n : Nat) : List (Nat × Nat) := (List.range n).map fun k => (k, 0x200)
  let s := { s with mh := { s.mh with halls := s.mh.halls.map fun h =>
    { h with regions := tput h.regions 0x200 ⟨0, 128, 0, 16, false⟩, wOwner := own 128, aOwner := own 16 } } }
  match houseObj s (4096 * 64) with
  | some (s, slot) => { s with hp := { s.hp with poseRing := slot }, pw := { s.pw with houseCtxReady := true } }
  | none => { s with pw := { s.pw with houseCtxReady := true } }

/-- The core maps of a start: the working cores of each group in ascending order (R28). A group with a second failed core
raises SC_SPARE_OUT (R466). (DEDUCED: log entry 79). -/
def startMaps (s : State) (failed : List Nat) : State :=
  failed.foldl (fun s p =>
      if (failed.takeWhile fun q => q != p).any fun q => q / 9 == p / 9 then raise s (plainFault 0x370 0x1C (216 + p) (p / 9) 0) else s)
    { s with fc := { s.fc with pscFailed := failed }, ms := { s.ms with scMap := (List.range 4).map (groupMap failed) } }

/-- The start-up self-test ends: what failed is substituted and the maps are written; the house context. After a
wake from Deep Sleep the retained house configuration has its frame rings again, and the part is in Idle.
(DEDUCED: log entry 48). -/
def selfTestDone (s : State) (cores : List Nat) (lines : List (Nat × Nat)) (rows : List (Nat × Nat)) : State :=
  if s.pw.phase ≠ 4 then s
  else
    let s := startMaps s (cores.foldl sins s.fc.pscFailed)
    let s : State := lines.foldl (fun s l => substLine s l.1 l.2) s
    let s : State := rows.foldl (fun s r => substRow s r.1 r.2) s
    let s : State := houseContext (firmwareVotes s false)
    let s : State := { s with pw := { s.pw with phase := 7 } }
    if s.pw.cause = 32 then
      match s.hp.cfg with
      | some c => ((makeRings [(c.exports.getD 0 0, c.descs.getD 0 []), (c.exports.getD 1 0, c.descs.getD 1 [])]
          { s with hp := { s.hp with rings := [] } }).getD s)
      | none => s
    else applyBoot s

/-! ### Sleep, Deep Sleep, Off (R477 to R483) -/

/-- Engine domains enter or leave retention; the Motion Controller stays on. -/
def retainDoms (s : State) (a b : Nat) : State :=
  { s with pw := { s.pw with doms := (List.range 12).map fun d =>
      let x := domOf s d
      if d ≠ 11 ∧ x.pwr = a then { x with pwr := b } else x } }

/-- The operator driver's objects that DS_RETAIN named and that still live. -/
def retainedSlots (s : State) : List Nat :=
  (s.pw.dsRetain.filterMap fun h => findObj s h).filterMap fun p => if p.2.owner = 0x300 then some p.1 else none

/-- The commit tread of Deep Sleep entry (R482): other operator objects are freed, the grow reserve is emptied. -/
def freeUnretained (s : State) : State :=
  let keep := retainedSlots s
  let gone := (s.cx.objs.filter fun p => p.2.st != .free && !keep.contains p.1).map fun p => (p.1, p.2.owner)
  let s := gone.foldl (fun s p => releaseObj s p.1 (p.2 == 0x300)) s
  let unset (h : Nat) : Nat := if keep.contains (h % 65536) then h else 0
  { s with
    fc := { s.fc with errqObj := unset s.fc.errqObj, tlmObj := unset s.fc.tlmObj },
    cx := { s.cx with reserve := 0, reserveRuns := [], freeFrames := addRuns s.cx.freeFrames (backToPool s s.cx.reserveRuns) } }

/-- Deep Sleep: the always-on island and the retained set of R481. (DEDUCED: log entry 47, DEDUCED: log entry 50). -/
def enterDeep (s : State) : State :=
  let s := freeUnretained (powerTo s .deepSleep 0)
  let z := coldFrom s
  let axis (a : Axis) : Axis := { resetAxis with prm := a.prm, enc := a.enc, auto := a.auto, count := a.count, latched := a.latched }
  let heat (h : Heater) : Heater := { resetHeater with set := h.set, kp := h.kp, ki := h.ki, kh := h.kh, tau := h.tau,
                                                        theta := h.theta, maxDuty := h.maxDuty, tMax := h.tMax }
  { z with
    pw := { z.pw with st := .deepSleep, retained := true, dsRetain := s.pw.dsRetain,
                      pins := bankOffPins (if s.ring.dsBypass then .low else .high) s.pw.pins.faultN },
    fc := { z.fc with errqObj := s.fc.errqObj, errqW := s.fc.errqW, errqR := s.fc.errqR, tlmObj := s.fc.tlmObj, tlmSeq := s.fc.tlmSeq },
    cx := { z.cx with incarnNext := s.cx.incarnNext, objs := s.cx.objs, freed := s.cx.freed, freeFrames := s.cx.freeFrames,
                      withdrawn := s.cx.withdrawn, maps := s.cx.maps.filter fun p => p.1 == 0x300 },
    mem := { z.mem with cells := s.mem.cells },
    tt := { z.tt with set := s.tt.set, rate := s.tt.rate, epoch := s.tt.epoch, active := s.tt.active },
    hp := { z.hp with cfg := s.hp.cfg, stopped := s.hp.stopped },
    nw := { z.nw with calFacOk := s.nw.calFacOk, calUse := s.nw.calUse, calEff := s.nw.calEff,
                      outq := s.nw.outq.filter (fun p => p.1 == 0xA0C), mbx := s.nw.mbx.filter (fun p => p.1 == 0xA0C),
                      lost := s.nw.lost },
    sec := { s.sec with fwStage := [] },
    ring := { z.ring with ts := s.ring.ts, dsBypass := s.ring.dsBypass,
                          ports := z.ring.ports.map fun p => { p with tc10 := if s.ring.dsBypass then 0 else 1 } },
    mc := { z.mc with axes := s.mc.axes.map axis, heaters := s.mc.heaters.map heat, manual := s.mc.manual, gain := s.mc.gain } }

/-- Off: fuses and flash only. -/
def enterOff (s : State) : State :=
  let z := coldFrom s
  { z with pw := { z.pw with st := .off, pins := bankOffPins .low s.pw.pins.faultN } }

/-- A mailbox that Deep Sleep and Off wait for is FULL. -/
def anyMailFull (s : State) : Bool := s.nw.mbx.any fun p => p.1 < 0x800 && p.2.full

/-- The conditions of R478 that refuse entry to a state code. (DEDUCED: log entry 47). -/
def entryRefused (s : State) (mbox t : Nat) : Option Nat :=
  if s.hp.running ∨ s.hp.starting then some cBUSY
  else if 2 ≤ t ∧ ((s.nw.flights.any fun f => !(f.kind == .request && f.mbox == mbox && f.op == 0x50)) ∨ s.tt.pendingImg.isSome) then
    some cBUSY
  else if 3 ≤ t ∧ ((s.cx.ctxs.any fun p => p.1 != 0x200 && p.2.st != .free) ∨ (s.rs.feeds.any fun f => f.2.bound) ∨ s.ob.mode ≠ 0
      ∨ (s.mc.axes.any fun a => a.st != 0) ∨ anyMailFull s) then some cBUSY
  else if 3 ≤ t ∧ s.pw.grave ≠ [] then some cBADSTATE
  else none

/-- (DEDUCED: log entry 23, DEDUCED: log entry 47). -/
def bodyPwrSet : Body := fun _ r s =>
  let t := bits (wd r.block 1) 2 0
  if 5 ≤ t then errRes s cRANGE
  else if (s.pw.st = .run ∧ t = 0) ∨ (s.pw.st = .idle ∧ t = 1) then okRes s []
  else if t = 0 then okRes (powerTo s .run 0) []
  else match entryRefused s r.mbox t with
    | some c => errRes s c
    | none =>
      let s := { s with pw := { s.pw with entering := none } }
      if t = 1 then okRes { powerTo s .idle 0 with tt := { s.tt with gated := true } } []
      else if t = 2 then okRes { retainDoms (powerTo s .sleep 0) 2 3 with tt := { s.tt with gated := true } } []
      else if t = 3 then okRes (enterDeep s) []
      else okRes (enterOff s) []

/-- Sleep and Deep Sleep return to Idle; Off starts cold (R479). (DEDUCED: log entry 47, DEDUCED: log entry 48). -/
def wakeUp (s : State) (src : Nat) : State :=
  match s.pw.st with
  | .sleep => { retainDoms (powerTo s .idle src) 3 2 with tt := { s.tt with gated := true } }
  | .deepSleep =>
    let s := powerTo s .idle src
    let pins : Pins := { resetPins with bypHold := s.pw.pins.bypHold }
    { s with pw := { s.pw with started := false, cause := 32, startAt := s.now, retained := false, pins := pins },
             tt := { s.tt with gated := true } }
  | .off => let z := coldFrom s; { z with pw := { z.pw with cause := 4 } }
  | _ => s

/-- A wake during an entry flight ends the flight with BUSY (R480). (DEDUCED: log entry 57). -/
def cancelEntry (s : State) : State :=
  match s.nw.flights.find? fun f => f.kind == .request && f.op == 0x50 with
  | none => s
  | some f =>
    let s := { s with nw := { s.nw with flights := s.nw.flights.erase f }, pw := { s.pw with entering := none } }
    sendReply s 0x50 f.r true cBUSY 0 []

def wakeIn (s : State) : State := if s.pw.entering.isSome then cancelEntry s else wakeUp s 1

/-! ### Other requests -/

def bodyPwrVote : Body := fun _ r s =>
  let w := wd r.block 1
  let set := bit w 16
  let ds := (List.range 12).filter fun d => bit w d
  okRes (refreshDoms (ds.foldl (fun s d => modDom s d fun x => { x with operator := set }) s)) []

def bodyPartReset : Body := fun _ _ s =>
  if s.pw.grave ≠ [] then errRes s cBADSTATE else okRes { s with pw := { s.pw with partReset := true } } []

/-- Reserved bits of the boot configuration record. (DEDUCED: log entry 49). -/
def bootRsv : List Word := [0xFFFFFFE0] ++ List.replicate 34 0 ++ [0xFFFFFF00, ones, ones, ones]

/-- (DEDUCED: log entry 49). -/
def bodyBootCfgSet : Body := fun _ r s =>
  let w := (r.block.drop 1).take 40
  let d0 := (w.drop 4).take 16
  let d1 := (w.drop 20).take 16
  match ((structOk w 160 bootRsv).or (streamStruct d0 0)).or (streamStruct d1 0) with
  | some c => errRes s c
  | none =>
    if 5 < bits (wd w 1) 4 2 then errRes s cRANGE
    else match houseCheck [d0, d1] [bits (wd w 36) 3 0, bits (wd w 36) 7 4] with
      | some c => errRes s c
      | none => okRes { s with pw := { s.pw with boot := ⟨true, w⟩ } } []

/-! ### Loss of lock (R505, R520) -/

/-- Islands 1 to 15 that a PLL clocks. -/
def pllIslands (p : Nat) : List Nat :=
  if p = 0 then [1] else if p = 1 then [2] else if p = 2 then [3, 4] else if p = 3 then [5] else if p = 4 then [6, 7, 8, 9]
  else if p = 5 then [10, 11, 12, 13, 14] else if p = 6 then [15] else []

/-- (DEDUCED: log entry 77). -/
def pllLost (s : State) (p : Nat) : State :=
  let is := pllIslands p
  let s := { s with pw := { s.pw with pll := s.pw.pll.set p false },
                    ms := { s.ms with islands := (if p = 7 then [16] else is).foldl (fun l i => upd l i fun x => { x with locked := false }) s.ms.islands } }
  if p = 7 then raise s (plainFault 0x330 0x68 uMotion 0 0)
  else is.foldl (fun s i => raise s (plainFault (arraySource (192 + i)).1 0x7E (192 + i) 0 0)) s

/-! ### The test access port (R521, R522) -/

/-- Load an instruction; EXTEST, CLAMP and HIGHZ while RESET_N is high act as BYPASS. (DEDUCED: log entry 83). -/
def jtagLoad (s : State) (ir : Nat) : State :=
  let ir := if [0, 3, 4].contains ir ∧ ¬ s.pw.resetLow then 31 else ir
  { s with ms := { s.ms with jtag := { s.ms.jtag with ir := ir } } }

/-- SAMPLE/PRELOAD samples the pins and loads the boundary register with the bits shifted in.
(DEDUCED: log entry 83). -/
def jtagSample (s : State) (bs : List Bool) : State :=
  { s with ms := { s.ms with jtag := ⟨1, bs⟩ } }

/-- (DEDUCED: log entry 83). -/
def jtagReset (s : State) : State := { s with ms := { s.ms with jtag := { s.ms.jtag with ir := 2 } } }

/-- The identification register (R522). (DEDUCED: log entry 83). -/
def idcode : Word := 0x142809CB

/-! ### Meanings -/

def specPwrSet : ReqSpec := ⟨0x50, fromO, true, len 8, [0xFFFFFFF8], fun _ _ _ => [.power], .ready, bodyPwrSet⟩
def specPwrVote : ReqSpec := ⟨0x51, fromO, false, len 8, [0xFFFEF000], noLocks, .ready, bodyPwrVote⟩
def specPartReset : ReqSpec := ⟨0x52, fromO, false, len 0, [], noLocks, .ready, bodyPartReset⟩
def specBootCfgSet : ReqSpec := ⟨0x53, fromO, true, len 164, [], fun _ _ _ => [.bootCfg], .flash, bodyBootCfgSet⟩

def execPwrSet (r : ReqIn) (s : State) : Out := .next (runRequest specPwrSet r s)
def execPwrVote (r : ReqIn) (s : State) : Out := .next (runRequest specPwrVote r s)
def execPartReset (r : ReqIn) (s : State) : Out := .next (runRequest specPartReset r s)
def execBootCfgSet (r : ReqIn) (s : State) : Out := .next (runRequest specBootCfgSet r s)
def execPowerOnReset (s : State) : Out := .next (powerOn s)
def execResetN (low : Bool) (s : State) : Out := .next (resetPin s low)
def execRailFail (s : State) : Out := .next (railFail s)
def execResetRelease (imageOk : Bool) (s : State) : Out := .next (resetRelease s imageOk)
def execDynovStart (facOk ok0 ok1 bootOk : Bool) (s : State) : Out := .next (dynovStart s facOk ok0 ok1 bootOk)
def execHbmTrainingDone (ok : Bool) (failed : Nat × Nat) (lanes : List (Nat × Nat)) (s : State) : Out :=
  .next (hbmTraining s ok failed.1 failed.2 lanes)
def execSelfTestDone (cores : List Nat) (lines rows : List (Nat × Nat)) (s : State) : Out := .next (selfTestDone s cores lines rows)
def execFreeRunTimeout (s : State) : Out := .next (freeRunTimeout s)
def execWakeIn (s : State) : Out := .next (wakeIn s)
def execThermTrip (s : State) : Out := .next (thermTripNow s)
def execPllLockLost (pll : Nat) (s : State) : Out := .next (pllLost s pll)
def execAlwaysOnSupplyLoss (s : State) : Out := .next (supplyLoss s)
def execPartResetTakesEffect (s : State) : Out := .next (partReset s)
def execTrstN (s : State) : Out := .next (jtagReset s)
def execExtest (s : State) : Out := .next (jtagLoad s 0)
def execSamplePreload (bs : List Bool) (s : State) : Out := .next (jtagSample s bs)
def execIdcode (s : State) : Out := .next (jtagLoad s 2)
def execClamp (s : State) : Out := .next (jtagLoad s 3)
def execHighz (s : State) : Out := .next (jtagLoad s 4)
def execBypass (s : State) : Out := .next (jtagLoad s 31)

end Sys2Proof.Machine
end

