-- ==== Sys2Proof/Machine/Security.lean ====
section
/-! DEFINITION. Sessions, attestation, the security configuration and firmware images: the requests 0x00 to 0x0B,
session end, the IDENTITY payload, and the sending of outbound words (spec/12; spec/09, R270, R274; R12). -/

namespace Sys2Proof.Machine
open Sys2Proof

/-! ### Outbound words (R270, R274, R365) -/

/-- Identity that an outbound mailbox belongs to. -/
def outOwner (i : Nat) : Nat := if i < 0xA08 then i - 0x800 else 0x300

/-- The Landing takes an outbound mailbox: its word, with the result block of a reply, leaves in an OUTBOUND
frame of the owner's session; the next queued word moves up. Without a session the word waits. The part's
frames change epoch after the reply of a rekey. -/
def outSend (s : State) (i : Nat) : State :=
  let who := outOwner i
  let m := mbxOf s i
  if ¬ m.full ∨ ¬ (bound s who ∨ (provisional s who ∧ i ≠ 0xA0C)) then s
  else
    let op := bits m.word 51 44
    let stage := bits m.word 43 40
    let reply := decide (op < 0x80)
    let blk := if reply then (tgetD s.nw.stage (stageKey who stage) default).block else []
    let s := sendTo s who 0x14 i (if reply then stage else 0) (leBytes 8 m.word.toNat ++ wordBytes blk)
    let s := if op = 0x03 then { s with sec := { s.sec with sess := tmod s.sec.sess who fun x =>
        if x.txSwitch then { x with txSwitch := false, txEpoch := x.txEpoch + 1, txSeq := 0, rekeySent := false } else x } } else s
    match tgetD s.nw.outq i [] with
    | [] => { s with nw := { s.nw with mbx := tput s.nw.mbx i { m with full := false } } }
    | w :: r => { s with nw := { s.nw with mbx := tput s.nw.mbx i { m with word := w.word }, outq := tput s.nw.outq i r } }

/-- Send every word that waits in an outbound mailbox and its queue. -/
def outFlush : Nat → State → Nat → State
  | 0, s, _ => s
  | n + 1, s, i => outFlush n (outSend s i) i

/-! ### Bindings and session ends (R359, R366, R367, R398) -/

/-- The staging entries of an identity's session go with it (R273). -/
def clearStage (s : State) (who : Nat) : State :=
  { s with nw := { s.nw with stage := s.nw.stage.filter fun p => p.1 / 16 != who } }

/-- A provisional binding is dissolved: its transport session is unbound again. (DESIGN CHOICE: log entry 51). -/
def dissolve (s : State) (who : Nat) : State :=
  match sessOf s who with
  | some x =>
    if x.full then s
    else
    let s := clearStage s who
    { s with sec := { s.sec with sess := tdel s.sec.sess who },
                  ring := { s.ring with ts := tmod s.ring.ts x.ts fun t => { t with st := .unbound } } }
  | none => s

/-- A bound session is gone with its keys; its SESSION value is free. (DESIGN CHOICE: log entry 51). -/
def freeSession (s : State) (who : Nat) : State :=
  match sessOf s who with
  | some x =>
    let s := clearStage s who
    { s with sec := { s.sec with sess := tdel s.sec.sess who }, ring := { s.ring with ts := tdel s.ring.ts x.ts } }
  | none => s

/-- A session ends: the operator's at once, a context's by teardown with the cause (R366, R367). -/
def endSession (s : State) (who cause : Nat) : State := if who = 0x300 then freeSession s who else startTeardown s who cause

/-- What the part's own SEAL_SEQ brings: REKEY_DUE at 2^48 - 2^32, the end of the session at 2^48 (R365). -/
def sealDue (s : State) : State :=
  s.sec.sess.foldl (fun s p =>
    if ¬ p.2.full ∨ ¬ p.2.keyed ∨ p.2.txSeq < 2 ^ 48 - 2 ^ 32 then s
    else if 2 ^ 48 ≤ p.2.txSeq then endSession s p.1 3
    else if p.2.rekeySent then s
    else sendEvent { s with sec := { s.sec with sess := tmod s.sec.sess p.1 fun x => { x with rekeySent := true } } }
      p.1 0x86 p.1 p.2.txEpoch) s

/-- After a request on a provisional binding that has not become full: the reply leaves and the binding is
dissolved. (DESIGN CHOICE: log entry 51). -/
def afterProvisional (s : State) (mbox : Nat) : State :=
  let who := mbxIdent mbox
  if provisional s who then dissolve (outFlush (1 + (tgetD s.nw.outq (outMbx mbox) []).length) s (outMbx mbox)) who else s

/-- A request that may come on a provisional binding, executed whole. -/
def runOpen (sp : ReqSpec) (r : ReqIn) (s : State) : State :=
  if liveRequester s r.mbox sp.op ∧ provisional s (mbxIdent r.mbox) then afterProvisional (runRequest sp r s) r.mbox
  else runRequest sp r s

/-! ### INFO_GET (R12) -/

/-- "BV-4280-LQ0" in ASCII, zero-padded to 16 bytes. -/
def orderCode : List Word := [0x342D5642, 0x2D303832, 0x0030514C, 0]

def incarnOf (s : State) (who : Nat) : Nat := ((ctxOf s who).map Ctx.incarn).getD 0
def ifVerOf (s : State) (who : Nat) : Nat := ((sessOf s who).map Session.ifVer).getD 0
def imageId (s : State) : Nat := (s.tt.active.map TtImage.id).getD 0

def bodyInfoGet : Body := fun who _ s =>
  okRes s (orderCode ++ [reg [fld 0 8 0xB0, fld 16 16 s.sec.running.svn], s.sec.running.dynovVer, BitVec.ofNat 32 (ifVerOf s who),
    BitVec.ofNat 32 (imageId s), BitVec.ofNat 32 (incarnOf s who), BitVec.ofNat 32 (tgetD s.nw.lost who 0)])

/-! ### The session key statement and digests (R355, R358, R371) -/

/-- `n` bytes of an octet string. -/
def pad (n : Nat) (bs : List Byte) : List Byte := (bs ++ List.replicate n 0).take n

def skeyStatement (s : State) : List Byte :=
  let head := wordBytes [sizeVer 1152, BitVec.ofNat 32 s.sec.running.svn, lo32 s.sec.bootCount, hi32 s.sec.bootCount]
    ++ pad 64 s.sec.running.digest ++ pad 512 (Config.skeyMod s.sec.bootCount) ++ leBytes 4 65537 ++ List.replicate 44 0
  head ++ pad 512 (Config.signature s.sec.bootCount head)

/-- Payload of IDENTITY: the certificates and the statement; in recovery 1,152 zero bytes stand for it (R376). -/
def identityPayload (s : State) : List Byte :=
  Config.certificates ++ if s.sec.recovery then List.replicate 1152 0 else skeyStatement s

/-- The security configuration record; the manual gives its fields and their order. (DEDUCED: log entry 53). -/
def secRecord (s : State) : List Byte :=
  let c := s.sec.cfg
  pad 128 (wordBytes [sizeVer 128] ++ pad 64 c.operatorDigest
    ++ wordBytes [reg [flg 0 c.macsecReq], reg [fld 0 16 c.ifMin, fld 16 16 c.ifMax], reg [fld 0 16 c.etherType, fld 16 2 c.jtagMode]])

/-- (DEDUCED: log entry 53). -/
def secDigest (s : State) : List Byte := pad 64 (Config.sha512 (secRecord s))

/-! ### SESSION_OPEN, SESSION_CLOSE, SESSION_REKEY (R360 to R366) -/

def openRsv : List Word :=
  [0xFFFFF000, 0, 0xFFFFFFFF] ++ List.replicate 265 0 ++ [0xFFFFFFFF, 0xFFFFFFFF, 0xFFFFFFFF]

/-- The digest that the opening key has to match. -/
def ownerDigest (s : State) (who : Nat) : List Byte :=
  if who = 0x300 then s.sec.cfg.operatorDigest else ((ctxOf s who).map Ctx.owner).getD []

/-- The one version that Dynov of B0 supports lies in the sender's range and in IF_RANGE (R282, R371). -/
def ifSelected (s : State) (lo hi : Nat) : Bool :=
  decide (lo ≤ 0x0100 ∧ 0x0100 ≤ hi ∧ s.sec.cfg.ifMin ≤ 0x0100 ∧ 0x0100 ≤ s.sec.cfg.ifMax)

/-- A binding becomes full. The records of OP0 to OP3 are cleared when an operator session binds (R276). -/
def bindFull (s : State) (who : Nat) (f : Session → Session) : State :=
  match sessOf s who with
  | none => s
  | some x =>
    let s := { s with sec := { s.sec with sess := tput s.sec.sess who { f x with full := true, lastValid := s.now } },
                      ring := { s.ring with ts := tmod s.ring.ts x.ts fun t => { t with st := .full } } }
    if who = 0x300 then { s with nw := { s.nw with recs := s.nw.recs.filter fun p => !(0x208 ≤ p.1 && p.1 < 0x20C) } }
    else modCtx s who fun c => { c with st := .active }

def bodySessionOpen : Body := fun who r s =>
  let b := r.block
  if bits (wd b 1) 11 0 ≠ who then errRes s cRANGE
  else if ¬ s.sec.skeyReady then errRes s cNOTREADY
  else if pad 64 (Config.sha512 (blkBytes b 0x230 0x204)) ≠ pad 64 (ownerDigest s who) then errRes s cDENIED
  else if ¬ r.ver.sigOk ∨ ¬ r.ver.unwrapOk then errRes s cBADSIGNATURE
  else if ¬ ifSelected s (bits (wd b 2) 15 0) (bits (wd b 2) 31 16) then errRes s cVERSION
  else
    let nonce := pad 32 (Config.randomBytes s.free 32)
    let s := bindFull (draw s) who fun x =>
      { x with ifVer := 0x0100, keyed := true, secret := pad 64 (Config.unwrap (blkBytes b 0x30 0x200)),
               clientNonce := blkBytes b 0x10 0x20, partNonce := nonce, txEpoch := 0, txSeq := 0, rxEpoch := 0,
               rekeyWait := false, txSwitch := false, rxHigh := 0, rxSeen := [], rekeySent := false }
    okRes s (bytesWords nonce ++ [0x0100, BitVec.ofNat 32 (incarnOf s who)])

/-- (DESIGN CHOICE: log entry 51). -/
def bodySessionClose : Body := fun who _ s => okRes (if who = 0x300 then s else startTeardown s who 0) []

/-- The operator session ends once the reply of its SESSION_CLOSE has left. (DESIGN CHOICE: log entry 51). -/
def afterClose (s : State) (was : State) (mbox : Nat) : State :=
  let i := outMbx mbox
  if liveRequester was mbox 0x02 ∧ mbxIdent mbox = 0x300 ∧ ((tget s.nw.recs mbox).map ReqRec.op) = some 0x02 then
    freeSession (outFlush (1 + (tgetD s.nw.outq i []).length) s i) 0x300
  else s

def bodySessionRekey : Body := fun who _ s =>
  match sessOf s who with
  | none => errRes s cBADSTATE
  | some x =>
    if isCtx who ∧ ctxState s who = .teardown then errRes s cBADSTATE
    else if x.rekeyWait ∨ x.txSwitch then errRes s cBUSY
    else
      okRes { s with sec := { s.sec with sess := tput s.sec.sess who { x with rekeyWait := true, txSwitch := true, rekeySent := false } } }
        [BitVec.ofNat 32 (x.txEpoch + 1)]

/-! ### ATTEST (R368, R369) -/

/-- The next counter value, and a mark 65,536 higher before the counter reaches the mark. (DEDUCED: log entry 52). -/
def nextCount (s : State) : State :=
  let n := s.sec.attCount + 1
  { s with sec := { s.sec with attCount := n, attMark := if s.sec.attMark ≤ n + 1 then s.sec.attMark + 65536 else s.sec.attMark } }

def zero64 : List Byte := List.replicate 64 0

/-- Bytes 0x000 to 0x1FF of the report of a session with its nonce. -/
def reportBytes (s : State) (who : Nat) (nonce : List Byte) : List Byte :=
  wordBytes ([sizeVer 1024, reg [fld 0 12 who, flg 12 s.tt.pendingImg.isSome, fld 16 16 (ifVerOf s who)], lo32 s.sec.attCount,
      hi32 s.sec.attCount] ++ timeWords s ++ [lo32 s.sec.bootCount, hi32 s.sec.bootCount, s.sec.running.dynovVer,
      reg [fld 0 16 s.sec.running.svn, fld 16 8 0xB0], BitVec.ofNat 32 (imageId s), BitVec.ofNat 32 (incarnOf s who)])
    ++ pad 64 nonce ++ pad 64 s.sec.running.digest
    ++ (match s.tt.active with | some t => pad 64 (Config.sha512 t.bytes) | none => zero64)
    ++ (match tget s.tt.sched who with | some x => pad 64 (Config.sha512 x.bytes) | none => zero64)
    ++ secDigest s ++ pad 64 (ownerDigest s who) ++ pad 64 (Config.sha512 (skeyStatement s)) ++ List.replicate 16 0

/-- (DEDUCED: log entry 52). -/
def bodyAttest : Body := fun who r s =>
  let s := nextCount s
  let head := reportBytes s who (blkBytes r.block 4 64)
  okRes (draw s) (bytesWords (head ++ pad 512 (Config.signature s.free head)))

/-! ### The security configuration (R372) -/

/-- A tenant context is not FREE. -/
def tenantsLive (s : State) : Bool := s.cx.ctxs.any fun p => isTenant p.1 && p.2.st != .free

def enrolled (s : State) : Bool := s.sec.cfg.operatorDigest != zero64

def setCfg (s : State) (f : SecCfg → SecCfg) : State := { s with sec := { s.sec with cfg := f s.sec.cfg } }

/-- (DESIGN CHOICE: log entry 51). -/
def bodyOperatorEnrol : Body := fun who r s =>
  if who ≠ 0x300 then errRes s cDENIED
  else if enrolled s then errRes s cBADSTATE
  else if ¬ r.ver.sigOk then errRes s cBADSIGNATURE
  else okRes (bindFull (setCfg s fun c => { c with operatorDigest := pad 64 (Config.sha512 (blkBytes r.block 4 0x204)) }) who
    fun x => { x with ifVer := 0x0100, keyed := false }) []

/-- The statement names this part and its present counter value, and its signature verifies. -/
def releaseOk (s : State) (r : ReqIn) : Bool :=
  dwd r.block 1 == Config.serial.toNat && dwd r.block 3 == s.sec.attCount && r.ver.sigOk

def bodyOperatorRelease : Body := fun who r s =>
  let form := decide (2 ≤ r.lenW)
  if who ≠ 0x300 then errRes s cDENIED
  else if ¬ bound s who ∧ ¬ form then errRes s cRANGE
  else if tenantsLive s then errRes s cBUSY
  else if form ∧ ¬ releaseOk s r then errRes s cBADSIGNATURE
  else okRes (setCfg s fun c => { c with operatorDigest := zero64 }) []

/-- (DEDUCED: log entry 53). -/
def bodySeccfgSet : Body := fun _ r s =>
  let lo := bits (wd r.block 2) 15 0
  let hi := bits (wd r.block 2) 31 16
  if tenantsLive s then errRes s cBUSY
  else if lo < 0x0100 ∨ 0x0100 < hi ∨ hi < lo then errRes s cRANGE
  else
    let s := setCfg s fun c => { c with macsecReq := bit (wd r.block 1) 0, ifMin := lo, ifMax := hi, etherType := bits (wd r.block 3) 15 0 }
    okRes s (bytesWords (secDigest s))

/-! ### Firmware images (R373 to R375) -/

def bodyFwStage : Body := fun _ r s =>
  let off := (wd r.block 1).toNat
  let n := (wd r.block 2).toNat
  if n % 4 ≠ 0 ∨ 4084 < n ∨ 2 ^ 24 < off + n then errRes s cRANGE
  else okRes { s with sec := { s.sec with fwStage := memPutN s.sec.fwStage off (blkBytes r.block 12 n) } } []

/-- The header of an image as R373 lays it out. -/
def imageHeader (m : List Host.Cell) : List Word := bytesWords (memGetN m 0 64)

/-- The checks of R374 that the header's fields settle. -/
def headerOk (s : State) (h : List Word) : Bool :=
  bits (wd h 0) 31 16 == 1536 && bits (wd h 0) 15 8 == 1 && wd h 1 == 0x44594E56
    && decide (s.sec.minSvn ≤ bits (wd h 3) 15 0) && s.sec.keyRevoked / 2 ^ bits (wd h 3) 17 16 % 2 == 0
    && decide ((wd h 4).toNat % 4096 = 0 ∧ (wd h 4).toNat ≤ 16773120)

/-- The image an area holds, given the verdict on its signature, key and body digest. -/
def parseImage (s : State) (m : List Host.Cell) (v : Verdict) : Option FwImage :=
  let h := imageHeader m
  if headerOk s h ∧ v.sigOk ∧ v.imageOk then
    some ⟨true, wd h 2, bits (wd h 3) 15 0, bits (wd h 3) 17 16, (wd h 4).toNat, memGetN m 0x40 64⟩
  else none

/-- (DEDUCED: log entry 23, DEDUCED: log entry 53). -/
def bodyFwCommit : Body := fun _ r s =>
  match parseImage s s.sec.fwStage r.ver with
  | none => errRes s cBADSIGNATURE
  | some im => okRes { s with sec := { s.sec with fw := im } } [im.dynovVer, BitVec.ofNat 32 im.svn]

def bodySvnRaise : Body := fun _ _ s =>
  let n := max s.sec.minSvn (min 64 s.sec.running.svn)
  okRes { s with sec := { s.sec with minSvn := n } } [BitVec.ofNat 32 n]

/-- The CAK of a port (R389); MKA then runs under it. -/
def bodyMacsecCakSet : Body := fun _ r s =>
  let p := bits (wd r.block 1) 0 0
  okRes { s with ring := { s.ring with ports := upd s.ring.ports p fun x =>
    { x with ckn := blkBytes r.block 8 16, cak := blkBytes r.block 24 32 } } } []

/-! ### The rows and meanings -/

def fwLock (_ : Nat) (_ : ReqIn) (_ : State) : List Lock := [.firmware]
def cfgLock (_ : Nat) (_ : ReqIn) (_ : State) : List Lock := [.seccfg]

def specInfoGet : ReqSpec := ⟨0x00, fromCO, false, len 0, [], noLocks, .ready, bodyInfoGet⟩
def specSessionOpen : ReqSpec :=
  ⟨0x01, fromP, true, len 1600, openRsv, fun who _ _ => [.ctx who], .rsa, bodySessionOpen⟩
def specSessionClose : ReqSpec := ⟨0x02, fromCO, false, len 0, [], noLocks, .ready, bodySessionClose⟩
def specSessionRekey : ReqSpec := ⟨0x03, fromCO, false, len 0, [], noLocks, .ready, bodySessionRekey⟩
def specAttest : ReqSpec := ⟨0x04, fromCO, true, len 68, [], noLocks, .rsa, bodyAttest⟩
def specOperatorEnrol : ReqSpec := ⟨0x05, fromP, true, len 1032, [], cfgLock, .ready, bodyOperatorEnrol⟩
def specOperatorRelease : ReqSpec :=
  ⟨0x06, fromOP, true, fun b => if b.length ≤ 1 then 0 else 532, [], cfgLock, .flash, bodyOperatorRelease⟩
def specSeccfgSet : ReqSpec :=
  ⟨0x07, fromO, true, len 16, [0xFFFFFFFE, 0, 0xFFFF0000], cfgLock, .flash, bodySeccfgSet⟩
def specFwStage : ReqSpec :=
  ⟨0x08, fromO, false, fun b => 12 + min 4084 (wd b 2).toNat, [], fwLock, .ready, bodyFwStage⟩
def specFwCommit : ReqSpec := ⟨0x09, fromO, true, len 0, [], fwLock, .flash, bodyFwCommit⟩
def specSvnRaise : ReqSpec := ⟨0x0A, fromO, true, len 0, [], fwLock, .flash, bodySvnRaise⟩
def specMacsecCakSet : ReqSpec := ⟨0x0B, fromO, false, len 56, [0xFFFFFFFE], noLocks, .ready, bodyMacsecCakSet⟩

def execInfoGet (r : ReqIn) (s : State) : Out := .next (runRequest specInfoGet r s)
def execSessionOpen (r : ReqIn) (s : State) : Out := .next (runOpen specSessionOpen r s)
def execSessionClose (r : ReqIn) (s : State) : Out := .next (afterClose (runRequest specSessionClose r s) s r.mbox)
def execSessionRekey (r : ReqIn) (s : State) : Out := .next (runRequest specSessionRekey r s)
def execAttest (r : ReqIn) (s : State) : Out := .next (runRequest specAttest r s)
def execOperatorEnrol (r : ReqIn) (s : State) : Out := .next (runOpen specOperatorEnrol r s)
def execOperatorRelease (r : ReqIn) (s : State) : Out := .next (runOpen specOperatorRelease r s)
def execSeccfgSet (r : ReqIn) (s : State) : Out := .next (runRequest specSeccfgSet r s)
def execFwStage (r : ReqIn) (s : State) : Out := .next (runRequest specFwStage r s)
def execFwCommit (r : ReqIn) (s : State) : Out := .next (runRequest specFwCommit r s)
def execSvnRaise (r : ReqIn) (s : State) : Out := .next (runRequest specSvnRaise r s)
def execMacsecCakSet (r : ReqIn) (s : State) : Out := .next (runRequest specMacsecCakSet r s)

end Sys2Proof.Machine
end

