-- ==== Sys2Proof/Machine/Ring.lean ====
section
/-! DEFINITION. The ring ports: what the Landing does with each frame from a client, with transit, gPTP and MKA
frames, link changes, resends, timeouts and PROXY frames (spec/13, R380 to R406; R359, R364 to R367, R376). -/

namespace Sys2Proof.Machine
open Sys2Proof

/-! ### Ingress of a port (R385, R389, R390) -/

def portOf (s : State) (p : Nat) : Port := s.ring.ports.getD p default
def modPort (s : State) (p : Nat) (f : Port → Port) : State := { s with ring := { s.ring with ports := upd s.ring.ports p f } }

/-- The Landing runs, the part is in the ring and the port's link is up. -/
def landingOn (s : State) (p : Nat) : Bool :=
  s.pw.started && (s.pw.st == .run || s.pw.st == .idle || s.pw.st == .sleep) && s.pw.pins.bypHold == .high && (portOf s p).link

/-- A frame discarded under R396 to R398 without a NAK. (DEDUCED: log entry 55). -/
def hdrErr (s : State) (p : Nat) : State := modPort s p fun x => { x with errHdr := satInc 0x3FF x.errHdr }

/-- The checks of R389 and R390: FCS; ICV and strict replay order; protection while MACSEC_REQ asks for it.
(DESIGN CHOICE: log entry 5, DEDUCED: log entry 55). -/
def macIngress (s : State) (p : Nat) (fcsOk protect icvOk : Bool) (pn : Nat) (exempt : Bool) : State × Bool :=
  if ¬ landingOn s p then (s, false)
  else if ¬ fcsOk then (modPort s p fun x => { x with errFcs := satInc 0x7FF x.errFcs }, false)
  else if protect then
    if ¬ icvOk ∨ pn ≤ (portOf s p).pnRx then
      (raise (modPort s p fun x => { x with errIcv := satInc 0x7FF x.errIcv }) (plainFault 0x370 0x52 (uPort p) p 0), false)
    else (modPort s p fun x => { x with pnRx := pn }, true)
  else (s, exempt || !(s.sec.cfg.macsecReq && (portOf s p).scOnce))

/-- Types that MACSEC_REQ excepts while SEALED is 0 (R390). -/
def exemptType (t : Nat) (isSealed : Bool) : Bool := !isSealed && [0x01, 0x03, 0x06, 0x20, 0x40, 0x41, 0x42].contains t

/-! ### The seal (R364, R365) -/

/-- (DEDUCED: log entry 56). -/
def seqFault (s : State) (kind who p : Nat) : State := raise s (ctxFault 0x370 kind uLanding who p 0)

/-- A frame of a full session: its tag, its epoch, its place in the window; the frame passes or is discarded.
(DESIGN CHOICE: log entry 5, DEDUCED: log entry 56). -/
def openSeal (s : State) (who : Nat) (f : FrameIn) : State × Bool :=
  match sessOf s who with
  | none => (s, false)
  | some x =>
    let keep (y : Session) : State := { s with sec := { s.sec with sess := tput s.sec.sess who { y with lastValid := s.now } } }
    if ¬ x.keyed then (if f.isSealed then (seqFault s 0x50 who f.port, false) else (keep x, true))
    else if ¬ f.isSealed ∨ ¬ f.tagOk ∨ ¬ (f.epoch = x.rxEpoch ∨ (x.rekeyWait ∧ f.epoch = x.rxEpoch + 1)) then
      (seqFault s 0x50 who f.port, false)
    else
      let high := if f.epoch = x.rxEpoch then x.rxHigh else 0
      let seen := if f.epoch = x.rxEpoch then x.rxSeen else []
      if f.sealSeq = 0 ∨ 2 ^ 48 ≤ f.sealSeq ∨ f.sealSeq + 64 ≤ high ∨ seen.contains f.sealSeq then (seqFault s 0x51 who f.port, false)
      else
        let top := max high f.sealSeq
        (keep { x with rxEpoch := f.epoch, rekeyWait := x.rekeyWait && f.epoch == x.rxEpoch, rxHigh := top,
                       rxSeen := (f.sealSeq :: seen).filter fun v => top < v + 64 }, true)

/-! ### Sequencing (R399, R400) -/

def tsOf (s : State) (k : Nat) : Option TSess := tget s.ring.ts k
def modTs (s : State) (k : Nat) (f : TSess → TSess) : State := { s with ring := { s.ring with ts := tmod s.ring.ts k f } }

/-- The frames that XACK acknowledges are held no longer. -/
def ackFrames (s : State) (k xack : Nat) : State :=
  modTs s k fun x => { x with unacked := x.unacked.filter fun u => 2 ^ 31 ≤ (xack + 2 ^ 32 - u.xseq) % 2 ^ 32 }

/-- What the Landing does with a sequenced frame: a state, a NAK reason, the answering frame, and whether the
transport session or the part's run ends after the acknowledgement. -/
structure Act where
  st : State
  nak : Option Nat
  reply : Option (Nat × List Byte)
  ends : Bool

def done (s : State) : Act := ⟨s, none, none, false⟩
/-- (DEDUCED: log entry 55). -/
def refuse (s : State) (reason : Nat) : Act := ⟨s, some reason, none, false⟩
/-- (DEDUCED: log entry 55). -/
def answer (s : State) (type : Nat) (bs : List Byte) : Act := ⟨s, none, some (type, bs), false⟩

/-- The frame is accepted in order and acted on: XACK is set and acknowledged, or the frame is refused with a NAK
and XACK passes it. (DEDUCED: log entry 55). -/
def settleAct (a : Act) (k xseq : Nat) : State :=
  match a.nak with
  | some r => modTs (sendFrame a.st k 0x04 0 0 false (leBytes 4 xseq ++ leBytes 4 r)) k fun x => { x with xack := xseq }
  | none =>
    let s := modTs a.st k fun x => { x with xack := xseq, last := a.st.now }
    match a.reply with
    | some (t, bs) => sendFrame s k t 0 0 true bs
    | none => sendFrame s k 0x03 0 0 false []

/-! ### Actions of the sequenced types (R359, R367, R397 to R403, R406) -/

def frameWord (f : FrameIn) : Nat := ofLe (f.payload.take 8)
def frameBlock (f : FrameIn) : List Word := bytesWords (f.payload.drop 8)
def wordOp (w : Nat) : Nat := w / 2 ^ 44 % 256
def wordStage (w : Nat) : Nat := w / 2 ^ 40 % 16

/-- A mailbox word of 8 bytes and a parameter block of whole words up to 4 KiB. (DEDUCED: log entry 54). -/
def blockLenOk (f : FrameIn) : Bool := decide (8 ≤ f.payload.length ∧ f.payload.length ≤ 4104 ∧ f.payload.length % 4 = 0)

/-- The word goes to its mailbox, stamped, and its block to the staging entry; a held entry takes only the word
it holds again (R401). (DEDUCED: log entry 54). -/
def putRequest (s : State) (who : Nat) (f : FrameIn) : Act :=
  let w := stampWord who (frameWord f)
  let key := stageKey who f.stage
  let e := tgetD s.nw.stage key default
  if e.held then (if e.word = w then done (mbxWrite s f.mbx w) else refuse s 4)
  else done (mbxWrite { s with nw := { s.nw with stage := tput s.nw.stage key ⟨true, w, frameBlock f⟩ } } f.mbx w)

/-- The words that a provisional binding may write. (DEDUCED: log entry 54). -/
def openWord (s : State) (who w : Nat) : Bool :=
  let op := wordOp w
  if who = 0x300 then
    (op == 0x01 && enrolled s) || (op == 0x05 && !enrolled s) || (op == 0x06 && decide (2 ≤ w % 2048))
  else op == 0x01

/-- The identity that an OPEN of an unbound session names, where it may be bound. (DEDUCED: log entry 54). -/
def openName (s : State) (mbx : Nat) : Option Nat :=
  if mbx < 0x208 ∧ ctxState s mbx = .created ∧ (sessOf s mbx).isNone then some mbx
  else if mbx = 0x208 ∧ (sessOf s 0x300).isNone then some 0x300
  else none

/-- (DEDUCED: log entry 54). -/
def actOpen (s : State) (k : Nat) (x : TSess) (f : FrameIn) : Act :=
  let who := match x.st with
    | .unbound => openName s f.mbx
    | .provisional => if f.mbx = (if x.ident = 0x300 then 0x208 else x.ident) then some x.ident else none
    | .full => none
  match who with
  | none => refuse s 2
  | some who =>
    if s.sec.recovery then refuse s 2
    else if ¬ blockLenOk f then refuse s 8
    else if ¬ openWord s who (frameWord f) ∨ (who = 0x300 ∧ x.st = .provisional) then refuse s 2
    else if f.stage ≠ wordStage (frameWord f) then refuse s 9
    else
      let b := match x.st with
        | .unbound =>
          let y : Session := { (default : Session) with ts := k, used := true, lastValid := s.now }
          modTs { s with sec := { s.sec with sess := tput s.sec.sess who y } } k fun t => { t with st := .provisional, ident := who }
        | _ => s
      let a := putRequest b who f
      if a.nak.isSome then { a with st := s } else a

/-- A mailbox that the bound identity does not write (R269). -/
def mbxDenied (s : State) (who mbx : Nat) : Act := refuse (raise s (ctxFault 0x370 0x43 uLanding who mbx 0)) 3

/-- (DEDUCED: log entry 54). -/
def actReq (s : State) (who : Nat) (f : FrameIn) : Act :=
  if ¬ blockLenOk f then refuse s 8
  else if ¬ (f.mbx < 0x20C ∧ mbxWriter f.mbx = some who) then mbxDenied s who f.mbx
  else if f.stage ≠ wordStage (frameWord f) then refuse s 9
  else putRequest s who f

/-- (DEDUCED: log entry 54). -/
def actDoorbell (s : State) (who : Nat) (f : FrameIn) : Act :=
  if f.payload.length ≠ 8 then refuse s 8
  else if ¬ (0x400 ≤ f.mbx ∧ f.mbx < 0x609 ∧ mbxWriter f.mbx = some who) then mbxDenied s who f.mbx
  else done (mbxWrite s f.mbx (stampWord who (frameWord f)))

/-- A length of 4 to 8,192 bytes, a multiple of 4. -/
def accessLen (n : Nat) : Bool := decide (4 ≤ n ∧ n ≤ 8192 ∧ n % 4 = 0)

/-- A ring access that failed: MEM_FAULT from source 0x370 (R402), after MZ_TAG where a tag conflict refused it (R173).
(DEDUCED: log entry 56). -/
def ringFault (s : State) (who kind : Nat) (e : Nat × Nat) : Act :=
  refuse (raiseMem s (ctxFault 0x370 0x20 uLanding who (kind + 8 * e.2) e.1)) 5

def actMemWrite (s : State) (who : Nat) (f : FrameIn) : Act :=
  let va := frameWord f
  let bs := f.payload.drop 8
  if ¬ accessLen bs.length then refuse s 8
  else match writeAt s who va bs with
    | .ok s => done s
    | .error e => ringFault s who 1 e

def actMemRead (s : State) (who : Nat) (f : FrameIn) : Act :=
  let va := frameWord f
  let n := ofLe (f.payload.drop 8)
  if f.payload.length ≠ 12 ∨ ¬ accessLen n then refuse s 8
  else match readAt s who va n with
    | .ok (s, bs) => answer s 0x1A (leBytes 4 f.xseq ++ bs)
    | .error e => ringFault s who 0 e

/-- Registers from an offset on, in ascending order. -/
def readRegs : Nat → State → Nat → State × List Byte
  | 0, s, _ => (s, [])
  | n + 1, s, off =>
    let r := performRead s off
    let rest := readRegs n r.1 (off + 4)
    (rest.1, leBytes 4 r.2.toNat ++ rest.2)

def writeRegs : List Word → State → Nat → State
  | [], s, _ => s
  | v :: vs, s, off => writeRegs vs (regWrite s off v) (off + 4)

def actRegRead (s : State) (who : Nat) (f : FrameIn) : Act :=
  let n := ofLe (f.payload.drop 4)
  if who ≠ 0x300 then refuse s 6
  else if f.payload.length ≠ 8 ∨ n = 0 ∨ 64 < n then refuse s 8
  else
    let r := readRegs n s (ofLe (f.payload.take 4))
    answer r.1 0x1E (leBytes 4 f.xseq ++ r.2)

def actRegWrite (s : State) (who : Nat) (f : FrameIn) : Act :=
  if who ≠ 0x300 then refuse s 6
  else if f.payload.length < 8 ∨ 260 < f.payload.length ∨ f.payload.length % 4 ≠ 0 then refuse s 8
  else done (writeRegs (bytesWords (f.payload.drop 4)) s (ofLe (f.payload.take 4)))

/-- CLOSE: the session ends after the acknowledgement. -/
def actClose (s : State) (f : FrameIn) : Act :=
  if f.payload ≠ [] then refuse s 8 else ⟨s, none, none, true⟩

/-! Recovery over the ring (R376, R406). -/

/-- (DEDUCED: log entry 57). -/
def recovStatus (s : State) (code : Nat) : Act := answer s 0x43 (leBytes 1 code ++ leBytes 4 s.sec.recovGot)

/-- Another sender owns the recovery. -/
def recovOther (s : State) (k : Nat) : Bool := match s.sec.recovOwner with | some o => o != k | none => false

/-- (DEDUCED: log entry 57). -/
def actRecovBegin (s : State) (k : Nat) (f : FrameIn) : Act :=
  let n := ofLe f.payload
  if f.payload.length ≠ 4 then refuse s 8
  else if recovOther s k then refuse s 7
  else
    let good := decide (1536 ≤ n ∧ n ≤ 2 ^ 24 ∧ (n - 1536) % 4096 = 0)
    recovStatus { s with sec := { s.sec with recovOwner := some k, recovLen := if good then n else 0, recovGot := 0,
                                             recovLast := s.now, recovImage := [] } } (if good then 0 else 3)

/-- (DEDUCED: log entry 57). -/
def actRecovData (s : State) (k : Nat) (f : FrameIn) : Act :=
  let off := ofLe (f.payload.take 4)
  let bs := f.payload.drop 4
  if f.payload.length < 5 ∨ 8196 < f.payload.length then refuse s 8
  else if recovOther s k then refuse s 7
  else
    let s := { s with sec := { s.sec with recovLast := s.now } }
    if s.sec.recovOwner ≠ some k ∨ off ≠ s.sec.recovGot ∨ s.sec.recovLen < off + bs.length then recovStatus s 3
    else recovStatus { s with sec := { s.sec with recovGot := off + bs.length, recovImage := memPutN s.sec.recovImage off bs } } 0

/-- The image is checked before anything is erased; a valid one is programmed. (DEDUCED: log entry 57). -/
def actRecovEnd (s : State) (k : Nat) (ver : Verdict) (f : FrameIn) : Act :=
  if f.payload ≠ [] then refuse s 8
  else if recovOther s k then refuse s 7
  else
    let overs (s : State) : State := { s with sec := { s.sec with recovOwner := none } }
    if s.sec.recovOwner ≠ some k then recovStatus s 3
    else match (if s.sec.recovGot = s.sec.recovLen ∧ s.sec.recovGot ≠ 0 then parseImage s s.sec.recovImage ver else none) with
      | none => recovStatus (overs s) 1
      | some im =>
        let a := recovStatus (overs { s with sec := { s.sec with fw := im } }) 2
        { a with ends := true }

/-! ### A frame from a client (R397 to R399) -/

/-- Types that carry XSEQ. -/
def seqType (t : Nat) : Bool := [0x06, 0x10, 0x11, 0x12, 0x18, 0x19, 0x1C, 0x1D, 0x40, 0x41, 0x42].contains t

/-- Types that a session of each binding may send. (DEDUCED: log entry 54). -/
def typeOk (s : State) (st : TsSt) (t : Nat) : Bool :=
  if 0x40 ≤ t then s.sec.recovery && st == .unbound
  else match st with
    | .full => t != 0x10
    | _ => [0x03, 0x06, 0x10, 0x20].contains t

/-- Types that wake the part from Sleep (R479). -/
def wakeType (t : Nat) : Bool := [0x10, 0x11, 0x12, 0x18, 0x19, 0x1C, 0x1D].contains t

/-- A frame that wakes: from Sleep, or against an entry to Sleep in progress (R479, R480). (DEDUCED: log entry 57). -/
def frameWake (s : State) (t : Nat) : State :=
  if ¬ wakeType t then s
  else if s.pw.st = .sleep then wakeUp s 3
  else if s.pw.entering = some .sleep then cancelEntry s
  else s

/-- (DEDUCED: log entry 54). -/
def act (s : State) (t k : Nat) (x : TSess) (ver : Verdict) (f : FrameIn) : Act :=
  if f.isSealed ∧ x.st ≠ .full then refuse s 2
  else if ¬ typeOk s x.st t then refuse s 2
  else if t = 0x06 then actClose s f
  else if t = 0x10 then actOpen s k x f
  else if t = 0x11 then actReq s x.ident f
  else if t = 0x12 then actDoorbell s x.ident f
  else if t = 0x18 then actMemWrite s x.ident f
  else if t = 0x19 then actMemRead s x.ident f
  else if t = 0x1C then actRegRead s x.ident f
  else if t = 0x1D then actRegWrite s x.ident f
  else if t = 0x40 then actRecovBegin s k f
  else if t = 0x41 then actRecovData s k f
  else actRecovEnd s k ver f

/-- The part resets at the end of a recovery that programmed an image; with a Grave fault standing it waits for a
power cycle (R376, R486). (DEDUCED: log entry 50). -/
def recovReset (s : State) : State :=
  if s.pw.grave ≠ [] then { s with pw := { s.pw with recoveryWait := true } }
  else
    let z := coldFrom s
    { z with pw := { z.pw with cause := 16 }, ring := { z.ring with tx := s.ring.tx } }

/-- A transport session ends after its CLOSE is acknowledged (R398). -/
def closeTs (s : State) (k : Nat) : State :=
  match tsOf s k with
  | none => s
  | some x =>
    match x.st with
    | .full => endSession s x.ident 0
    | .provisional =>
      let s := dissolve s x.ident
      { s with ring := { s.ring with ts := tdel s.ring.ts k } }
    | .unbound => { s with ring := { s.ring with ts := tdel s.ring.ts k } }

/-- A sequenced frame: accepted in order, acknowledged again as a duplicate, or ahead and discarded. -/
def seqFrame (s : State) (t k : Nat) (x : TSess) (ver : Verdict) (f : FrameIn) : State :=
  if f.xseq = nextXseq x.xack then
    let a := act s t k x ver f
    let s := settleAct a k f.xseq
    if ¬ a.ends then s else if t = 0x42 then recovReset s else closeTs s k
  else if (x.xack + 2 ^ 32 - f.xseq) % 2 ^ 32 < 2 ^ 31 then sendFrame s k 0x03 0 0 false []
  else s

/-- An unsequenced frame: ACK and KEEPALIVE, which the part does not answer, and GET_IDENTITY.
(DEDUCED: log entry 55). -/
def plainFrame (s : State) (t k : Nat) (x : TSess) (f : FrameIn) : State :=
  if (f.isSealed ∧ x.st ≠ .full) ∨ ¬ typeOk s x.st t ∨ f.payload ≠ [] then hdrErr s f.port
  else
    let s := modTs s k fun x => { x with last := s.now }
    if t = 0x20 then sendFrame s k 0x21 0 0 false (identityPayload s)
    else s

/-- A SESSION value other than 0 that is free: the r-th of them (R398). -/
def freeTs (s : State) (r : Nat) : Nat :=
  s.ring.ts.foldl (fun v p => if p.1 ≤ v then v + 1 else v) (1 + r % (65535 - s.ring.ts.length))

/-- (DEDUCED: log entry 55). -/
def hello (s : State) (f : FrameIn) : State :=
  if f.ts ≠ 0 ∨ f.isSealed ∨ f.payload.length ≠ 32 then hdrErr s f.port
  else if 1024 ≤ s.ring.ts.length then
    emit s ⟨0, 0x04, 0, 0, 0, 0, false, 0, 0, leBytes 4 0 ++ leBytes 4 1 ++ f.payload, ownPorts s, 2, false, s.now, 64, f.mac⟩
  else
    let k := freeTs s (Config.randomNat s.free)
    let s := draw { s with ring := { s.ring with ts := tput s.ring.ts k ⟨.unbound, 0, 0, 0, [], s.now, f.mac⟩ } }
    sendFrame s k 0x02 0 0 false f.payload

/-- A frame of a type from a client, addressed to the part. -/
def clientFrame (s : State) (t : Nat) (ver : Verdict) (f : FrameIn) : State :=
  let m := macIngress s f.port f.fcsOk f.protect f.icvOk f.pn (exemptType t f.isSealed)
  let s := m.1
  if ¬ m.2 then s
  else if ¬ f.hdrOk then hdrErr s f.port
  else if t = 0x01 then hello s f
  else match tsOf s f.ts with
    | none => hdrErr s f.port
    | some x =>
      let u := if x.st = .full then openSeal s x.ident f else (s, true)
      if ¬ u.2 then u.1
      else
        let s := frameWake (ackFrames u.1 f.ts f.xack) t
        match tsOf s f.ts with
        | none => s
        | some x => sealDue (if seqType t then seqFrame s t f.ts x ver f else plainFrame s t f.ts x f)

/-! ### Transit, gPTP, MKA (R385 to R393) -/

/-- A frame for another node leaves by the other port with HOPS decremented, or is discarded and counted.
(DEDUCED: log entry 57). -/
def transit (s : State) (f : TransitIn) : State :=
  let m := macIngress s f.port f.fcsOk f.protect f.icvOk f.pn f.exempt
  let s := m.1
  let o := 1 - f.port
  if ¬ m.2 then s
  else if ¬ f.hdrOk then hdrErr s f.port
  else if f.hops = 0 ∨ f.full ∨ ¬ (portOf s o).link then modPort s o fun x => { x with fwdDrop := satInc 0xFFFFFFFF x.fwdDrop }
  else emit s ⟨0, 0, 0, 0, 0, 0, false, 0, 0, f.bytes, 2 ^ o, if f.proxy then 3 else 2, false, s.now, f.hops - 1, f.dest⟩

/-- A Sync of the grandmaster, with the offset measured: before the house pipeline first starts the part steps its
time, after it the part slews (R392, R393). (DEDUCED: log entry 58, DESIGN CHOICE: log entry 85). -/
def gptpSync (s : State) (p : Nat) (offset : Int) (hops interval master : Nat) : State :=
  if ¬ landingOn s p ∨ s.pw.phase < 2 then s
  else
    let slew := s.hp.running || s.hp.freeRun || s.pw.houseMs != 0
    let s := { s with ring := { s.ring with gSync := true, gHold := false, gPort := p, gHops := min hops 63, gOffset := offset,
                                            gInterval := interval, gMaster := master, gSlew := if slew then offset * 100000 else 0 } }
    let s := if slew then s else { s with now := ((s.now : Int) - offset).toNat }
    autoStart { s with ring := { s.ring with gLastSync := s.now } }

/-- Three intervals without Sync: holdover (R393). (DEDUCED: log entry 58). -/
def syncTimeout (s : State) : State :=
  if ¬ s.ring.gSync then s
  else raise { s with ring := { s.ring with gSync := false, gHold := true } }
    (plainFault 0x370 0x53 (uPort s.ring.gPort) s.ring.gPort 0)

/-- An MKA frame: the secure channel of the port comes up or goes, a new SAK starts its packet numbers again
(R389, R390); a packet number at 0xC000_0000_0000_0000 asks for one.
(DEDUCED: log entry 58, DESIGN CHOICE: log entry 85). -/
def mka (s : State) (p : Nat) (up sak : Bool) : State :=
  if ¬ landingOn s p ∨ s.pw.phase < 2 ∨ (portOf s p).cak = [] then s
  else modPort s p fun x =>
    let x := { x with scUp := up, scOnce := x.scOnce || up }
    if sak ∨ 0xC000000000000000 ≤ x.pnTx then { x with sakNo := x.sakNo + 1, pnTx := 0, pnRx := 0 } else x

/-! ### Links, PROXY frames, resends, timeouts -/

/-- Coded tiles of the feeds whose sink is the ring leave in PROXY frames on their port while its link is up; else
the coded ring holds them (R386, R387, R404). (DESIGN CHOICE: log entry 59). -/
def sendProxies (s : State) : State :=
  s.cm.feeds.foldl (fun s p =>
    if p.2.sink = 0 ∧ p.2.ring ≠ [] ∧ landingOn s p.2.port then
      let s := p.2.ring.foldl (fun s bs =>
        emit s ⟨0, 0x30, 0, 0, 0, 0, false, 0, 0, bs, 2 ^ p.2.port, 3, false, s.now, 64, p.2.dest⟩) s
      modFeedCode s p.1 fun f => { f with ring := [] }
    else s) s

/-- A feed tile's coding completes; a tile whose sink is the ring leaves, its block CRCs verified at egress. -/
def tileCoded (s : State) (k : Nat) (chkOk crcOk : Bool) : State :=
  let had := ((feedCodeOf s k).map fun f => f.sink == 0 && f.coding.isSome).getD false
  let s := feedTileCoded s k chkOk
  let s := if had ∧ ¬ crcOk then raise s (plainFault 0x370 0x35 uLanding 0 0) else s
  sendProxies s

/-- Link up: the port forwards; MACsec starts anew (R384). -/
def linkUp (s : State) (p : Nat) (master : Bool) (sqi : Nat) : State :=
  if ¬ s.pw.started ∨ s.pw.pins.bypHold ≠ .high ∨ ¬ (s.pw.st = .run ∨ s.pw.st = .idle ∨ s.pw.st = .sleep) then s
  else
    let s := modPort s p fun x => { x with link := true, master := master, sqi := sqi % 8, scUp := false, scOnce := false, tc10 := 0 }
    let ms := sat 16383 (max 1 ((s.now - s.pw.startAt) / 1000000))
    let s : State := { s with pw := { s.pw with linkMs := if s.pw.linkMs = 0 then ms else s.pw.linkMs } }
    sendProxies s

def linkDown (s : State) (p : Nat) : State :=
  if ¬ (portOf s p).link then s
  else raise (modPort s p fun x => { x with link := false, scUp := false, downs := satInc 0xFFFF x.downs })
    (plainFault 0x370 0x54 (uPort p) p 0)

/-- Send a held frame again, sealed afresh (R399). -/
def resend (s : State) (x : TSess) (u : TxFrame) : State × TxFrame :=
  let sl := if x.st = .full then sealNext s x.ident else (false, 0, 0)
  let f : TxFrame := { u with xack := x.xack, sealed := sl.1, epoch := sl.2.1, sealSeq := sl.2.2, ports := ownPorts s,
                              retx := true, sentAt := s.now }
  let s := emit s f
  (if x.st = .full then bumpSeal s x.ident else s, f)

def resendAll (s : State) (k : Nat) : State :=
  match tsOf s k with
  | none => s
  | some x =>
    let r := x.unacked.foldl (fun (a : State × List TxFrame) u => let b := resend a.1 x u; (b.1, a.2 ++ [b.2])) (s, [])
    sealDue (modTs r.1 k fun y => { y with unacked := r.2 })

/-- An unbound or provisional session with no accepted frame for 10 s is closed (R398). (DEDUCED: log entry 87). -/
def tsIdle (s : State) (k : Nat) : State :=
  match tsOf s k with
  | some x => if x.st = .full then s else closeTs s k
  | none => s

/-- 2 s without a valid frame (R366): the keep-alive clock stands still while the Landing is off.
(DEDUCED: log entry 87). -/
def keepaliveExpiry (s : State) (who : Nat) : State :=
  if ¬ (bound s who ∧ s.pw.started ∧ (s.pw.st = .run ∨ s.pw.st = .idle ∨ s.pw.st = .sleep)) then s else endSession s who 1

def recovTimeout (s : State) : State := { s with sec := { s.sec with recovOwner := none } }

/-- A partner's TC10 sleep request: acknowledged only while the part enters Deep Sleep or sleeps in it (R394). -/
def tc10Sleep (s : State) (p : Nat) : State :=
  if s.pw.entering = some .deepSleep ∨ (s.pw.st = .deepSleep ∧ ¬ s.ring.dsBypass) then
    modPort s p fun x => { x with tc10 := 2, link := false }
  else s

/-- A TC10 wake pattern: it wakes from Sleep and, without bypass, from Deep Sleep; each sleeping link gets the
pattern (R394, R479). (DEDUCED: log entry 57). -/
def tc10Wake (s : State) (p : Nat) : State :=
  if 2 ≤ p then s
  else if s.pw.entering.isSome then cancelEntry s
  else if s.pw.st = .sleep ∨ (s.pw.st = .deepSleep ∧ ¬ s.ring.dsBypass) then
    let s := wakeUp s 2
    { s with ring := { s.ring with ports := s.ring.ports.map fun x => if x.tc10 = 0 then x else { x with tc10 := 3 } } }
  else s

/-! ### Meanings -/

def noVerdict : Verdict := ⟨false, false, false, false⟩

def execHello (f : FrameIn) (s : State) : Out := .next (clientFrame s 0x01 noVerdict f)
def execAck (f : FrameIn) (s : State) : Out := .next (clientFrame s 0x03 noVerdict f)
def execKeepalive (f : FrameIn) (s : State) : Out := .next (clientFrame s 0x05 noVerdict f)
def execClose (f : FrameIn) (s : State) : Out := .next (clientFrame s 0x06 noVerdict f)
def execOpen (f : FrameIn) (s : State) : Out := .next (clientFrame s 0x10 noVerdict f)
def execReq (f : FrameIn) (s : State) : Out := .next (clientFrame s 0x11 noVerdict f)
def execDoorbell (f : FrameIn) (s : State) : Out := .next (clientFrame s 0x12 noVerdict f)
def execMemWrite (f : FrameIn) (s : State) : Out := .next (clientFrame s 0x18 noVerdict f)
def execMemRead (f : FrameIn) (s : State) : Out := .next (clientFrame s 0x19 noVerdict f)
def execRegRead (f : FrameIn) (s : State) : Out := .next (clientFrame s 0x1C noVerdict f)
def execRegWrite (f : FrameIn) (s : State) : Out := .next (clientFrame s 0x1D noVerdict f)
def execGetIdentity (f : FrameIn) (s : State) : Out := .next (clientFrame s 0x20 noVerdict f)
def execRecovBegin (f : FrameIn) (s : State) : Out := .next (clientFrame s 0x40 noVerdict f)
def execRecovData (f : FrameIn) (s : State) : Out := .next (clientFrame s 0x41 noVerdict f)
def execRecovEnd (ver : Verdict) (f : FrameIn) (s : State) : Out := .next (clientFrame s 0x42 ver f)
def execFeedTileCoded (feed : Nat) (chkOk crcOk : Bool) (s : State) : Out := .next (tileCoded s feed chkOk crcOk)
def execKeepaliveExpiry (ident : Nat) (s : State) : Out := .next (keepaliveExpiry s ident)
def execLinkUp (port : Nat) (master : Bool) (sqi : Nat) (s : State) : Out := .next (linkUp s port master sqi)
def execRingLinkDown (port : Nat) (s : State) : Out := .next (linkDown s port)
def execGptpFrame (port : Nat) (offset : Int) (hops interval master : Nat) (s : State) : Out :=
  .next (gptpSync s port offset hops interval master)
def execMkaFrame (port : Nat) (up sak : Bool) (s : State) : Out := .next (mka s port up sak)
def execTransitFrame (f : TransitIn) (s : State) : Out := .next (transit s f)
def execSyncTimeout (s : State) : Out := .next (syncTimeout s)
def execXseqResend (ts : Nat) (s : State) : Out := .next (resendAll s ts)
def execTransportIdleTimeout (ts : Nat) (s : State) : Out := .next (tsIdle s ts)
def execRecovOwnerTimeout (s : State) : Out := .next (recovTimeout s)
def execTc10SleepRequest (port : Nat) (s : State) : Out := .next (tc10Sleep s port)
def execTc10Wake (port : Nat) (s : State) : Out := .next (tc10Wake s port)
def execOutboundSend (mbx : Nat) (s : State) : Out :=
  .next (if 0x800 ≤ mbx ∧ mbx ≤ 0xA0C then sealDue (outSend s mbx) else s)

end Sys2Proof.Machine
end

