-- ==== Sys2Proof/Machine/Outbound.lean ====
section
/-! DEFINITION. The Outbound Port: modes, device windows, the device owner, XFER, device requests and
interrupts, the NVMe host (spec/13, R407 to R413). -/

namespace Sys2Proof.Machine
open Sys2Proof

/-! ### Mode, windows, owner (R408, R409) -/

/-- The port enters a mode: OFF holds the device in reset with the reference clock off (R407, R487).
(DEDUCED: log entry 60). -/
def setObMode (s : State) (m owner : Nat) : State :=
  let keep := s.ob.link && s.ob.mode == m && m != 0
  { s with
    ob := { s.ob with mode := m, owner := if m = 2 then owner else 0, accepted := false, link := keep,
                      rate := if keep then s.ob.rate else 0, width := if keep then s.ob.width else 0 },
    pw := { s.pw with pins := { s.pw.pins with obPerstN := if m = 0 then .low else .high, pcieRefClk := m != 0 } } }

/-- An XFER, a recording or an NVMe command is outstanding. (DEDUCED: log entry 60). -/
def obBusy (s : State) : Bool := s.ob.xfers != [] || s.ob.sinks != [] || s.ob.cmds != []

/-- A context that lives: CREATED or ACTIVE. (DEDUCED: log entry 60). -/
def ctxLives (s : State) (c : Nat) : Bool := ctxState s c == .created || ctxState s c == .active

/-- (DEDUCED: log entry 60). -/
def bodyObConfig : Body := fun _ r s =>
  let m := bits (wd r.block 1) 1 0
  let o := bits (wd r.block 1) 27 16
  if deepEntry s ∨ obBusy s then errRes s cBUSY
  else if m = 3 ∨ (m = 2 ∧ ¬ isCtx o) then errRes s cRANGE
  else if m = 2 ∧ ¬ ctxLives s o then errRes s cBADSTATE
  else okRes (setObMode s m o) []

/-- (DEDUCED: log entry 60). -/
def bodyObWindowGrant : Body := fun _ r s =>
  let c := bits (wd r.block 1) 11 0
  let bar := bits (wd r.block 2) 2 0
  let off := dwd r.block 3
  let n := dwd r.block 5
  if s.ob.mode ≠ 2 then errRes s cBADSTATE
  else if ¬ isCtx c ∨ n = 0 ∨ off % 65536 ≠ 0 ∨ n % 65536 ≠ 0 then errRes s cRANGE
  else if ¬ ctxLives s c then errRes s cBADSTATE
  else if s.ob.windows.any fun w => w.bar == bar && decide (w.off < off + n ∧ off < w.off + w.len) then errRes s cRANGE
  else if ¬ objQuotaOk s c 0 then errRes s cQUOTA
  else match nextObjSlot s with
    | none => errRes s cNOSLOT
    | some slot =>
      let o : Obj := ⟨nextGen s slot, .live, c, n, false, 2, [], [], bar, off⟩
      let s := newObj s slot o
      let s := { s with ob := { s.ob with windows := s.ob.windows ++ [⟨c, slot, bar, off, n⟩] } }
      okRes (sendEvent s c 0x87 c (handleOf slot o)) [BitVec.ofNat 32 (handleOf slot o)]

def bodyObOwnerAccept : Body := fun who r s =>
  if s.ob.mode ≠ 2 ∨ s.ob.owner ≠ who then errRes s cBADSTATE
  else okRes { s with ob := { s.ob with accepted := bit (wd r.block 1) 0 } } []

/-! ### XFER (R410) -/

def setXfer (s : State) (r : CmdRef) (f : Xfer → Xfer) : State :=
  { s with ob := { s.ob with xfers := s.ob.xfers.map fun x => if x.ref = r then f x else x } }

def dropXfer (s : State) (r : CmdRef) : State := { s with ob := { s.ob with xfers := s.ob.xfers.filter fun x => x.ref != r } }

/-- An XFER ends with a code and the bytes moved. -/
def endXfer (s : State) (x : Xfer) (code : Nat) : State :=
  finishCmd (dropXfer s x.ref) x.ref (BitVec.ofNat 32 code) (BitVec.ofNat 32 x.moved)

/-- An XFER ends at a refused access, or at a read that an uncorrectable error ended. -/
def faultXfer (s : State) (x : Xfer) (kind cause va : Nat) : State :=
  endXfer (raiseMem s (memFault 0x370 uOutbound x.ref kind cause va)) x (memCode cause)

/-- Bytes of the next transfer: up to 4,096, within one 4 KiB page at each end. (DEDUCED: log entry 61). -/
def xferPart (x : Xfer) : Nat :=
  min (x.bytes - x.moved) (min (4096 - (x.src + x.moved) % 4096) (4096 - (x.dst + x.moved) % 4096))

/-- Move memory to the window as posted writes in ascending order, to the end of the XFER.
(DESIGN CHOICE: log entry 62). -/
def xferOut : Nat → State → Xfer → State
  | 0, s, x => endXfer s x cOK
  | fuel + 1, s, x =>
    if x.bytes ≤ x.moved then endXfer s x cOK
    else
      let n := xferPart x
      match readAt s x.ref.ctx (x.src + x.moved) n, translate s x.ref.ctx (x.dst + x.moved) 2 with
      | .error e, _ => faultXfer s x 0 e.2 e.1
      | _, .error c => faultXfer s x 1 c (x.dst + x.moved)
      | _, .ok (.mem _ _ _) => endXfer s x cRANGE
      | .ok (s, bs), .ok (.window bar off) =>
        xferOut fuel { s with ob := { s.ob with posted := (bar, off, bs) :: s.ob.posted } } { x with moved := x.moved + n }

/-- Issue the next read of the window, or end the XFER. (DEDUCED: log entry 61). -/
def xferNext (s : State) (x : Xfer) : State :=
  if x.bytes ≤ x.moved then endXfer s x cOK
  else match translate s x.ref.ctx (x.src + x.moved) 1 with
    | .error c => faultXfer s x 0 c (x.src + x.moved)
    | .ok (.mem _ _ _) => endXfer s x cRANGE
    | .ok (.window bar off) =>
      let s := askDevice s bar off (xferPart x)
      let y := { x with reads := [(x.moved, xferPart x, s.now)] }
      { dropXfer s x.ref with ob := { s.ob with xfers := (s.ob.xfers.filter fun z => z.ref != x.ref) ++ [y] } }

/-- The port takes an XFER: one end through a WINDOW mapping, the other through an ordinary one.
(DEDUCED: log entry 61). -/
def startXfer (s : State) (ref : CmdRef) (src dst bytes : Nat) : State :=
  let x : Xfer := ⟨ref, src, dst, bytes, 0, [], false⟩
  if s.ob.mode ≠ 2 then endXfer s x cWRONGMODE
  else if ¬ s.ob.link then endXfer s x cLINKDOWN
  else if bytes % 4 ≠ 0 then endXfer s x cRANGE
  else if bytes = 0 then endXfer s x cOK
  else match translate s ref.ctx src 1, translate s ref.ctx dst 2 with
    | .error c, _ => faultXfer s x 0 c src
    | _, .error c => faultXfer s x 1 c dst
    | .ok (.window _ _), .ok (.mem _ _ _) => xferNext s x
    | .ok (.mem _ _ _), .ok (.window _ _) => xferOut (bytes / 4 + 1) s x
    | _, _ => endXfer s x cRANGE

/-- (DEDUCED: log entry 61). -/
def cplError (s : State) : State := { s with ob := { s.ob with cplErr := satInc 0xFFFF s.ob.cplErr } }

/-- The XFER that waits for a read. (DEDUCED: log entry 61). -/
def readOf (s : State) (r : CmdRef) (off : Nat) : Option Xfer :=
  s.ob.xfers.find? fun x => x.ref == r && x.reads.any fun q => q.1 == off

/-- A read of a stopped XFER is over: its completion is discarded. -/
def dropRead (s : State) (x : Xfer) (off : Nat) : State :=
  let y := { x with reads := x.reads.filter fun q => q.1 != off }
  if y.reads = [] then dropXfer s x.ref else setXfer s x.ref fun _ => y

/-- A shader load in flight ends without data: it returns 0xFFFF_FFFF and raises OB_CPL. -/
def loadFails (s : State) (num ctx code : Nat) : State :=
  raise (loadDone s num 0xFFFFFFFF) (ctxFault 0x370 0x55 uOutbound ctx code 0)

/-- A completion without data, or none within 10 ms: the XFER ends, or a shader load returns 0xFFFF_FFFF; that of an
abandoned load is discarded (R159). (DEDUCED: log entry 61). -/
def readFails (s : State) (r : CmdRef) (off code : Nat) : State :=
  match readOf s r off with
  | some x => let s := cplError s; if x.stopped then dropRead s x off else endXfer s x code
  | none => if loadAt s off then loadFails (cplError s) off r.ctx code else s

/-- A read completion: delivered in order, or discarded after an abort; of a shader load, whose read's number `off` is, the
value is delivered. (DEDUCED: log entry 61). -/
def readDone (s : State) (r : CmdRef) (off : Nat) (good : Bool) (data : List Byte) : State :=
  if ¬ good then readFails s r off cCPLERROR
  else match readOf s r off with
    | none => if loadAt s off then loadDone s off (BitVec.ofNat 32 (ofLe (data.take 4))) else s
    | some x =>
      if x.stopped then dropRead s x off
      else
        let n := xferPart x
        let bs := (data ++ List.replicate n 0).take n
        match writeAt s r.ctx (x.dst + x.moved) bs with
        | .error e => faultXfer s x 1 e.2 e.1
        | .ok s => xferNext s { x with moved := x.moved + n, reads := [] }

/-- Abort under R320: the port stops at the next TLP boundary and waits for the reads already issued. -/
def abortXfers (s : State) (pick : CmdRef → Bool) : State :=
  let xs := s.ob.xfers.map fun x => if pick x.ref then { x with stopped := true } else x
  { s with ob := { s.ob with xfers := xs.filter fun x => !(x.stopped && x.reads == []) } }

/-! ### The device's own requests (R409) -/

/-- A completion to the device. (DESIGN CHOICE: log entry 62). -/
def toDevice (s : State) (good : Bool) (bs : List Byte) : State := { s with ob := { s.ob with replies := (good, bs) :: s.ob.replies } }

/-- A memory request of the device, in the device owner's address space. -/
def deviceMem (s : State) (addr n : Nat) (write : Bool) (data : List Byte) : State :=
  if s.ob.mode ≠ 2 ∨ ¬ s.ob.link then s
  else if ¬ s.ob.accepted then toDevice s false []
  else
    let o := s.ob.owner
    let refused (kind : Nat) (e : Nat × Nat) : State :=
      toDevice (raiseMem s (memFault 0x370 uOutbound (noCmd o) kind e.2 e.1)) false []
    if write then
      match writeAt s o addr data with
      | .ok s => toDevice s true []
      | .error e => refused 1 e
    else
      match readAt s o addr n with
      | .ok (s, bs) => toDevice s true bs
      | .error e => refused 0 e

/-- An MSI or MSI-X write of the device reaches its owner. (DEDUCED: log entry 60). -/
def deviceMsi (s : State) (v : Nat) : State :=
  if s.ob.mode = 2 ∧ s.ob.link then sendEvent s s.ob.owner 0x88 s.ob.owner v else s

/-! ### The link -/

def obLinkUp (s : State) (rate width : Nat) : State :=
  if s.ob.mode = 0 then s else { s with ob := { s.ob with link := true, rate := min 4 rate, width := min 8 width } }

/-- Shader loads in flight: the read's number and the context. -/
def loadsOut (s : State) : List (Nat × Nat) :=
  s.sh.cores.flatMap fun c => if c.kind = 0 then [] else c.blocks.flatMap fun b => b.loads.map fun x => (x.num, c.ctx)

/-- Every XFER ends with LINK_DOWN, and so does every shader load in flight; a stopped XFER, whose completions were to be
discarded, is quiescent. -/
def linkLost (s : State) : State :=
  let s := (loadsOut s).foldl (fun s x => loadFails s x.1 x.2 cLINKDOWN) s
  s.ob.xfers.foldl (fun s x => if x.stopped then dropXfer s x.ref else endXfer s x cLINKDOWN) s

def obLinkDown (s : State) : State :=
  if ¬ s.ob.link then s
  else linkLost { s with ob := { s.ob with link := false, rate := 0, width := 0, linkErr := satInc 0xFF s.ob.linkErr } }

/-- Teardown of the device owner: OB_PERST_N low, the port OFF, and what other contexts still move ends with the link
(R409). (DEDUCED: log entry 60). -/
def obDropOwner (s : State) (ctx : Nat) : State := if s.ob.mode = 2 ∧ s.ob.owner = ctx then linkLost (setObMode s 0 0) else s

/-! ### The NVMe host (R412, R413) -/

/-- LBA size in bytes of a namespace. (DESIGN CHOICE: log entry 62). -/
def lbaSize (ns : Nat) : Nat := if Config.lbaBig ns then 4096 else 512

/-- Bytes of an NVMe write of a feed. (DESIGN CHOICE: log entry 62). -/
def feedWrite : Nat := 131072

/-- Take `n` bytes from the front of a coded ring; none while it holds fewer. -/
def takeRing : List (List Byte) → Nat → Option (List Byte × List (List Byte))
  | ring, 0 => some ([], ring)
  | [], _ + 1 => none
  | t :: r, n + 1 =>
    if t.length ≤ n + 1 then (takeRing r (n + 1 - t.length)).map fun p => (t ++ p.1, p.2)
    else some (t.take (n + 1), t.drop (n + 1) :: r)

def modSink (s : State) (k : Nat) (f : NvmeSink → NvmeSink) : State :=
  { s with ob := { s.ob with sinks := s.ob.sinks.map fun x => if x.feed = k then f x else x } }

/-- A write's pieces in an extent of `count` LBAs from `lba` on: sequential from `pos`, wrapping at the end.
(DESIGN CHOICE: log entry 62). -/
def extentParts (ns lba count size : Nat) : Nat → Nat → List Byte → List (Nat × Nat × List Byte)
  | 0, _, _ => []
  | fuel + 1, pos, bs =>
    if bs = [] then []
    else (ns, lba + pos, bs.take ((count - pos) * size)) :: extentParts ns lba count size fuel 0 (bs.drop ((count - pos) * size))

/-- A 128 KiB write of a feed's coded ring goes to its extent, wrapping at the end. (DESIGN CHOICE: log entry 62). -/
def nvmeFeedWrite (s : State) (k : Nat) : State :=
  match s.ob.sinks.find? (fun x => x.feed == k), feedCodeOf s k with
  | some x, some f =>
    if s.ob.mode ≠ 1 ∨ ¬ s.ob.link ∨ x.paused then s
    else match takeRing f.ring feedWrite with
      | none => s
      | some (bs, rest) =>
        let tag := s.ob.nextTag
        let step := feedWrite / lbaSize x.ns
        let s := modFeedCode s k fun f => { f with ring := rest }
        let s := modSink s k fun y => { y with pos := (y.pos + step) % max 1 y.count, writes := y.writes ++ [(tag, false)] }
        let out := (extentParts x.ns x.lba x.count (lbaSize x.ns) (step + 1) x.pos bs).reverse
        { s with ob := { s.ob with nextTag := tag + 1, nvmeOut := out ++ s.ob.nvmeOut } }
  | _, _ => s

/-- The checks of an NVME_READ: the mode, at most 4 MiB, the destination. (DESIGN CHOICE: log entry 62). -/
def nvmeCheck (s : State) (r : ReqIn) : Option Nat :=
  let n := (wd r.block 4).toNat * lbaSize (wd r.block 1).toNat
  if s.ob.mode ≠ 1 then some cBADSTATE
  else if n = 0 ∨ 4 * 2 ^ 20 < n then some cRANGE
  else if ¬ s.ob.link then some cLINKDOWN
  else none

/-- The device's data for an NVME_READ arrives in the operator driver's memory. -/
def nvmeData (s : State) (r : ReqIn) (data : List Byte) : State × Nat :=
  let va := dwd r.block 5
  match writeAt s 0x300 va data with
  | .ok s => (s, cOK)
  | .error e =>
    (raiseMem s (memFault 0x370 uOutbound (noCmd 0x300) 1 e.2 e.1), cMEMFAULT)

def bodyNvmeRead (good : Bool) (data : List Byte) : Body := fun _ r s =>
  match nvmeCheck s r with
  | some c => errRes s c
  | none =>
    if ¬ good then errRes s cCPLERROR
    else
      let d := nvmeData s r data
      if d.2 = cOK then okRes d.1 [] else errRes d.1 d.2

/-- The flight that waits for a tag. -/
def tagFlight (tag : Nat) (f : Flight) : Bool := f.op == 0x42 && f.wait == .engine && f.code == tag

/-- A flight's command is over with a status. -/
def endCmd (s : State) (tag status : Nat) : State :=
  { s with ob := { s.ob with cmds := s.ob.cmds.filter fun c => c.1 != tag },
           nw := { s.nw with flights := s.nw.flights.map fun f => if tagFlight tag f then { f with wait := .ready, code := status } else f } }

/-- A feed's write fails: retried once, then the feed's writes pause and OB_NVME is raised. -/
def writeFails (s : State) (tag : Nat) : State :=
  match s.ob.sinks.find? fun x => x.writes.any fun w => w.1 == tag with
  | none => s
  | some x =>
    if x.writes.contains (tag, false) then
      modSink s x.feed fun y => { y with writes := y.writes.map fun w => if w.1 = tag then (tag, true) else w }
    else
      raise (modSink s x.feed fun y => { y with writes := y.writes.filter (fun w => w.1 != tag), paused := true })
        (plainFault 0x370 0x56 uOutbound 0 0)

/-- The controller is reset: OB_NVME is raised, paused feeds write again. -/
def controllerReset (s : State) : State :=
  raise { s with ob := { s.ob with nvmeErr := satInc 0xFF s.ob.nvmeErr, sinks := s.ob.sinks.map fun x => { x with paused := false } } }
    (plainFault 0x370 0x56 uOutbound 0 0)

/-- An NVMe command completes; `status` 0 good, 1 failed, 2 failed with fatal controller status. -/
def nvmeDone (s : State) (tag status : Nat) (data : List Byte) : State :=
  if s.ob.mode ≠ 1 then s
  else
    let s :=
      if s.ob.cmds.any fun c => c.1 == tag then
        match s.nw.flights.find? (tagFlight tag) with
        | none => endCmd s tag cOK
        | some f =>
          if status ≠ 0 then endCmd s tag cCPLERROR
          else let d := nvmeData s f.r data; endCmd d.1 tag d.2
      else if status = 0 then
        { s with ob := { s.ob with sinks := s.ob.sinks.map fun x => { x with writes := x.writes.filter fun w => w.1 != tag } } }
      else writeFails s tag
    if status = 2 then controllerReset s else s

/-- A command not completed within 2 s is aborted and the controller is reset. -/
def nvmeTimeout (s : State) (tag : Nat) : State :=
  if s.ob.cmds.any fun c => c.1 == tag then controllerReset (endCmd s tag cCPLTIMEOUT)
  else if s.ob.sinks.any fun x => x.writes.any fun w => w.1 == tag then controllerReset (writeFails s tag)
  else s

/-! ### Meanings -/

def obLock (_ : Nat) (_ : ReqIn) (_ : State) : List Lock := [.outbound]

def specObConfig : ReqSpec := ⟨0x40, fromO, true, len 8, [0xF000FFFC], obLock, .ready, bodyObConfig⟩
def specObWindowGrant : ReqSpec := ⟨0x41, fromO, false, len 28, [0xFFFFF000, 0xFFFFFFF8], obLock, .ready, bodyObWindowGrant⟩
def specNvmeRead (good : Bool) (data : List Byte) : ReqSpec :=
  ⟨0x42, fromO, true, len 28, [], noLocks, .engine, bodyNvmeRead good data⟩
def specObOwnerAccept : ReqSpec := ⟨0x4A, fromC, false, len 8, [0xFFFFFFFE], obLock, .ready, bodyObOwnerAccept⟩

def execObConfig (r : ReqIn) (s : State) : Out := .next (runRequest specObConfig r s)
def execObWindowGrant (r : ReqIn) (s : State) : Out := .next (runRequest specObWindowGrant r s)
def execNvmeRead (r : ReqIn) (good : Bool) (data : List Byte) (s : State) : Out := .next (runRequest (specNvmeRead good data) r s)
def execObOwnerAccept (r : ReqIn) (s : State) : Out := .next (runRequest specObOwnerAccept r s)
def execDeviceMemRequest (addr n : Nat) (write : Bool) (data : List Byte) (s : State) : Out := .next (deviceMem s addr n write data)
def execDeviceMsi (vector : Nat) (s : State) : Out := .next (deviceMsi s vector)
def execReadCompletion (r : CmdRef) (off : Nat) (good : Bool) (data : List Byte) (s : State) : Out := .next (readDone s r off good data)
def execCplTimeout (r : CmdRef) (off : Nat) (s : State) : Out := .next (readFails s r off cCPLTIMEOUT)
def execObLinkDown (s : State) : Out := .next (obLinkDown s)
def execObLinkUp (rate width : Nat) (s : State) : Out := .next (obLinkUp s rate width)
def execNvmeCompletion (tag status : Nat) (data : List Byte) (s : State) : Out := .next (nvmeDone s tag status data)
def execNvmeTimeout (tag : Nat) (s : State) : Out := .next (nvmeTimeout s tag)
def execNvmeFeedWrite (feed : Nat) (s : State) : Out := .next (nvmeFeedWrite s feed)

end Sys2Proof.Machine
end

