-- ==== Sys2Proof/Machine/Submit.lean ====
section
/-! DEFINITION. The commands of a queue at their engines, and what the Concourse does with them: doorbells,
dispatch with order, indirection and back pressure, completion, wait limits, quiescence
(spec/10, R303 to R312, R317, R320; spec/03, R66, R96 to R98). -/

namespace Sys2Proof.Machine
open Sys2Proof

/-! ### Commands (R307) -/

/-- A command of R307 with its fields; the fields of `ind` are those its IND bits replace. -/
inductive Cmd where
  | mxList (hall : Nat) (load : Bool) (list cw : Nat)
  | launch (va : Nat) (ind : List (Option Nat))
  | pass (va : Nat) (ind : List (Option Nat))
  | present (va : Nat)
  | encode (va : Nat)
  | decode (va : Nat)
  | xfer (src dst bytes : Nat) (ind : List (Option Nat))
  | seqStep (batch list cw : Nat)
  | seqJoin (batch seq : Nat)
  | seqLeave (batch seq : Nat)
  | fenceWait (fence : Nat) (ignoreErr : Bool) (value : Nat)
  | fenceSignal (fence value : Nat)
deriving DecidableEq, Repr

def cmdOp : Cmd → Nat
  | .mxList _ _ _ _ => 0x01 | .launch _ _ => 0x02 | .pass _ _ => 0x03 | .present _ => 0x04 | .encode _ => 0x05
  | .decode _ => 0x06 | .xfer _ _ _ _ => 0x07 | .seqStep _ _ _ => 0x08 | .seqJoin _ _ => 0x09 | .seqLeave _ _ => 0x0A
  | .fenceWait _ _ _ => 0x10 | .fenceSignal _ _ => 0x11

/-- The 48-bit address in words i and i + 1. -/
def cmdVa (ws : List Word) (i : Nat) : Nat := dwd ws i % 2 ^ 48

/-- The command that good words spell, with the values its indirection words gave (R307, R311). -/
def cmdOfWords (ws : List Word) (ind : List (Option Nat)) : Cmd :=
  let w1 := wd ws 1
  match bits (wd ws 0) 31 24 with
  | 0x01 => .mxList (bits w1 1 0) (bit w1 2) (cmdVa ws 2) (cmdVa ws 4)
  | 0x02 => .launch (cmdVa ws 1) ind
  | 0x03 => .pass (cmdVa ws 1) ind
  | 0x04 => .present (cmdVa ws 1)
  | 0x05 => .encode (cmdVa ws 1)
  | 0x06 => .decode (cmdVa ws 1)
  | 0x07 => .xfer (cmdVa ws 1) (cmdVa ws 3) (wd ws 5).toNat ind
  | 0x08 => .seqStep (bits w1 5 0) (cmdVa ws 2) (cmdVa ws 4)
  | 0x09 => .seqJoin (bits w1 5 0) (bits w1 25 16)
  | 0x0A => .seqLeave (bits w1 5 0) (bits w1 25 16)
  | 0x10 => .fenceWait (bits w1 13 0) (bit w1 14) (dwd ws 2)
  | _ => .fenceSignal (bits w1 13 0) (dwd ws 2)

/-- Where a command stands: queue, entry count, command index, AFTER, COMP_VA of its buffer. -/
structure CmdPos where
  queue : Nat
  entry : Nat
  cmd : Nat
  after : Bool
  compVa : Nat

/-- The unit that runs a command; a sequence command runs on its batch's Hall, and one that names no batch of
the context is completed by the Concourse. -/
def cmdUnit (s : State) (ctx : Nat) (c : Cmd) : Nat :=
  let batchUnit (b : Nat) : Nat := match batchOf s b with
    | some x => if x.ctx = ctx then x.hall else uConcourse
    | none => uConcourse
  match c with
  | .mxList h _ _ _ => h
  | .seqStep b _ _ => batchUnit b
  | .seqJoin b _ => batchUnit b
  | .seqLeave b _ => batchUnit b
  | c => engineOf (cmdOp c) 0

/-- What the indirection words make of a command before it reaches its engine: RANGE for a value outside its
field, OK and no work for a zero, nothing otherwise (R311). (DEDUCED: log entry 29). -/
def indCode (c : Cmd) : Option Nat :=
  match c with
  | .launch _ ind =>
    if ind.any fun v => decide (65535 < v.getD 0) then some cRANGE else if ind.any fun v => v == some 0 then some cOK else none
  | .pass _ ind =>
    if 16777216 < (ind.getD 0 none).getD 0 then some cRANGE else if ind.getD 0 none = some 0 then some cOK else none
  | .xfer _ _ _ ind =>
    match ind.getD 0 none with
    | some v => if v % 4 ≠ 0 then some cRANGE else if v = 0 then some cOK else none
    | none => none
  | _ => none

/-- Whether the engine takes the command now (R66, R67, R230, R312). (DEDUCED: log entry 27). -/
def engineRoom (s : State) (ctx : Nat) (c : Cmd) : Bool :=
  match c with
  | .mxList h load _ _ => hallRoom s h load ctx
  | .seqStep b _ _ => match batchOf s b with
    | some x => hallRoom s x.hall false ctx
    | none => true
  | .present va => !presentWaits s ctx va
  | _ => true

/-! ### Sequence commands (R96 to R98) -/

/-- A join or leave request at the Hall of its batch: refused, or waiting for the next step boundary.
(DEDUCED: log entry 29, DEDUCED: log entry 30). -/
def seqRequest (s : State) (ref : CmdRef) (join : Bool) (b seq : Nat) : State :=
  match batchOf s b with
  | none => finishCmd s ref (BitVec.ofNat 32 cNOTGRANTED) 0
  | some x =>
    let isActive := x.active.any fun p => p.1 == seq
    let joining := x.waiting.any fun j => j.join && j.seq == seq
    let refuse (code : Nat) : State := batchNotice (finishCmd s ref (BitVec.ofNat 32 code) 0) x.hall code b seq
    if x.q ≤ seq then refuse cRANGE
    else if join ∧ (isActive ∨ joining) then refuse 0x53
    else if ¬ join ∧ ¬ isActive ∧ ¬ joining then refuse 0x54
    else setBatch s b { x with waiting := x.waiting ++ [⟨ref, join, seq, false⟩] }

/-! ### Execution (R307, R310, R313) -/

/-- The command is dispatched: it is outstanding in its queue. -/
def withOut (s : State) (p : CmdPos) (ref : CmdRef) (c : Cmd) (unit : Nat) : State :=
  let fv := match c with
    | .fenceSignal f v => (f, v)
    | _ => (0, 0)
  modQueue s p.queue fun x =>
    { x with out := x.out ++ [⟨ref, cmdOp c, unit, p.compVa, s.now, fv.1, fv.2, false⟩] }

/-- The Concourse itself completes a dispatched command with a code (R309). -/
def concourseDone (s : State) (p : CmdPos) (ref : CmdRef) (c : Cmd) (code : Nat) : State :=
  completeCmd (withOut s p ref c uConcourse) 0x320 uConcourse ref (BitVec.ofNat 32 code) 0

/-- A FENCE_WAIT: satisfied at once, or it blocks its queue and starts the search for a cycle (R313, R316). -/
def fenceWaitCmd (s : State) (p : CmdPos) (ref : CmdRef) (f : Nat) (ignoreErr : Bool) (v : Nat) : State :=
  let c : Cmd := .fenceWait f ignoreErr v
  match fenceOf s f with
  | none => concourseDone s p ref c cNOTGRANTED
  | some x =>
    if fenceRight x ref.ctx % 2 = 0 then concourseDone s p ref c cNOTGRANTED
    else
      let b : Blocked := ⟨ref, f, v, ignoreErr, p.compVa, s.now⟩
      match waitResult s b with
      | some code =>
        let s := concourseDone s p ref c code
        if faults code then s else sysAcquire s
      | none =>
        let s := modQueue s p.queue fun x => { x with st := .blocked, wait := some b }
        cycleSearch (writeStatus s p.queue) p.queue

/-- A FENCE_SIGNAL is pending until every earlier command of its queue has completed (R310, item 5). -/
def fenceSignalCmd (s : State) (p : CmdPos) (ref : CmdRef) (f v : Nat) : State :=
  let c : Cmd := .fenceSignal f v
  match fenceOf s f with
  | none => concourseDone s p ref c cNOTGRANTED
  | some x =>
    if fenceRight x ref.ctx / 2 % 2 = 0 then concourseDone s p ref c cNOTGRANTED
    else
      let s := withOut s p ref c uConcourse
      wake (retireEntries 65 (runSignals 1025 s p.queue) p.queue)

/-- Hand a dispatched command to its engine. -/
def atEngine (s : State) (ref : CmdRef) (c : Cmd) : State :=
  match c with
  | .mxList h load list cw => hallPush s h load (listEntry ref list cw none)
  | .launch va ind => startLaunch s ref va ind
  | .pass va ind => startPass s ref va ind
  | .present va => startPresent s ref va
  | .encode va => startJob s ref va true
  | .decode va => startJob s ref va false
  | .xfer src dst bytes ind => startXfer s ref src dst ((ind.getD 0 none).getD bytes)
  | .seqStep b list cw => match batchOf s b with
    | some x => hallPush s x.hall false (listEntry ref list cw (some b))
    | none => s
  | .seqJoin b q => seqRequest s ref true b q
  | .seqLeave b q => seqRequest s ref false b q
  | .fenceWait _ _ _ => s
  | .fenceSignal _ _ => s

/-- AFTER = 1 acquires before the command reads a descriptor or operand (R310). -/
def acquiredFor (s : State) (after : Bool) : State := if after then sysAcquire s else s

/-- A command that may be dispatched now, dispatched: rights, indirection, its engine (R292, R307, R311).
(DEDUCED: log entry 27). -/
def runCmd (s : State) (p : CmdPos) (ref : CmdRef) (c : Cmd) : State :=
  let s := acquiredFor s p.after
  if ref.ctx = 0x300 ∧ ¬ (cmdOp c = 0x07 ∨ cmdOp c = 0x10 ∨ cmdOp c = 0x11) then concourseDone s p ref c cNOTGRANTED
  else match c with
  | .fenceWait f ie v => fenceWaitCmd s p ref f ie v
  | .fenceSignal f v => fenceSignalCmd s p ref f v
  | c =>
    let u := cmdUnit s ref.ctx c
    if u = uConcourse then concourseDone s p ref c cNOTGRANTED
    else match indCode c with
      | some code => concourseDone s p ref c code
      | none => atEngine (withOut s p ref c u) ref c

/-- What holds a command back now: the queue's state, AFTER, room at its engine (R300, R310, R312).
(DEDUCED: log entry 27). -/
def mayDispatch (s : State) (p : CmdPos) (x : Queue) (c : Cmd) : Bool :=
  x.st == .active && (!p.after || x.out == []) && engineRoom s x.owner c

/-- A command row executed for a queue: it is dispatched when nothing holds it back and its domain is at
power-good; it waits otherwise, with a vote for the domain (R484). -/
def issueCmd (s : State) (p : CmdPos) (c : Cmd) : State × Bool :=
  match queueOf s p.queue with
  | none => (s, false)
  | some x =>
    if ¬ mayDispatch s p x c then (s, false)
    else
      let v := dispatchVote s p.queue (cmdUnit s x.owner c)
      if v.2 then (runCmd v.1 p ⟨x.owner, p.queue, p.entry, p.cmd⟩ c, true) else (v.1, false)

/-! ### Dispatch (R304 to R306, R311, R312) -/

/-- The entry a queue dispatches from: the first with a command not dispatched. -/
def dispatchEntry (x : Queue) : Option Entry := x.entries.find? fun e => e.bad || !e.opened || decide (e.idx < e.count)

def setEntry (s : State) (q : Nat) (e : Entry) : State :=
  modQueue s q fun x => { x with entries := x.entries.map fun y => if y.k = e.k then e else y }

/-- Move past a dispatched command; DPTR counts the entry after its last. (DEDUCED: log entry 29). -/
def passCmd (s : State) (q : Nat) (e : Entry) (bytes : Nat) : State :=
  let s := setEntry s q { e with pos := e.pos + bytes, idx := e.idx + 1 }
  if e.count ≤ e.idx + 1 then modQueue s q fun x => { x with dptr := (x.dptr + 1) % 2 ^ 32 } else s

/-- The words of the next command: its completion code when they cannot be read or are a bad command (R306), with the place
and CAUSE of a read that failed. (DESIGN CHOICE: log entry 28). -/
def nextWords (s : State) (ctx : Nat) (e : Entry) : Except (Nat × Option (Nat × Nat)) (List Word) :=
  let at' := e.cbVa + e.pos
  let unread (n : Nat) : Nat × Option (Nat × Nat) := let f := faultAt s ctx at' (4 * n) 1; (memCode f.2, some f)
  if e.size < e.pos + 4 then .error (cBADCOMMAND, none)
  else match readWords s ctx at' 1 with
    | .error _ => .error (unread 1)
    | .ok h =>
      let n := bits (wd h 0) 23 16
      let last := decide (e.count ≤ e.idx + 1)
      if n = 0 ∨ e.size < e.pos + 4 * n ∨ (last ∧ e.pos + 4 * n ≠ e.size) then .error (cBADCOMMAND, none)
      else match readWords s ctx at' n with
        | .error _ => .error (unread n)
        | .ok ws => if cmdGood ws then .ok ws else .error (cBADCOMMAND, none)

/-- Address of the indirection words of an opcode. -/
def indVa (ws : List Word) : Nat := if bits (wd ws 0) 31 24 = 0x07 then cmdVa ws 6 else cmdVa ws 3

/-- The indirection words of a command, one for each IND bit set; the error is the address and CAUSE of a
refused read. (DEDUCED: log entry 29). -/
def readInd (s : State) (ctx : Nat) (ws : List Word) : Except (Nat × Nat) (List (Option Nat)) :=
  (List.range 3).mapM fun i =>
    if bit (wd ws 0) (8 + i) then
      match readWords s ctx (indVa ws + 4 * i) 1 with
      | .ok w => .ok (some (wd w 0).toNat)
      | .error _ => .error (faultAt s ctx (indVa ws + 4 * i) 4 1)
    else .ok none

/-- What the reads of a command's words and of its indirection words do besides. -/
def sawCmd (s : State) (ctx va : Nat) (ws : List Word) : State :=
  (List.range 3).foldl (fun s i => if bit (wd ws 0) (8 + i) then sawRange s ctx (indVa ws + 4 * i) 4 1 else s)
    (sawRange s ctx va (4 * ws.length) 1)

/-- A command that fails at its dispatch: its record, then the queue faults (R318). (DEDUCED: log entry 29). -/
def failCmd (s : State) (p : CmdPos) (ctx code : Nat) : State :=
  let ref : CmdRef := ⟨ctx, p.queue, p.entry, p.cmd⟩
  wake (faultQueue (compRecord s 0x320 uConcourse ref p.compVa (BitVec.ofNat 32 code) 0) p.queue code p.entry p.cmd)

/-- Dispatch the next command of a queue; the flag says whether there was one that nothing held back.
(DESIGN CHOICE: log entry 28). -/
def dispatchQueue (s : State) (q : Nat) : State × Bool :=
  match queueOf s q with
  | none => (s, false)
  | some x =>
    if x.st ≠ .active then (s, false)
    else match dispatchEntry x with
      | none => (s, false)
      | some e =>
        if e.bad then (wake (faultQueue s q cBADHANDLE e.k 0xFFFF), true)
        else match openEntry s x.owner e with
          | .error c =>
            if 0x100 ≤ c then
              let f := faultAt s x.owner e.cbVa 32 1
              (wake (faultQueue (raiseMem s (memFault 0x320 uConcourse ⟨x.owner, q, e.k, 0⟩ 0 f.2 f.1)) q (memCode f.2) e.k 0), true)
            else (wake (faultQueue s q c e.k 0), true)
          | .ok e' =>
            let s := setEntry (if e.opened then s else sawRange s x.owner e.cbVa 32 1) q e'
            let e := e'
            match nextWords s x.owner e with
            | .error (code, why) =>
              let p : CmdPos := ⟨q, e.k, e.idx, false, e.compVa⟩
              let s := match why with
                | some f => raiseMem s (memFault 0x320 uConcourse ⟨x.owner, q, e.k, e.idx⟩ 0 f.2 f.1)
                | none => s
              (failCmd s p x.owner code, true)
            | .ok ws =>
              let p : CmdPos := ⟨q, e.k, e.idx, bit (wd ws 0) 15, e.compVa⟩
              let c0 := cmdOfWords ws []
              if ¬ mayDispatch s p x c0 then (s, false)
              else
                let v := dispatchVote s q (cmdUnit s x.owner c0)
                if ¬ v.2 then (v.1, false)
                else match readInd v.1 x.owner ws with
                  | .error (a, cause) =>
                    let s := raiseMem v.1 (memFault 0x320 uConcourse ⟨x.owner, q, e.k, e.idx⟩ 0 cause a)
                    (failCmd s p x.owner (memCode cause), true)
                  | .ok ind =>
                    let s := passCmd (sawCmd v.1 x.owner (e.cbVa + e.pos) ws) q e (4 * ws.length)
                    (runCmd s p ⟨x.owner, q, e.k, e.idx⟩ (cmdOfWords ws ind), true)

/-- Queues in the order the Concourse serves them: those of 0x200 first, then round robin after the last
served (R312). (DESIGN CHOICE: log entry 28). -/
def serveOrder (s : State) : List Nat :=
  let house := (s.cc.queues.filter fun p => p.2.owner == 0x200).map Prod.fst
  let rest := (s.cc.queues.filter fun p => p.2.owner != 0x200).map Prod.fst
  let rot (l : List Nat) : List Nat := l.filter (fun q => s.cc.rr < q) ++ l.filter fun q => q ≤ s.cc.rr
  rot house ++ rot rest

/-- Dispatch one command of the first queue that has one. -/
def dispatchFirst : List Nat → State → State
  | [], s => s
  | q :: r, s =>
    let d := dispatchQueue s q
    if d.2 then { d.1 with cc := { d.1.cc with rr := q } } else dispatchFirst r d.1

/-- The Concourse runs: its domain is on and the part in Run or Idle (R477, R483). -/
def concRuns (s : State) : Bool := s.pw.st == .run || s.pw.st == .idle

/-- (DESIGN CHOICE: log entry 28). -/
def dispatchOne (s : State) : State := if concRuns s then dispatchFirst (serveOrder s) s else s

/-! ### Doorbells (R271, R303) -/

/-- Writer of a doorbell mailbox. -/
def doorbellOwner (mbx : Nat) : Option Nat :=
  if 0x400 ≤ mbx ∧ mbx < 0x608 then some (mbx - 0x400) else if mbx = 0x608 then some 0x300 else none

/-- The Concourse takes a doorbell: TAKEN to the writer's session, then its entries. -/
def doorbellTake (s : State) (mbx : Nat) : State :=
  match doorbellOwner mbx with
  | none => s
  | some who =>
    let m := mbxOf s mbx
    if ¬ m.full ∨ ¬ concRuns s then s
    else
      let s := sendTo (mbxTake s mbx) who 0x13 mbx 0 []
      sealDue (takeDoorbell s who (bits m.word 51 41) (bits m.word 31 0))

/-! ### Completion, wait limit, quiescence (R308, R317, R320) -/

/-- The completion step of one command that its engine has finished. -/
def settleDone (s : State) (d : CmdRef × Word × Word) : State :=
  let unit := (((queueOf s d.1.queue).bind fun x => x.out.find? fun o => o.ref == d.1).map OutCmd.unit).getD uConcourse
  completeCmd s (engineSource unit) unit d.1 d.2.1 d.2.2

/-- The oldest finished command completes. (DEDUCED: log entry 32). -/
def commandComplete (s : State) : State :=
  match s.cc.done with
  | [] => s
  | d :: r => settleDone { s with cc := { s.cc with done := r } } d

/-- Every finished command of a queue completes. -/
def settleQueueDone (s : State) (q : Nat) : State :=
  let mine := s.cc.done.filter fun d => d.1.queue == q
  mine.foldl settleDone { s with cc := { s.cc with done := s.cc.done.filter fun d => d.1.queue != q } }

/-- Stop one command at its engine under the engine's abort rule (R92, R162, R261, R320). (DEDUCED: log entry 31). -/
def stopAt (s : State) (unit : Nat) (r : CmdRef) : State :=
  let mine (x : CmdRef) : Bool := x == r
  if unit < 4 then
    let s := abortHall (abortHall s unit false r.ctx fun e => e.single == [] && mine e.ref) unit true r.ctx fun e => mine e.ref
    { s with mh := { s.mh with batches := s.mh.batches.map fun p =>
        (p.1, { p.2 with waiting := p.2.waiting.filter fun j => !mine j.ref }) } }
  else if unit = 16 then abortLaunches s mine
  else if unit = uGallery then abortPasses s mine
  else if unit = uCompression then abortJobs s mine
  else abortXfers s mine

/-- Bytes an XFER has moved: its DETAIL (R308). -/
def xferMoved (s : State) (r : CmdRef) : Nat := ((s.ob.xfers.find? fun x => x.ref == r).map Xfer.moved).getD 0

/-- A blocked wait or a dispatched command has taken WAIT_MS. (DEDUCED: log entry 31, DEDUCED: log entry 87). -/
def waitLimit (s : State) (r : CmdRef) : State :=
  match queueOf s r.queue with
  | none => s
  | some x =>
    match (if x.st = .blocked then x.wait.filter fun b => b.ref == r else none) with
    | some b => wake (finishWait s r.queue b ((waitResult s b).getD cWAITTIMEOUT))
    | none =>
      match x.out.find? fun o => o.ref == r with
      | none => s
      | some o =>
        if o.op = 0x11 ∨ o.aborted ∨ s.cc.done.any fun d => d.1 == r then s
        else
          let moved := xferMoved s r
          let s := stopAt s o.unit r
          let word := match s.cc.done.find? fun d => d.1 == r with
            | some d => (BitVec.ofNat 32 (d.2.1.toNat / 256 * 256 + cWAITTIMEOUT), d.2.2)
            | none => (BitVec.ofNat 32 cWAITTIMEOUT, BitVec.ofNat 32 moved)
          let s := { s with cc := { s.cc with done := s.cc.done.filter fun d => d.1 != r } }
          settleDone s (r, word.1, word.2)

/-- An engine's work of a queue is discarded. -/
def abortAt (s : State) (unit q : Nat) : State :=
  let mine (x : CmdRef) : Bool := x.queue == q
  if unit < 4 then abortSeq (abortHallQueue s unit q) unit q
  else if unit = 16 then abortLaunches s mine
  else if unit = uGallery then abortPasses s mine
  else if unit = uCompression then abortJobs s mine
  else if unit = uOutbound then abortXfers s mine else s

/-- An engine has discarded its work of a queue under destroy and reports it (R320, R321). -/
def engineQuiescent (s : State) (q unit : Nat) : State :=
  match queueOf s q with
  | none => s
  | some x =>
    if x.st = .destroying ∧ x.aborting.contains unit then
      let s := settleQueueDone (abortAt s unit q) q
      quiesceQueue (modQueue s q fun x => { x with aborting := x.aborting.filter fun u => u != unit }) q
    else s

/-! ### Meanings -/

/-- (DEDUCED: log entry 27). -/
def cmdRow (s : State) (q entry cmd : Nat) (after : Bool) (compVa : Nat) (c : Cmd) : Out :=
  .next (issueCmd s ⟨q, entry, cmd, after, compVa⟩ c).1

def execMxList (q entry cmd : Nat) (after : Bool) (compVa hall : Nat) (load : Bool) (list cw : Nat) (s : State) : Out :=
  cmdRow s q entry cmd after compVa (.mxList (hall % 4) load list cw)
def execLaunch (q entry cmd : Nat) (after : Bool) (compVa va : Nat) (ind : List (Option Nat)) (s : State) : Out :=
  cmdRow s q entry cmd after compVa (.launch va ind)
def execPass (q entry cmd : Nat) (after : Bool) (compVa va : Nat) (ind : List (Option Nat)) (s : State) : Out :=
  cmdRow s q entry cmd after compVa (.pass va ind)
def execPresent (q entry cmd : Nat) (after : Bool) (compVa va : Nat) (s : State) : Out :=
  cmdRow s q entry cmd after compVa (.present va)
def execEncode (q entry cmd : Nat) (after : Bool) (compVa va : Nat) (s : State) : Out :=
  cmdRow s q entry cmd after compVa (.encode va)
def execDecode (q entry cmd : Nat) (after : Bool) (compVa va : Nat) (s : State) : Out :=
  cmdRow s q entry cmd after compVa (.decode va)
def execXfer (q entry cmd : Nat) (after : Bool) (compVa src dst bytes : Nat) (ind : List (Option Nat)) (s : State) : Out :=
  cmdRow s q entry cmd after compVa (.xfer src dst bytes ind)
def execSeqStep (q entry cmd : Nat) (after : Bool) (compVa batch list cw : Nat) (s : State) : Out :=
  cmdRow s q entry cmd after compVa (.seqStep batch list cw)
def execSeqJoin (q entry cmd : Nat) (after : Bool) (compVa batch seq : Nat) (s : State) : Out :=
  cmdRow s q entry cmd after compVa (.seqJoin batch seq)
def execSeqLeave (q entry cmd : Nat) (after : Bool) (compVa batch seq : Nat) (s : State) : Out :=
  cmdRow s q entry cmd after compVa (.seqLeave batch seq)
def execFenceWait (q entry cmd : Nat) (after : Bool) (compVa fence : Nat) (ignoreErr : Bool) (value : Nat) (s : State) : Out :=
  cmdRow s q entry cmd after compVa (.fenceWait fence ignoreErr value)
def execFenceSignal (q entry cmd : Nat) (after : Bool) (compVa fence value : Nat) (s : State) : Out :=
  cmdRow s q entry cmd after compVa (.fenceSignal fence value)
def execDoorbellTake (mbx : Nat) (s : State) : Out := .next (doorbellTake s mbx)
def execDispatch (s : State) : Out := .next (dispatchOne s)
def execCommandComplete (s : State) : Out := .next (commandComplete s)
def execWaitLimitExpiry (r : CmdRef) (s : State) : Out := .next (waitLimit s r)
def execEngineQuiescent (q unit : Nat) (s : State) : Out := .next (engineQuiescent s q unit)

end Sys2Proof.Machine
end

