-- ==== Sys2Proof/Machine/Newel.lean ====
section
/-! DEFINITION. How Newel serves: the classes and their rotation, the take of a request mailbox, duplicates,
flights, notices, context teardown (spec/09, R272 to R281; spec/10, R322; spec/18, R525 to R529). -/

namespace Sys2Proof.Machine
open Sys2Proof

/-- The row of the request table for an opcode (R527). -/
def specOf (op : Nat) : Option ReqSpec :=
  match op with
  | 0x00 => some specInfoGet | 0x01 => some specSessionOpen | 0x02 => some specSessionClose | 0x03 => some specSessionRekey
  | 0x04 => some specAttest | 0x05 => some specOperatorEnrol | 0x06 => some specOperatorRelease | 0x07 => some specSeccfgSet
  | 0x08 => some specFwStage | 0x09 => some specFwCommit | 0x0A => some specSvnRaise | 0x0B => some specMacsecCakSet
  | 0x10 => some specCtxCreate | 0x11 => some specCtxDestroy | 0x12 => some specCtxNumeric | 0x13 => some specCtxFaultRead
  | 0x14 => some specMemAlloc | 0x15 => some specMemMap | 0x16 => some specMemUnmap | 0x17 => some specMemFree
  | 0x18 => some specMemGrant | 0x19 => some specMemRevoke | 0x1A => some specSysGrant | 0x1B => some specBinDonate
  | 0x1C => some specBinPoolSet | 0x1D => some specErrqSet | 0x1E => some specTlmSet | 0x1F => some specDsRetain
  | 0x20 => some specQueueCreate | 0x21 => some specQueueDestroy | 0x22 => some specQueueReset
  | 0x23 => some specFenceCreate | 0x24 => some specFenceDestroy | 0x25 => some specFenceSet | 0x26 => some specFenceClear
  | 0x27 => some specFenceExport | 0x28 => some specFenceImport | 0x29 => some specFenceQuery
  | 0x2A => some specSeqBatchCreate | 0x2B => some specSeqBatchDestroy | 0x2C => some specCmpSlotAlloc | 0x2D => some specCmpSlotFree
  | 0x30 => some specHouseConfig | 0x31 => some specHouseStart | 0x32 => some specHouseStop | 0x33 => some specTestMode
  | 0x34 => some specSetNumMode | 0x35 => some specTtLoad | 0x36 => some specSchedLoad | 0x37 => some specFeedBind
  | 0x38 => some specFeedCode | 0x39 => some specRasBaysSet
  | 0x40 => some specObConfig | 0x41 => some specObWindowGrant | 0x42 => some (specNvmeRead true [])
  | 0x43 => some specAxisEnable | 0x44 => some specAxisDisable | 0x45 => some specAxisClear | 0x46 => some specAxisMove
  | 0x47 => some specAxisMode | 0x48 => some specHeatConfig | 0x49 => some specExposureSet | 0x4A => some specObOwnerAccept
  | 0x50 => some specPwrSet | 0x51 => some specPwrVote | 0x52 => some specPartReset | 0x53 => some specBootCfgSet
  | 0x54 => some specCalRead | 0x55 => some specCalWrite | 0x56 => some specRestoreFactory | 0x57 => some specFaultClear
  | 0x58 => some specMapRead
  | _ => none

/-! ### Taking a request (R271 to R276, R525) -/

/-- A flight request that passes its checks and would succeed starts here: the request record, the locks, what
its first tread commits (R276, R281, R374, R404, R478). (DEDUCED: log entry 16, DEDUCED: log entry 23). -/
def startFlight (s : State) (sp : ReqSpec) (r : ReqIn) : State :=
  let who := mbxIdent r.mbox
  let tag := s.ob.nextTag
  let f : Flight := ⟨r.mbox, who, sp.op, r, .request, sp.wait, sp.locks who r s, if sp.op = 0x42 then tag else 0⟩
  let s := { s with nw := { s.nw with flights := s.nw.flights ++ [f], recs := tput s.nw.recs r.mbox ⟨r.seq, sp.op, none, []⟩ } }
  if sp.op = 0x42 then { s with ob := { s.ob with cmds := s.ob.cmds ++ [(tag, s.now)], nextTag := tag + 1 } }
  else if sp.op = 0x09 then { s with sec := { s.sec with fw := { s.sec.fw with valid := false } } }
  else if sp.op = 0x50 then
    let t := bits (wd r.block 1) 2 0
    if t = 0 ∨ (s.pw.st = .idle ∧ t = 1) then s
    else { s with pw := { s.pw with entering := some (if t = 1 then .idle else if t = 2 then .sleep else if t = 3 then .deepSleep else .off) } }
  else s

/-- What a flight's body would answer now: NVME_READ asks the device later. (DEDUCED: log entry 16). -/
def dryStatus (s : State) (sp : ReqSpec) (r : ReqIn) : Nat :=
  if sp.op = 0x42 then (nvmeCheck s r).getD cOK else (sp.body (mbxIdent r.mbox) r s).status

/-- A new request: answered in this tread, or the first tread of its flight. CTX_DESTROY and QUEUE_DESTROY reply
once their first tread has committed (R526). (DEDUCED: log entry 16). -/
def freshRequest (s : State) (sp : ReqSpec) (r : ReqIn) : State :=
  let who := mbxIdent r.mbox
  if sp.flight ∧ sp.op ≠ 0x11 ∧ sp.op ≠ 0x21 ∧ (precheck sp who r s).isNone ∧ ¬ lockBusy s r.mbox sp.op (sp.locks who r s)
      ∧ dryStatus s sp r = cOK then startFlight s sp r
  else if sp.op = 0x02 then afterClose (runRequest sp r s) s r.mbox
  else runOpen sp r s

/-- The stored reply of a completed request goes out again with DUP, with the COLLISION of this take; a
request still running is answered once (R276). -/
def duplicate (s : State) (r : ReqIn) (rec : ReqRec) : State :=
  match rec.reply with
  | none => s
  | some w =>
    let who := mbxIdent r.mbox
    let w := replyWord (bits w 51 44) (bits w 43 40) (bits w 39 24) (bits w 23 16) r.coll true (bits w 13 0)
    let st : Stage := ⟨false, (tgetD s.nw.stage (stageKey who r.stage) default).word, rec.blk⟩
    let s := { s with nw := { s.nw with stage := tput s.nw.stage (stageKey who r.stage) st } }
    outPush s (outMbx r.mbox) ⟨w, .treadReply⟩

/-- An opcode that the table does not list. -/
def unknownOp (s : State) (op : Nat) (r : ReqIn) : State :=
  let s := sendReply s op r false (if r.rsv ≠ 0 then cRESERVED else cUNKNOWNOP) 0 []
  afterProvisional s r.mbox

/-- Newel takes a request mailbox: TAKEN, then the word is discarded, answered as a duplicate, or executed. A
word whose staging entry is not held for it was left by an ended session (R272, R273).
(DESIGN CHOICE: log entry 4, DEDUCED: log entry 17). -/
def takeRequest (s : State) (mbx : Nat) (v : Verdict) : State :=
  let m := mbxOf s mbx
  let who := mbxIdent mbx
  let w := m.word
  let op := bits w 51 44
  let st := tgetD s.nw.stage (stageKey who (bits w 43 40)) default
  let r : ReqIn := ⟨mbx, bits w 43 40, bits w 39 24, bits w 23 11, bits w 10 0, st.block, m.coll, v⟩
  let live := liveRequester s mbx op && st.held && st.word == w
  let s := sealDue (sendTo (mbxTake s mbx) who 0x13 mbx 0 (leBytes 2 r.seq))
  if ¬ live then s
  else match (tget s.nw.recs mbx).filter fun x => x.seq == r.seq && x.op == op with
    | some x => duplicate s r x
    | none => match specOf op with
      | none => unknownOp s op r
      | some sp => freshRequest s sp r

/-! ### Notices (R529) -/

/-- What Newel does with a notice. (DEDUCED: log entry 20). -/
def handleNotice (s : State) (code arg : Nat) : State :=
  match code with
  | 0x01 => freeQueue s (arg % 2048)
  | 0x02 => match queueOf s (arg % 2048) with
    | some x => if ctxState s x.owner = .teardown then s else sendEvent s x.owner 0x83 x.owner (arg % 2 ^ 32)
    | none => s
  | 0x03 => match objOf s (arg % 65536) with
    | some o => if o.st = .freeing ∧ o.gen = arg / 65536 % 65536 ∧ ¬ objRefd s (arg % 65536) then releaseObj s (arg % 65536) true else s
    | none => s
  | 0x21 =>
    if arg / 2 ^ 26 % 256 = 0x55 then
      match batchOf s (arg % 64) with
      | some b => sendEvent s b.ctx 0x8A b.ctx (fld 0 6 arg + fld 16 10 (arg / 2 ^ 16))
      | none => s
    else s
  | 0x30 => sendEvent s 0x300 0x81 (arg % 4096) (arg / 4096 % 64)
  | _ => s

/-- Take a notice mailbox and handle its notice in one tread. -/
def serveNotice (s : State) (mbx : Nat) : State :=
  let w := (mbxOf s mbx).word
  handleNotice (takeNotice s mbx) (bits w 51 44) (bits w 43 0)

/-- Newel handles the notice of a code and argument, where its block's mailbox holds it. (DEDUCED: log entry 20). -/
def noticeRow (s : State) (mbx code arg : Nat) : State :=
  if newelRuns s ∧ (mbxOf s mbx).full ∧ (mbxOf s mbx).word = stampWord ((mbxWriter mbx).getD 0) (fld 44 8 code + fld 0 44 arg) then
    serveNotice s mbx
  else s

/-! ### Context teardown (R322) -/

/-- First tread: the cause is settled, the entries of composited tiles that are not coded yet are rewritten (R236), every
queue of the context is aborted. (DEDUCED: log entry 22). -/
def teardownBegin (s : State) (f : Flight) (id : Nat) : State :=
  let cause := ((ctxOf s id).map Ctx.tearCause).getD 0
  let s := { s with nw := { s.nw with flights := s.nw.flights.map fun x => if x = f then { x with kind := .teardown id cause, code := 1 } else x } }
  let s := dropOwner s id
  let qs := (s.cc.queues.filter fun p => p.2.owner == id).map Prod.fst
  qs.foldl (fun s q => quiesceQueue (beginDestroy (modQueue s q fun x => { x with quiet := true }) q) q) s

/-- Every queue of the context is quiescent. -/
def queuesQuiet (s : State) (id : Nat) : Bool := s.cc.queues.all fun p => p.2.owner != id || (p.2.st == .destroying && p.2.aborting == [])

/-- The Compression Engine reads no composite buffer of the context: no tile of its layers is being coded (R236). -/
def bufferQuiet (s : State) (id : Nat) : Bool :=
  s.cm.feeds.all fun p => !(((feedOf s p.1).map fun f => fOwner f.words == id).getD false) || ((p.2.coding.map fun e => e.w0 % 2 == 0).getD true)

/-- Step 1 after the queues: batches, presents, composite buffers, compression slots, bin pool pages, raster
bays, the device of the Outbound Port. (DEDUCED: log entry 22). -/
def teardownEngines (s : State) (id : Nat) : State :=
  let mine (r : CmdRef) : Bool := r.ctx == id
  let s := ((s.mh.batches.filter fun p => p.2.ctx == id).map Prod.fst).foldl dropBatch s
  let s := dropCmpSlots (abortJobs (abortPasses (abortLaunches s mine) mine) mine) id
  let x := rasOf s id
  let s := { s with cx := { s.cx with reserve := s.cx.reserve + x.pool },
                    rs := { s.rs with ctx := tdel s.rs.ctx id },
                    gal := { s.gal with bays := s.gal.bays.filter fun p => !x.bays.contains p.1 } }
  obDropOwner s id

/-- Step 2: mappings, grants and imports. (DEDUCED: log entry 22). -/
def teardownRights (s : State) (id : Nat) : State :=
  let mine := (s.cx.objs.filter fun p => p.2.owner == id && p.2.st != .free).map Prod.fst
  let s := mine.foldl (fun s sl => unmapObj s sl none) s
  { s with
    cx := { s.cx with maps := tdel s.cx.maps id, objs := s.cx.objs.map fun p => (p.1, { p.2 with grants := tdel p.2.grants id }) },
    cc := { s.cc with fences := s.cc.fences.map fun p => (p.1, { p.2 with imports := tdel p.2.imports id, exports := tdel p.2.exports id }) } }

/-- Step 3: exported fences of the context are ABANDONED; importers wake. (DEDUCED: log entry 22). -/
def teardownFences (s : State) (id : Nat) : State :=
  wake (((s.cc.fences.filter fun p => p.2.owner == id && p.2.exports != []).map Prod.fst).foldl (fun s f => failFence s f .abandoned) s)

/-- Step 4: the key pair is overwritten and unusable, its Mezzanine lines are invalid, the context's memory reads no more;
so are the session keys (R176). (DEDUCED: log entry 22). -/
def teardownKeys (s : State) (id : Nat) : State :=
  let runs := (s.cx.objs.filter fun p => p.2.owner == id && p.2.st != .free).flatMap fun p => p.2.runs
  let s := killKey s id
  freeSession { s with mem := { s.mem with cells := memClearRuns s.mem.cells runs, mz := s.mem.mz.filter fun l => l.tag != id } } id

/-- The context's regions wait to be zeroed before they are assigned again (R65); what the Halls and the cores
hold for it is dropped. (DEDUCED: log entry 22, DEDUCED: log entry 80). -/
def teardownHalls (s : State) (id : Nat) : State :=
  { s with
    mh := { s.mh with halls := s.mh.halls.map fun h =>
      { h with comp := tdel h.comp id, load := tdel h.load id, regions := tdel h.regions id,
               zeroing := h.zeroing ++ ((tget h.regions id).map fun r => (id, r)).toList } },
    sh := { s.sh with cores := s.sh.cores.map fun c => { c with saved := tdel c.saved id } } }

/-- A mailbox loses its word; its collision count stays (R268). -/
def emptyBox (s : State) (i : Nat) : State :=
  { s with nw := { s.nw with mbx := tmod s.nw.mbx i fun m => ⟨0, false, false, m.count⟩ } }

/-- The core save areas of the context go back to the pool (R161). (DESIGN CHOICE: log entry 95). -/
def freeSaves (s : State) (id : Nat) : State :=
  let mine := s.cx.saves.filter fun p => p.1 / 32 == id
  { s with cx := { s.cx with saves := s.cx.saves.filter (fun p => p.1 / 32 != id),
                             freeFrames := mine.foldl (fun f p => addRuns f (backToPool s p.2)) s.cx.freeFrames } }

/-- Step 5: objects, fences, queues, mailboxes, outbound queue, counts and records are freed; CTX_TORN_DOWN; the
slot is FREE. (DEDUCED: log entry 22). -/
def teardownFree (s : State) (id cause : Nat) : State :=
  let s := freeSaves s id
  let objs := (s.cx.objs.filter fun p => p.2.owner == id && p.2.st != .free).map Prod.fst
  let refs := (s.cc.queues.filter fun p => p.2.owner == id).flatMap fun p => [p.2.ringObj, p.2.statusObj]
  let s := { s with cc := { s.cc with queues := s.cc.queues.filter fun p => p.2.owner != id } }
  let s := objs.foldl (fun s sl => releaseObj s sl false) (unref s refs)
  let s := wake { s with cc := { s.cc with fences := s.cc.fences.filter fun p => p.2.owner != id } }
  let s := emptyBox (emptyBox (emptyBox s id) (0x400 + id)) (outMbx id)
  let s := { s with
    nw := { s.nw with outq := tdel s.nw.outq (outMbx id), lost := tdel s.nw.lost id, recs := tdel s.nw.recs id,
                      flights := s.nw.flights.filter fun f => !(f.kind == .request && f.mbox == id) },
    cx := { s.cx with ctxs := tdel s.cx.ctxs id } }
  sendEvent (idleCtx s id) 0x300 0x85 id cause

/-- The treads of a teardown flight. (DEDUCED: log entry 22). -/
def teardownTread (s : State) (f : Flight) (id cause : Nat) : State :=
  if f.code = 0 then teardownBegin s f id
  else
    let s := { s with nw := { s.nw with flights := s.nw.flights.erase f } }
    teardownFree (teardownHalls (teardownKeys (teardownFences (teardownRights (teardownEngines s id) id) id) id) id) id cause

/-! ### Flights (R277, R280, R357) -/

def flightReady (s : State) (f : Flight) : Bool :=
  f.wait == .ready && match f.kind with
    | .teardown id _ => f.code == 0 || (queuesQuiet s id && bufferQuiet s id)
    | _ => true

/-- The last tread of a request flight: its effect and its reply. An open whose binding is gone ends.
(DESIGN CHOICE: log entry 4, DEDUCED: log entry 16, DEDUCED: log entry 17, DEDUCED: log entry 23). -/
def requestTread (s : State) (f : Flight) : State :=
  let s := { s with nw := { s.nw with flights := s.nw.flights.erase f } }
  if f.op = 0x42 then sendReply s f.op f.r true f.code 0 []
  else match specOf f.op with
    | none => s
    | some sp =>
      if ¬ (bound s f.who ∨ provisional s f.who) ∧ sp.src.p then s
      else
      let res := sp.body f.who f.r s
      afterProvisional (sendReply res.st f.op f.r true res.status res.detail res.result) f.mbox

def setFlight (s : State) (f g : Flight) : State :=
  { s with nw := { s.nw with flights := s.nw.flights.map fun x => if x = f then g else x } }

/-- The generation flight: the current pair where none was loaded, then the pair of the next lifetime, which it
writes to the flash (R357). -/
def skeyTread (s : State) (f : Flight) : State :=
  if ¬ s.sec.skeyReady then setFlight { s with sec := { s.sec with skeyReady := true } } f { f with wait := .rsa }
  else if f.code = 0 then setFlight s f { f with wait := .flash, code := 1 }
  else { s with sec := { s.sec with nextPair := true }, nw := { s.nw with flights := s.nw.flights.erase f } }

def flightTread (s : State) (f : Flight) : State :=
  match f.kind with
  | .request => requestTread s f
  | .teardown id cause => teardownTread s f id cause
  | .skeyGen => skeyTread s f

/-- The first flight of those a condition picks becomes ready. -/
def releaseWait (s : State) (pick : Flight → Bool) : State :=
  match s.nw.flights.find? pick with
  | none => s
  | some f => setFlight s f { f with wait := .ready }

/-- (DEDUCED: log entry 16). -/
def flashDone (s : State) : State := releaseWait s fun f => f.wait == .flash

/-- The modular exponentiation unit serves opens and reports first; the generation flight yields (R370).
(DEDUCED: log entry 16). -/
def rsaDone (s : State) : State :=
  if s.nw.flights.any fun f => f.wait == .rsa && f.kind == .request then releaseWait s fun f => f.wait == .rsa && f.kind == .request
  else releaseWait s fun f => f.wait == .rsa

/-! ### Classes and rotation (R274, R277) -/

/-- A ready item: a mailbox, or a flight with the mailbox of its requester. -/
inductive Item where
  | box (mbx : Nat)
  | flight (f : Flight)

/-- Place of an item in its class's round: ascending mailbox, the mailbox before the flight.
(DESIGN CHOICE: log entry 19). -/
def itemPos : Item → Nat
  | .box m => 2 * m + 1
  | .flight f => 2 * f.mbox + 2

/-- Class of a requester: 0 A, 1 B, 2 C, 3 D. -/
def classOf (mbx : Nat) : Nat :=
  if mbx < 0x200 then 3 else if mbx < 0x208 then 2 else if mbx < 0x20C then 1 else 0

/-- A request mailbox is ready while the reply entry of one-tread requests is free (R274). -/
def boxReady (s : State) (p : Nat × Mailbox) : Bool :=
  p.2.full && (if p.1 < 0x20C then !((tgetD s.nw.outq (outMbx p.1) []).any fun w => w.kind == .treadReply)
    else decide (0x210 ≤ p.1 ∧ p.1 < 0x218))

/-- (DESIGN CHOICE: log entry 19). -/
def readyItems (s : State) (cls : Nat) : List Item :=
  ((s.nw.mbx.filter fun p => classOf p.1 == cls && boxReady s p).map fun p => Item.box p.1)
    ++ (s.nw.flights.filter fun f => classOf f.mbox == cls && flightReady s f).map Item.flight

/-- The item of the lowest place that a condition admits. (DESIGN CHOICE: log entry 19). -/
def lowestItem (l : List Item) (ok : Nat → Bool) : Option Item :=
  l.foldl (fun b i =>
    if ok (itemPos i) then
      match b with
      | none => some i
      | some j => if itemPos i < itemPos j then some i else b
    else b) none

/-- The next item of a class: the first after the last one served, else from the start.
(DESIGN CHOICE: log entry 19). -/
def nextItem (s : State) (cls : Nat) : Option Item :=
  let l := readyItems s cls
  let last := s.nw.lastServed.getD cls 0
  (lowestItem l fun p => decide (last < p)).or (lowestItem l fun _ => true)

def serveItem (s : State) (v : Verdict) : Item → State
  | .box m => if m < 0x20C then takeRequest s m v else serveNotice s m
  | .flight f => flightTread s f

/-- A comparison of the pair fails: the tread's commit log is discarded, the tread runs again (R265). -/
def mismatch (s : State) : State :=
  raise { s with nw := { s.nw with rerun := satInc 0xFFFF s.nw.rerun } } (plainFault 0x310 0x40 uNewel 0 0)

/-- The tread ran on all three cores: the one that disagrees is retired, and the spare takes its place (R265, R464). -/
def retireCore (s : State) (odd : Nat) : State :=
  let spare := 3 - s.nw.coreA - s.nw.coreB
  raise { s with nw := { s.nw with
      coreA := if odd = s.nw.coreA then spare else s.nw.coreA,
      coreB := if odd = s.nw.coreB then spare else s.nw.coreB, spareOk := false } }
    (plainFault 0x310 0x41 uNewel 0 0)

/-- One service opportunity: the next class with a ready item, and one tread of its next item. Its `mismatches` (0, 1, 2)
come before its effects; after the second the core `odd` is retired, or with no spare left the tread does not commit and
NEWEL_HALT is raised (R265, R460). (DESIGN CHOICE: log entry 4, DESIGN CHOICE: log entry 19). -/
def serviceOpportunity (s : State) (v : Verdict) (mismatches odd : Nat) : State :=
  if ¬ newelRuns s then s
  else
    let order := (List.range 4).map fun i => (s.nw.rot + i) % 4
    match order.findSome? fun c => (nextItem s c).map fun i => (c, i) with
    | none => s
    | some (c, i) =>
      let s := (List.range (min mismatches 2)).foldl (fun s _ => mismatch s) s
      if 2 ≤ mismatches ∧ ¬ s.nw.spareOk then raise s (plainFault 0x310 0x42 uNewel 0 0)
      else
        let s := if 2 ≤ mismatches then retireCore s odd else s
        serveItem { s with nw := { s.nw with rot := (c + 1) % 4, lastServed := s.nw.lastServed.set c (itemPos i) } } v i

/-! ### Meanings -/

def execNewelServiceOpportunity (v : Service) (s : State) : Out :=
  .next (serviceOpportunity s v.verdict v.mismatches v.odd)
def execFlashOpDone (s : State) : Out := .next (flashDone s)
def execRsaOpDone (s : State) : Out := .next (rsaDone s)
def execQuiesced (queue : Nat) (s : State) : Out := .next (noticeRow s 0x210 0x01 queue)
def execQueueStopped (queue code : Nat) (s : State) : Out := .next (noticeRow s 0x210 0x02 (queue + code * 65536))
def execObjUnref (handle : Nat) (s : State) : Out := .next (noticeRow s 0x210 0x03 handle)
def execAxisState (axis st cause : Nat) (s : State) : Out := .next (noticeRow s 0x211 0x10 (fld 0 3 axis + fld 3 3 st + fld 6 4 cause))
def execThrottle (level : Nat) (s : State) : Out := .next (noticeRow s 0x211 0x11 level)
def execZeroed (hall ctx : Nat) (s : State) : Out := .next (noticeRow s (0x212 + hall % 4) 0x20 ctx)
def execBatch (hall batch seq code : Nat) (s : State) : Out :=
  .next (noticeRow s (0x212 + hall % 4) 0x21 (fld 0 6 batch + fld 16 10 seq + fld 26 8 code))
def execGrowNotice (ctx pass : Nat) (s : State) : Out := .next (noticeRow s 0x216 0x30 (ctx + pass * 4096))
def execBayFreed (ctx : Nat) (s : State) : Out := .next (noticeRow s 0x216 0x31 ctx)
def execSlotFreed (slot : Nat) (s : State) : Out := .next (noticeRow s 0x217 0x38 slot)

end Sys2Proof.Machine
end

