-- ==== Sys2Proof/Machine/Dispatch.lean ====
section
/-! DEFINITION. One arm for every command: a direct call of its meaning. -/

namespace Sys2Proof.Machine
open Sys2Proof

/-- What a command does to everything but the queue. -/
def exec (i : Instr) (s : State) : Host.Outcome State Fault Refusal :=
  match i with
  | .infoGet r => Sys2Proof.Machine.execInfoGet r s
  | .sessionOpen r => Sys2Proof.Machine.execSessionOpen r s
  | .sessionClose r => Sys2Proof.Machine.execSessionClose r s
  | .sessionRekey r => Sys2Proof.Machine.execSessionRekey r s
  | .attest r => Sys2Proof.Machine.execAttest r s
  | .operatorEnrol r => Sys2Proof.Machine.execOperatorEnrol r s
  | .operatorRelease r => Sys2Proof.Machine.execOperatorRelease r s
  | .seccfgSet r => Sys2Proof.Machine.execSeccfgSet r s
  | .fwStage r => Sys2Proof.Machine.execFwStage r s
  | .fwCommit r => Sys2Proof.Machine.execFwCommit r s
  | .svnRaise r => Sys2Proof.Machine.execSvnRaise r s
  | .macsecCakSet r => Sys2Proof.Machine.execMacsecCakSet r s
  | .ctxCreate r => Sys2Proof.Machine.execCtxCreate r s
  | .ctxDestroy r => Sys2Proof.Machine.execCtxDestroy r s
  | .ctxNumeric r => Sys2Proof.Machine.execCtxNumeric r s
  | .ctxFaultRead r => Sys2Proof.Machine.execCtxFaultRead r s
  | .memAlloc r => Sys2Proof.Machine.execMemAlloc r s
  | .memMap r => Sys2Proof.Machine.execMemMap r s
  | .memUnmap r => Sys2Proof.Machine.execMemUnmap r s
  | .memFree r => Sys2Proof.Machine.execMemFree r s
  | .memGrant r => Sys2Proof.Machine.execMemGrant r s
  | .memRevoke r => Sys2Proof.Machine.execMemRevoke r s
  | .sysGrant r => Sys2Proof.Machine.execSysGrant r s
  | .binDonate r => Sys2Proof.Machine.execBinDonate r s
  | .binPoolSet r => Sys2Proof.Machine.execBinPoolSet r s
  | .errqSet r => Sys2Proof.Machine.execErrqSet r s
  | .tlmSet r => Sys2Proof.Machine.execTlmSet r s
  | .dsRetain r => Sys2Proof.Machine.execDsRetain r s
  | .queueCreate r => Sys2Proof.Machine.execQueueCreate r s
  | .queueDestroy r => Sys2Proof.Machine.execQueueDestroy r s
  | .queueReset r => Sys2Proof.Machine.execQueueReset r s
  | .fenceCreate r => Sys2Proof.Machine.execFenceCreate r s
  | .fenceDestroy r => Sys2Proof.Machine.execFenceDestroy r s
  | .fenceSet r => Sys2Proof.Machine.execFenceSet r s
  | .fenceClear r => Sys2Proof.Machine.execFenceClear r s
  | .fenceExport r => Sys2Proof.Machine.execFenceExport r s
  | .fenceImport r => Sys2Proof.Machine.execFenceImport r s
  | .fenceQuery r => Sys2Proof.Machine.execFenceQuery r s
  | .seqBatchCreate r => Sys2Proof.Machine.execSeqBatchCreate r s
  | .seqBatchDestroy r => Sys2Proof.Machine.execSeqBatchDestroy r s
  | .cmpSlotAlloc r => Sys2Proof.Machine.execCmpSlotAlloc r s
  | .cmpSlotFree r => Sys2Proof.Machine.execCmpSlotFree r s
  | .houseConfig r => Sys2Proof.Machine.execHouseConfig r s
  | .houseStart r => Sys2Proof.Machine.execHouseStart r s
  | .houseStop r => Sys2Proof.Machine.execHouseStop r s
  | .testMode r => Sys2Proof.Machine.execTestMode r s
  | .setNumMode r => Sys2Proof.Machine.execSetNumMode r s
  | .ttLoad r => Sys2Proof.Machine.execTtLoad r s
  | .schedLoad r => Sys2Proof.Machine.execSchedLoad r s
  | .feedBind r => Sys2Proof.Machine.execFeedBind r s
  | .feedCode r => Sys2Proof.Machine.execFeedCode r s
  | .rasBaysSet r => Sys2Proof.Machine.execRasBaysSet r s
  | .obConfig r => Sys2Proof.Machine.execObConfig r s
  | .obWindowGrant r => Sys2Proof.Machine.execObWindowGrant r s
  | .nvmeRead r good data => Sys2Proof.Machine.execNvmeRead r good data s
  | .axisEnable r => Sys2Proof.Machine.execAxisEnable r s
  | .axisDisable r => Sys2Proof.Machine.execAxisDisable r s
  | .axisClear r => Sys2Proof.Machine.execAxisClear r s
  | .axisMove r => Sys2Proof.Machine.execAxisMove r s
  | .axisMode r => Sys2Proof.Machine.execAxisMode r s
  | .heatConfig r => Sys2Proof.Machine.execHeatConfig r s
  | .exposureSet r => Sys2Proof.Machine.execExposureSet r s
  | .obOwnerAccept r => Sys2Proof.Machine.execObOwnerAccept r s
  | .pwrSet r => Sys2Proof.Machine.execPwrSet r s
  | .pwrVote r => Sys2Proof.Machine.execPwrVote r s
  | .partReset r => Sys2Proof.Machine.execPartReset r s
  | .bootCfgSet r => Sys2Proof.Machine.execBootCfgSet r s
  | .calRead r => Sys2Proof.Machine.execCalRead r s
  | .calWrite r => Sys2Proof.Machine.execCalWrite r s
  | .restoreFactory r => Sys2Proof.Machine.execRestoreFactory r s
  | .faultClear r => Sys2Proof.Machine.execFaultClear r s
  | .mapRead r => Sys2Proof.Machine.execMapRead r s
  | .mxList q entry cmd after compVa hall load list cw => Sys2Proof.Machine.execMxList q entry cmd after compVa hall load list cw s
  | .launch q entry cmd after compVa va ind => Sys2Proof.Machine.execLaunch q entry cmd after compVa va ind s
  | .pass q entry cmd after compVa va ind => Sys2Proof.Machine.execPass q entry cmd after compVa va ind s
  | .present q entry cmd after compVa va => Sys2Proof.Machine.execPresent q entry cmd after compVa va s
  | .encode q entry cmd after compVa va => Sys2Proof.Machine.execEncode q entry cmd after compVa va s
  | .decode q entry cmd after compVa va => Sys2Proof.Machine.execDecode q entry cmd after compVa va s
  | .xfer q entry cmd after compVa src dst bytes ind => Sys2Proof.Machine.execXfer q entry cmd after compVa src dst bytes ind s
  | .seqStep q entry cmd after compVa batch list cw => Sys2Proof.Machine.execSeqStep q entry cmd after compVa batch list cw s
  | .seqJoin q entry cmd after compVa batch seq => Sys2Proof.Machine.execSeqJoin q entry cmd after compVa batch seq s
  | .seqLeave q entry cmd after compVa batch seq => Sys2Proof.Machine.execSeqLeave q entry cmd after compVa batch seq s
  | .fenceWait q entry cmd after compVa fence ignoreErr value => Sys2Proof.Machine.execFenceWait q entry cmd after compVa fence ignoreErr value s
  | .fenceSignal q entry cmd after compVa fence value => Sys2Proof.Machine.execFenceSignal q entry cmd after compVa fence value s
  | .mxIssue p w => Sys2Proof.Machine.execMxIssue p w s
  | .mxWait p w => Sys2Proof.Machine.execMxWait p w s
  | .mxTest p w => Sys2Proof.Machine.execMxTest p w s
  | .crOpen p w => Sys2Proof.Machine.execCrOpen p w s
  | .crClose p w => Sys2Proof.Machine.execCrClose p w s
  | .barSync p w => Sys2Proof.Machine.execBarSync p w s
  | .barArrive p w => Sys2Proof.Machine.execBarArrive p w s
  | .fence p w => Sys2Proof.Machine.execFence p w s
  | .shuffle p dst src sel => Sys2Proof.Machine.execShuffle p dst src sel s
  | .vote p dst src kind => Sys2Proof.Machine.execVote p dst src kind s
  | .branch p targets joins => Sys2Proof.Machine.execBranch p targets joins s
  | .endInstruction p => Sys2Proof.Machine.execEndInstruction p s
  | .atomic p op wide loc dst addr src cmp => Sys2Proof.Machine.execAtomic p op wide loc dst addr src cmp s
  | .shaderLoad p dst addr n loc => Sys2Proof.Machine.execShaderLoad p dst addr n loc s
  | .shaderStore p addr src n loc => Sys2Proof.Machine.execShaderStore p addr src n loc s
  | .textureFetch p dst surf cx cy lev filter modeX modeY => Sys2Proof.Machine.execTextureFetch p dst surf cx cy lev filter modeX modeY s
  | .arithmeticInstruction p op dst a b c => Sys2Proof.Machine.execArithmeticInstruction p op dst a b c s
  | .hello f => Sys2Proof.Machine.execHello f s
  | .ack f => Sys2Proof.Machine.execAck f s
  | .keepalive f => Sys2Proof.Machine.execKeepalive f s
  | .close f => Sys2Proof.Machine.execClose f s
  | .openFrame f => Sys2Proof.Machine.execOpen f s
  | .req f => Sys2Proof.Machine.execReq f s
  | .doorbell f => Sys2Proof.Machine.execDoorbell f s
  | .memWrite f => Sys2Proof.Machine.execMemWrite f s
  | .memRead f => Sys2Proof.Machine.execMemRead f s
  | .regRead f => Sys2Proof.Machine.execRegRead f s
  | .regWrite f => Sys2Proof.Machine.execRegWrite f s
  | .getIdentity f => Sys2Proof.Machine.execGetIdentity f s
  | .recovBegin f => Sys2Proof.Machine.execRecovBegin f s
  | .recovData f => Sys2Proof.Machine.execRecovData f s
  | .recovEnd ver f => Sys2Proof.Machine.execRecovEnd ver f s
  | .csiStatClear n v => Sys2Proof.Machine.execCsiStatClear n v s
  | .numStatClear v => Sys2Proof.Machine.execNumStatClear v s
  | .mbxStatClear v => Sys2Proof.Machine.execMbxStatClear v s
  | .mbxSelWrite v => Sys2Proof.Machine.execMbxSelWrite v s
  | .ctxSelWrite v => Sys2Proof.Machine.execCtxSelWrite v s
  | .qSelWrite v => Sys2Proof.Machine.execQSelWrite v s
  | .ringCfgWrite v => Sys2Proof.Machine.execRingCfgWrite v s
  | .firstSrcClear w => Sys2Proof.Machine.execFirstSrcClear w s
  | .errqRptrWrite v => Sys2Proof.Machine.execErrqRptrWrite v s
  | .attCntLoRead => Sys2Proof.Machine.execAttCntLoRead s
  | .registerWriteOther off v => Sys2Proof.Machine.execRegisterWriteOther off v s
  | .tileCycleStart => Sys2Proof.Machine.execTileCycleStart s
  | .hallRunStart h corr bad => Sys2Proof.Machine.execHallRunStart h corr bad s
  | .descriptorStart h => Sys2Proof.Machine.execDescriptorStart h s
  | .descriptorComplete h => Sys2Proof.Machine.execDescriptorComplete h s
  | .hallSlotEnd h passes => Sys2Proof.Machine.execHallSlotEnd h passes s
  | .csiLongPacket port vc dt hdr crcOk px t => Sys2Proof.Machine.execCsiLongPacket port vc dt hdr crcOk px t s
  | .csiFrameStart port vc fnum hdr => Sys2Proof.Machine.execCsiFrameStart port vc fnum hdr s
  | .csiFrameEnd port vc hdr t => Sys2Proof.Machine.execCsiFrameEnd port vc hdr t s
  | .csiLineStart port vc line hdr t => Sys2Proof.Machine.execCsiLineStart port vc line hdr t s
  | .sensLoss st => Sys2Proof.Machine.execSensLoss st s
  | .houseBandHallDone h fault m n run => Sys2Proof.Machine.execHouseBandHallDone h fault m n run s
  | .houseShaderStageDone st frame col row stage => Sys2Proof.Machine.execHouseShaderStageDone st frame col row stage s
  | .baseVersionComplete st frame col row ichkOk => Sys2Proof.Machine.execBaseVersionComplete st frame col row ichkOk s
  | .tileSealed st frame col row => Sys2Proof.Machine.execTileSealed st frame col row s
  | .tileOutputSlot => Sys2Proof.Machine.execTileOutputSlot s
  | .frameStatsArrive => Sys2Proof.Machine.execFrameStatsArrive s
  | .tMArrive => Sys2Proof.Machine.execTMArrive s
  | .rowPoseArrive => Sys2Proof.Machine.execRowPoseArrive s
  | .compositeStart feed tseq => Sys2Proof.Machine.execCompositeStart feed tseq s
  | .compositeComplete feed tseq chkOk => Sys2Proof.Machine.execCompositeComplete feed tseq chkOk s
  | .compositeWindowEnd tseq => Sys2Proof.Machine.execCompositeWindowEnd tseq s
  | .rasterSlotStart verts clipped back => Sys2Proof.Machine.execRasterSlotStart verts clipped back s
  | .rasterSlotEnd => Sys2Proof.Machine.execRasterSlotEnd s
  | .growWaitExpiry ctx => Sys2Proof.Machine.execGrowWaitExpiry ctx s
  | .partialResolveDone ctx frags => Sys2Proof.Machine.execPartialResolveDone ctx frags s
  | .passComplete ctx code core va extra frags => Sys2Proof.Machine.execPassComplete ctx code core va extra frags s
  | .compressionJobStart coder => Sys2Proof.Machine.execCompressionJobStart coder s
  | .coderBlockBoundary coder ecc chkOk => Sys2Proof.Machine.execCoderBlockBoundary coder ecc chkOk s
  | .compressionSlotEnd coder => Sys2Proof.Machine.execCompressionSlotEnd coder s
  | .feedTileCoded feed chkOk crcOk => Sys2Proof.Machine.execFeedTileCoded feed chkOk crcOk s
  | .blockStart launch => Sys2Proof.Machine.execBlockStart launch s
  | .shaderSlotEnd core => Sys2Proof.Machine.execShaderSlotEnd core s
  | .shaderSaveDone core => Sys2Proof.Machine.execShaderSaveDone core s
  | .shaderSlotStart core => Sys2Proof.Machine.execShaderSlotStart core s
  | .collectiveTimeout p => Sys2Proof.Machine.execCollectiveTimeout p s
  | .doorbellTake mbx => Sys2Proof.Machine.execDoorbellTake mbx s
  | .dispatch => Sys2Proof.Machine.execDispatch s
  | .commandComplete => Sys2Proof.Machine.execCommandComplete s
  | .waitLimitExpiry r => Sys2Proof.Machine.execWaitLimitExpiry r s
  | .engineQuiescent q unit => Sys2Proof.Machine.execEngineQuiescent q unit s
  | .newelServiceOpportunity v => Sys2Proof.Machine.execNewelServiceOpportunity v s
  | .flashOpDone => Sys2Proof.Machine.execFlashOpDone s
  | .rsaOpDone => Sys2Proof.Machine.execRsaOpDone s
  | .outboundSend mbx => Sys2Proof.Machine.execOutboundSend mbx s
  | .quiesced queue => Sys2Proof.Machine.execQuiesced queue s
  | .queueStopped queue code => Sys2Proof.Machine.execQueueStopped queue code s
  | .objUnref handle => Sys2Proof.Machine.execObjUnref handle s
  | .axisState axis st cause => Sys2Proof.Machine.execAxisState axis st cause s
  | .throttle level => Sys2Proof.Machine.execThrottle level s
  | .zeroed hall ctx => Sys2Proof.Machine.execZeroed hall ctx s
  | .batch hall batch seq code => Sys2Proof.Machine.execBatch hall batch seq code s
  | .growNotice ctx pass => Sys2Proof.Machine.execGrowNotice ctx pass s
  | .bayFreed ctx => Sys2Proof.Machine.execBayFreed ctx s
  | .slotFreed slot => Sys2Proof.Machine.execSlotFreed slot s
  | .keepaliveExpiry ident => Sys2Proof.Machine.execKeepaliveExpiry ident s
  | .linkUp port master sqi => Sys2Proof.Machine.execLinkUp port master sqi s
  | .ringLinkDown port => Sys2Proof.Machine.execRingLinkDown port s
  | .gptpFrame port offset hops interval master => Sys2Proof.Machine.execGptpFrame port offset hops interval master s
  | .mkaFrame port up sak => Sys2Proof.Machine.execMkaFrame port up sak s
  | .transitFrame f => Sys2Proof.Machine.execTransitFrame f s
  | .syncTimeout => Sys2Proof.Machine.execSyncTimeout s
  | .xseqResend ts => Sys2Proof.Machine.execXseqResend ts s
  | .transportIdleTimeout ts => Sys2Proof.Machine.execTransportIdleTimeout ts s
  | .recovOwnerTimeout => Sys2Proof.Machine.execRecovOwnerTimeout s
  | .tc10SleepRequest port => Sys2Proof.Machine.execTc10SleepRequest port s
  | .tc10Wake port => Sys2Proof.Machine.execTc10Wake port s
  | .wakeIn => Sys2Proof.Machine.execWakeIn s
  | .deviceMemRequest addr n write data => Sys2Proof.Machine.execDeviceMemRequest addr n write data s
  | .deviceMsi vector => Sys2Proof.Machine.execDeviceMsi vector s
  | .readCompletion r off good data => Sys2Proof.Machine.execReadCompletion r off good data s
  | .cplTimeout r off => Sys2Proof.Machine.execCplTimeout r off s
  | .obLinkDown => Sys2Proof.Machine.execObLinkDown s
  | .nvmeCompletion tag status data => Sys2Proof.Machine.execNvmeCompletion tag status data s
  | .nvmeTimeout tag => Sys2Proof.Machine.execNvmeTimeout tag s
  | .nvmeFeedWrite feed => Sys2Proof.Machine.execNvmeFeedWrite feed s
  | .loopTick ins armed => Sys2Proof.Machine.execLoopTick ins armed s
  | .limitInput axis pos active => Sys2Proof.Machine.execLimitInput axis pos active s
  | .driveReadyTimeout axis => Sys2Proof.Machine.execDriveReadyTimeout axis s
  | .brakeTimeElapsed axis => Sys2Proof.Machine.execBrakeTimeElapsed axis s
  | .heaterPeriod ch code readback => Sys2Proof.Machine.execHeaterPeriod ch code readback s
  | .coolantSample inCode outCode => Sys2Proof.Machine.execCoolantSample inCode outCode s
  | .junctionSample quarters => Sys2Proof.Machine.execJunctionSample quarters s
  | .flowUpdate => Sys2Proof.Machine.execFlowUpdate s
  | .throttleFallTimeout => Sys2Proof.Machine.execThrottleFallTimeout s
  | .thermalLockoutEnd => Sys2Proof.Machine.execThermalLockoutEnd s
  | .thermTrip => Sys2Proof.Machine.execThermTrip s
  | .newelHeartbeatLoss => Sys2Proof.Machine.execNewelHeartbeatLoss s
  | .pllLockLost pll => Sys2Proof.Machine.execPllLockLost pll s
  | .faultMessageArrive ms => Sys2Proof.Machine.execFaultMessageArrive ms s
  | .faultMessageHandle => Sys2Proof.Machine.execFaultMessageHandle s
  | .hbmScrub bytes lost made found => Sys2Proof.Machine.execHbmScrub bytes lost made found s
  | .arrayScrub lost made found => Sys2Proof.Machine.execArrayScrub lost made found s
  | .hallArrayTest h lost made failed => Sys2Proof.Machine.execHallArrayTest h lost made failed s
  | .shaderSelfTest core pass lost made => Sys2Proof.Machine.execShaderSelfTest core pass lost made s
  | .wearSample u slack drift days lost made => Sys2Proof.Machine.execWearSample u slack drift days lost made s
  | .zeroing h lost made => Sys2Proof.Machine.execZeroing h lost made s
  | .hbmCalibration lost made => Sys2Proof.Machine.execHbmCalibration lost made s
  | .telemetrySample kind unit a b c skipped => Sys2Proof.Machine.execTelemetrySample kind unit a b c skipped s
  | .frameRetire ch => Sys2Proof.Machine.execFrameRetire ch s
  | .laneRepair ch lane => Sys2Proof.Machine.execLaneRepair ch lane s
  | .spareSubstitution res unit spareOk => Sys2Proof.Machine.execSpareSubstitution res unit spareOk s
  | .powerOnReset => Sys2Proof.Machine.execPowerOnReset s
  | .resetN low => Sys2Proof.Machine.execResetN low s
  | .railFail => Sys2Proof.Machine.execRailFail s
  | .resetRelease imageOk => Sys2Proof.Machine.execResetRelease imageOk s
  | .dynovStart facOk ok0 ok1 bootOk => Sys2Proof.Machine.execDynovStart facOk ok0 ok1 bootOk s
  | .hbmTrainingDone ok failed lanes => Sys2Proof.Machine.execHbmTrainingDone ok failed lanes s
  | .selfTestDone cores lines rows => Sys2Proof.Machine.execSelfTestDone cores lines rows s
  | .freeRunTimeout => Sys2Proof.Machine.execFreeRunTimeout s
  | .domainIdleTimeout d => Sys2Proof.Machine.execDomainIdleTimeout d s
  | .domainPowerDownDone d => Sys2Proof.Machine.execDomainPowerDownDone d s
  | .domainPowerGood d => Sys2Proof.Machine.execDomainPowerGood d s
  | .trstN => Sys2Proof.Machine.execTrstN s
  | .extest => Sys2Proof.Machine.execExtest s
  | .samplePreload bs => Sys2Proof.Machine.execSamplePreload bs s
  | .idcode => Sys2Proof.Machine.execIdcode s
  | .clamp => Sys2Proof.Machine.execClamp s
  | .highz => Sys2Proof.Machine.execHighz s
  | .bypass => Sys2Proof.Machine.execBypass s
  | .hsTransition port clk data lanes rate => Sys2Proof.Machine.execHsTransition port clk data lanes rate s
  | .skewCalibration port => Sys2Proof.Machine.execSkewCalibration port s
  | .obLinkUp rate width => Sys2Proof.Machine.execObLinkUp rate width s
  | .encoderEdge axis dir both z => Sys2Proof.Machine.execEncoderEdge axis dir both z s
  | .flowPulse => Sys2Proof.Machine.execFlowPulse s
  | .alwaysOnSupplyLoss => Sys2Proof.Machine.execAlwaysOnSupplyLoss s
  | .partResetTakesEffect => Sys2Proof.Machine.execPartResetTakesEffect s
  | .fsyncPulseTimer st => Sys2Proof.Machine.execFsyncPulseTimer st s

end Sys2Proof.Machine
end

