-- ==== Sys2Proof/WellFormed.lean ====
section
/-! DEFINITION. Which commands are well formed: every operand lies in the range that its field, its unit's number
or its identity admits. -/

namespace Sys2Proof

/-- A request word's fields (R273), in a request mailbox (R267). -/
def reqWf (r : ReqIn) : Bool :=
  decide (r.mbox < 0x20C ∧ r.stage < 16 ∧ r.seq < 2 ^ 16 ∧ r.rsv < 2 ^ 13 ∧ r.lenW < 2 ^ 11)

/-- A transport frame's header fields (R396) and its length. -/
def frameWf (f : FrameIn) : Bool :=
  decide (f.port < 2 ∧ f.mac < 2 ^ 48 ∧ f.ts < 2 ^ 16 ∧ f.mbx < 2 ^ 12 ∧ f.stage < 16 ∧ f.xseq < 2 ^ 32 ∧ f.xack < 2 ^ 32
    ∧ f.epoch < 2 ^ 32 ∧ f.sealSeq < 2 ^ 64 ∧ f.payload.length ≤ 8960)

/-- A frame for another node. -/
def transitWf (f : TransitIn) : Bool := decide (f.port < 2 ∧ f.hops < 256 ∧ f.dest < 2 ^ 48)

/-- The name of a command: a context or the operator driver, a queue, an entry count, a command index. -/
def refWf (r : CmdRef) : Bool := decide (r.ctx < 0x301 ∧ r.queue < 2048 ∧ r.entry < 2 ^ 32 ∧ r.cmd < 2 ^ 16)

/-- A subset of a resident block's group: 32 cores, at most 32 blocks of at most 32 groups of at most 32 subsets. -/
def threadsWf (p : ThreadsAt) : Bool := decide (p.core < 32 ∧ p.blk < 32 ∧ p.grp < 32 ∧ p.sub < 32)

/-- The fields of a fault message (R448). -/
def faultWf (m : FaultMsg) : Bool :=
  decide (m.source < 2 ^ 12 ∧ m.kind < 256 ∧ m.ctx < 2 ^ 12 ∧ m.queue < 2 ^ 11 ∧ m.arg < 2 ^ 32 ∧ m.cmd < 2 ^ 16)

/-- The place of a queue's command: queue, entry count, command index, COMP_VA of its buffer (R305). -/
def placeWf (q entry cmd compVa : Nat) : Bool := decide (q < 2048 ∧ entry < 2 ^ 32 ∧ cmd < 65536 ∧ compVa < 2 ^ 48)

/-- A command is well formed. -/
def wellFormed (i : Instr) : Bool :=
  match i with
  | .infoGet r => reqWf r
  | .sessionOpen r => reqWf r
  | .sessionClose r => reqWf r
  | .sessionRekey r => reqWf r
  | .attest r => reqWf r
  | .operatorEnrol r => reqWf r
  | .operatorRelease r => reqWf r
  | .seccfgSet r => reqWf r
  | .fwStage r => reqWf r
  | .fwCommit r => reqWf r
  | .svnRaise r => reqWf r
  | .macsecCakSet r => reqWf r
  | .ctxCreate r => reqWf r
  | .ctxDestroy r => reqWf r
  | .ctxNumeric r => reqWf r
  | .ctxFaultRead r => reqWf r
  | .memAlloc r => reqWf r
  | .memMap r => reqWf r
  | .memUnmap r => reqWf r
  | .memFree r => reqWf r
  | .memGrant r => reqWf r
  | .memRevoke r => reqWf r
  | .sysGrant r => reqWf r
  | .binDonate r => reqWf r
  | .binPoolSet r => reqWf r
  | .errqSet r => reqWf r
  | .tlmSet r => reqWf r
  | .dsRetain r => reqWf r
  | .queueCreate r => reqWf r
  | .queueDestroy r => reqWf r
  | .queueReset r => reqWf r
  | .fenceCreate r => reqWf r
  | .fenceDestroy r => reqWf r
  | .fenceSet r => reqWf r
  | .fenceClear r => reqWf r
  | .fenceExport r => reqWf r
  | .fenceImport r => reqWf r
  | .fenceQuery r => reqWf r
  | .seqBatchCreate r => reqWf r
  | .seqBatchDestroy r => reqWf r
  | .cmpSlotAlloc r => reqWf r
  | .cmpSlotFree r => reqWf r
  | .houseConfig r => reqWf r
  | .houseStart r => reqWf r
  | .houseStop r => reqWf r
  | .testMode r => reqWf r
  | .setNumMode r => reqWf r
  | .ttLoad r => reqWf r
  | .schedLoad r => reqWf r
  | .feedBind r => reqWf r
  | .feedCode r => reqWf r
  | .rasBaysSet r => reqWf r
  | .obConfig r => reqWf r
  | .obWindowGrant r => reqWf r
  | .nvmeRead r _ _ => reqWf r
  | .axisEnable r => reqWf r
  | .axisDisable r => reqWf r
  | .axisClear r => reqWf r
  | .axisMove r => reqWf r
  | .axisMode r => reqWf r
  | .heatConfig r => reqWf r
  | .exposureSet r => reqWf r
  | .obOwnerAccept r => reqWf r
  | .pwrSet r => reqWf r
  | .pwrVote r => reqWf r
  | .partReset r => reqWf r
  | .bootCfgSet r => reqWf r
  | .calRead r => reqWf r
  | .calWrite r => reqWf r
  | .restoreFactory r => reqWf r
  | .faultClear r => reqWf r
  | .mapRead r => reqWf r
  | .mxList q entry cmd _ compVa hall _ list cw => placeWf q entry cmd compVa && decide (hall < 4 ∧ list < 2 ^ 48 ∧ cw < 2 ^ 48)
  | .launch q entry cmd _ compVa va ind => (ind.all fun v => decide (v.getD 0 < 2 ^ 32)) && placeWf q entry cmd compVa && decide (va < 2 ^ 48)
  | .pass q entry cmd _ compVa va ind => (ind.all fun v => decide (v.getD 0 < 2 ^ 32)) && placeWf q entry cmd compVa && decide (va < 2 ^ 48)
  | .present q entry cmd _ compVa va => placeWf q entry cmd compVa && decide (va < 2 ^ 48)
  | .encode q entry cmd _ compVa va => placeWf q entry cmd compVa && decide (va < 2 ^ 48)
  | .decode q entry cmd _ compVa va => placeWf q entry cmd compVa && decide (va < 2 ^ 48)
  | .xfer q entry cmd _ compVa src dst bytes ind => (ind.all fun v => decide (v.getD 0 < 2 ^ 32)) && placeWf q entry cmd compVa && decide (src < 2 ^ 48 ∧ dst < 2 ^ 48 ∧ bytes < 2 ^ 32)
  | .seqStep q entry cmd _ compVa batch list cw => placeWf q entry cmd compVa && decide (batch < 64 ∧ list < 2 ^ 48 ∧ cw < 2 ^ 48)
  | .seqJoin q entry cmd _ compVa batch seq => placeWf q entry cmd compVa && decide (batch < 64 ∧ seq < 1024)
  | .seqLeave q entry cmd _ compVa batch seq => placeWf q entry cmd compVa && decide (batch < 64 ∧ seq < 1024)
  | .fenceWait q entry cmd _ compVa fence _ value => placeWf q entry cmd compVa && decide (fence < 16384 ∧ value < 2 ^ 64)
  | .fenceSignal q entry cmd _ compVa fence value => placeWf q entry cmd compVa && decide (fence < 16384 ∧ value < 2 ^ 64)
  | .mxIssue p _ => threadsWf p
  | .mxWait p _ => threadsWf p
  | .mxTest p _ => threadsWf p
  | .crOpen p _ => threadsWf p
  | .crClose p _ => threadsWf p
  | .barSync p _ => threadsWf p
  | .barArrive p _ => threadsWf p
  | .fence p _ => threadsWf p
  | .shuffle p dst src sel => threadsWf p && decide (dst < 256 ∧ src < 256 ∧ sel < 256)
  | .vote p dst src kind => threadsWf p && decide (dst < 256 ∧ src < 256 ∧ kind < 8)
  | .branch p _ _ => threadsWf p
  | .endInstruction p => threadsWf p
  | .atomic p _ _ _ dst addr src cmp => threadsWf p && decide (dst < 256 ∧ addr < 256 ∧ src < 256 ∧ cmp < 256)
  | .shaderLoad p dst addr _ _ => threadsWf p && decide (dst < 256 ∧ addr < 256)
  | .shaderStore p addr src _ _ => threadsWf p && decide (addr < 256 ∧ src < 256)
  | .textureFetch p dst surf cx cy lev _ _ _ => threadsWf p && decide (dst < 256 ∧ surf < 256 ∧ cx < 256 ∧ cy < 256 ∧ lev < 256)
  | .arithmeticInstruction p _ dst a b c => threadsWf p && decide (dst < 256 ∧ a < 256 ∧ b < 256 ∧ c < 256)
  | .hello f => frameWf f
  | .ack f => frameWf f
  | .keepalive f => frameWf f
  | .close f => frameWf f
  | .openFrame f => frameWf f
  | .req f => frameWf f
  | .doorbell f => frameWf f
  | .memWrite f => frameWf f
  | .memRead f => frameWf f
  | .regRead f => frameWf f
  | .regWrite f => frameWf f
  | .getIdentity f => frameWf f
  | .recovBegin f => frameWf f
  | .recovData f => frameWf f
  | .recovEnd _ f => frameWf f
  | .csiStatClear n _ => decide (n < 4)
  | .numStatClear _ => true
  | .mbxStatClear _ => true
  | .mbxSelWrite _ => true
  | .ctxSelWrite _ => true
  | .qSelWrite _ => true
  | .ringCfgWrite _ => true
  | .firstSrcClear _ => true
  | .errqRptrWrite _ => true
  | .attCntLoRead => true
  | .registerWriteOther off _ => decide (off < 65536)
  | .tileCycleStart => true
  | .hallRunStart h _ _ => decide (h < 4)
  | .descriptorStart h => decide (h < 4)
  | .descriptorComplete h => decide (h < 4)
  | .hallSlotEnd h _ => decide (h < 4)
  | .csiLongPacket port vc dt _ _ _ _ => decide (port < 4 ∧ vc < 32 ∧ dt < 64)
  | .csiFrameStart port vc _ _ => decide (port < 4 ∧ vc < 32)
  | .csiFrameEnd port vc _ _ => decide (port < 4 ∧ vc < 32)
  | .csiLineStart port vc _ _ _ => decide (port < 4 ∧ vc < 32)
  | .sensLoss st => decide (st < 2)
  | .houseBandHallDone h fault _ _ _ => decide (h < 4 ∧ fault < 4)
  | .houseShaderStageDone st frame _ _ _ => decide (st < 2 ∧ frame < 65536)
  | .baseVersionComplete st frame _ _ _ => decide (st < 2 ∧ frame < 65536)
  | .tileSealed st frame _ _ => decide (st < 2 ∧ frame < 65536)
  | .tileOutputSlot => true
  | .frameStatsArrive => true
  | .tMArrive => true
  | .rowPoseArrive => true
  | .compositeStart feed _ => decide (feed < 32)
  | .compositeComplete feed _ _ => decide (feed < 32)
  | .compositeWindowEnd _ => true
  | .rasterSlotStart _ _ _ => true
  | .rasterSlotEnd => true
  | .growWaitExpiry ctx => decide (ctx < 520)
  | .partialResolveDone ctx _ => decide (ctx < 520)
  | .passComplete ctx code core va _ _ => decide (ctx < 520 ∧ code < 256 ∧ core < 32 ∧ va < 2 ^ 48)
  | .compressionJobStart coder => decide (coder < 8)
  | .coderBlockBoundary coder _ _ => decide (coder < 8)
  | .compressionSlotEnd coder => decide (coder < 8)
  | .feedTileCoded feed _ _ => decide (feed < 32)
  | .blockStart _ => true
  | .shaderSlotEnd core => decide (core < 32)
  | .shaderSaveDone core => decide (core < 32)
  | .shaderSlotStart core => decide (core < 32)
  | .collectiveTimeout p => threadsWf p
  | .doorbellTake mbx => decide (mbx < 2573)
  | .dispatch => true
  | .commandComplete => true
  | .waitLimitExpiry r => refWf r
  | .engineQuiescent q unit => decide (q < 2048 ∧ unit < 128)
  | .newelServiceOpportunity v => decide (v.mismatches ≤ 2) && decide (v.odd ≤ 2)
  | .flashOpDone => true
  | .rsaOpDone => true
  | .outboundSend mbx => decide (mbx < 2573)
  | .quiesced queue => decide (queue < 2048)
  | .queueStopped queue code => decide (queue < 2048 ∧ code < 256)
  | .objUnref handle => decide (handle < 2 ^ 32)
  | .axisState axis st cause => decide (axis < 6 ∧ st < 8 ∧ cause < 16)
  | .throttle level => decide (level < 4)
  | .zeroed hall ctx => decide (hall < 4 ∧ ctx < 520)
  | .batch hall batch seq code => decide (hall < 4 ∧ batch < 64 ∧ seq < 1024 ∧ code < 256)
  | .growNotice ctx pass => decide (ctx < 520 ∧ pass < 64)
  | .bayFreed ctx => decide (ctx < 520)
  | .slotFreed slot => decide (slot < 256)
  | .keepaliveExpiry ident => decide (ident < 769)
  | .linkUp port _ sqi => decide (port < 2 ∧ sqi < 8)
  | .ringLinkDown port => decide (port < 2)
  | .gptpFrame port _ _ _ _ => decide (port < 2)
  | .mkaFrame port _ _ => decide (port < 2)
  | .transitFrame f => transitWf f
  | .syncTimeout => true
  | .xseqResend ts => decide (ts < 65536)
  | .transportIdleTimeout ts => decide (ts < 65536)
  | .recovOwnerTimeout => true
  | .tc10SleepRequest port => decide (port < 2)
  | .tc10Wake port => decide (port < 2)
  | .wakeIn => true
  | .deviceMemRequest _ _ _ _ => true
  | .deviceMsi vector => decide (vector < 32)
  | .readCompletion r off _ _ => refWf r && decide (off < 2 ^ 32)
  | .cplTimeout r off => refWf r && decide (off < 2 ^ 32)
  | .obLinkDown => true
  | .nvmeCompletion _ status _ => decide (status < 3)
  | .nvmeTimeout _ => true
  | .nvmeFeedWrite feed => decide (feed < 32)
  | .loopTick _ _ => true
  | .limitInput axis _ _ => decide (axis < 6)
  | .driveReadyTimeout axis => decide (axis < 6)
  | .brakeTimeElapsed axis => decide (axis < 6)
  | .heaterPeriod ch code _ => decide (ch < 2 ∧ code < 4096)
  | .coolantSample inCode outCode => decide (inCode < 4096 ∧ outCode < 4096)
  | .junctionSample _ => true
  | .flowUpdate => true
  | .throttleFallTimeout => true
  | .thermalLockoutEnd => true
  | .thermTrip => true
  | .newelHeartbeatLoss => true
  | .pllLockLost pll => decide (pll < 8)
  | .faultMessageArrive ms => ms.all faultWf
  | .faultMessageHandle => true
  | .hbmScrub bytes _ _ _ => decide (bytes < 2 ^ 32)
  | .arrayScrub _ _ _ => true
  | .hallArrayTest h _ _ _ => decide (h < 4)
  | .shaderSelfTest core _ _ _ => decide (core < 32)
  | .wearSample _ _ _ _ _ _ => true
  | .zeroing h _ _ => decide (h < 4)
  | .hbmCalibration _ _ => true
  | .telemetrySample _ _ _ _ _ _ => true
  | .frameRetire ch => decide (ch < 64)
  | .laneRepair ch lane => decide (ch < 64 ∧ lane < 64)
  | .spareSubstitution _ _ _ => true
  | .powerOnReset => true
  | .resetN _ => true
  | .railFail => true
  | .resetRelease _ => true
  | .dynovStart _ _ _ _ => true
  | .hbmTrainingDone _ failed lanes => decide (failed.1 < 64 ∧ failed.2 < 64) && lanes.all fun p => decide (p.1 < 64 ∧ p.2 < 64)
  | .selfTestDone _ _ _ => true
  | .freeRunTimeout => true
  | .domainIdleTimeout d => decide (d < 12)
  | .domainPowerDownDone d => decide (d < 12)
  | .domainPowerGood d => decide (d < 12)
  | .trstN => true
  | .extest => true
  | .samplePreload _ => true
  | .idcode => true
  | .clamp => true
  | .highz => true
  | .bypass => true
  | .hsTransition port _ _ lanes _ => decide (port < 4 ∧ lanes < 16)
  | .skewCalibration port => decide (port < 4)
  | .obLinkUp _ _ => true
  | .encoderEdge axis _ _ _ => decide (axis < 6)
  | .flowPulse => true
  | .alwaysOnSupplyLoss => true
  | .partResetTakesEffect => true
  | .fsyncPulseTimer st => decide (st < 2)

end Sys2Proof
end

