-- ==== Sys2Proof/Safety.lean ====
section
/-! DEFINITION. What counts as a safe run, in the terms the statements use. -/

namespace Sys2Proof.Machine
open Sys2Proof

/-- Every waiting command is well formed. -/
def queueWf (s : State) : Bool := s.pending.all wellFormed

/-- The model's data keep their form: the queue holds well-formed commands, and device memory lists rising
addresses with no byte that reads as an unlisted one does. -/
def stateWf (s : State) : Bool := queueWf s && memWf s.mem.cells

/-- A run of `n` steps that stays safe: every step answers a next state, and every state on the way is well
formed. -/
def safeRun : Nat → State → Bool
  | 0, s => stateWf s
  | n + 1, s => stateWf s && match step s with
    | .next t => safeRun n t
    | .fault _ => false
    | .refused _ => false

end Sys2Proof.Machine
end

