-- ==== Sys2Proof/Certificates/Slice0/Obligations.lean ====
section
/-! DEFINITION. The statements for the provers: what commands do, in the specification's words, where they complete,
what they leave unchanged, and the invariants that every step keeps. -/

namespace Sys2Proof.Machine
open Sys2Proof

/-! ### Words the statements share -/

/-- The requester of a request. -/
def asker (r : ReqIn) : Nat := mbxIdent r.mbox

/-- The request completed with OK: its effect and then its reply with these result words. -/
def answeredOk (sp : ReqSpec) (r : ReqIn) (t : State) (ws : List Word) : Out :=
  .next (sendReply t sp.op r sp.flight cOK 0 ws)

/-- No pass of the raster back end waits for pages. -/
def noStall (s : State) : Bool := s.rs.ctx.all fun q => q.2.passes.all fun p => p.stalledAt == none

/-- The house object that SYS_GRANT names: a frame ring that has frames (0, 1), or the pose ring (2). -/
def houseObject (s : State) (k : Nat) : Option Nat :=
  if k < 2 then ((s.hp.rings[k]?).bind fun x => if x.frames = 0 then none else some x.obj)
  else if k = 2 ∧ s.pw.houseCtxReady = true then some s.hp.poseRing else none

/-- A handle unsets a ring, or names an object of the operator driver that holds it. -/
def namesRing (s : State) (h n : Nat) : Bool :=
  h == 0 || match findObj s h with
    | some (_, o) => o.owner == 0x300 && decide (n ≤ o.bytes)
    | none => false

/-- Nothing holds a command of the queue back (R300, R310, R312, R484): the queue is ACTIVE, AFTER finds nothing outstanding, its
engine has room and the domains of the engine are at power-good. -/
def freeToRun (s : State) (q : Nat) (after : Bool) (x : Queue) (c : Cmd) : Bool :=
  queueOf s q == some x && x.st == .active && (!after || x.out == []) && engineRoom s x.owner c
    && (engineDomains (cmdUnit s x.owner c)).all fun d => (domOf s d).pwr == 2

/-- The queue with one more command outstanding, at a unit (R303, R317). -/
def sent (x : Queue) (r : CmdRef) (op unit compVa now : Nat) : Queue :=
  { x with out := x.out ++ [⟨r, op, unit, compVa, now, 0, 0, false⟩] }

/-- Only Concourse queues, domain votes and one engine's state differ. -/
def queueFrame (s t : State) : State := { s with pw := { s.pw with doms := t.pw.doms }, cc := { s.cc with queues := t.cc.queues } }

/-- The subset at a place may issue its next instruction (R142, R144); its launch. -/
def issues (s : State) (p : ThreadsAt) (x : Subset) (l : Launch) : Bool :=
  subAt s p == some x && canIssue s p && x.wait == .run && (launchAt s p).map Prod.snd == some l

/-- The registers of the block at a place, thread by thread. -/
def blockRegs (s : State) (p : ThreadsAt) : List (List Word) := ((blockAt s p).map Block.regs).getD []

/-- Registers after register r of the lanes of a group's mask was written. -/
def written (rs : List (List Word)) (grp mask r : Nat) (v : Nat → Word) : List (List Word) :=
  rs.mapIdx fun i x => if i / 32 = grp ∧ mask / 2 ^ (i % 32) % 2 = 1 then x.set r (v (i % 32)) else x

/-- Registers after each lane of a group's mask got words from register r on. -/
def writtenWords (rs : List (List Word)) (grp mask r : Nat) (v : Nat → List Nat) : List (List Word) :=
  rs.mapIdx fun i x => if i / 32 = grp ∧ mask / 2 ^ (i % 32) % 2 = 1 then
    ((v (i % 32)).zipIdx.foldl (fun x w => x.set (r + w.2) (BitVec.ofNat 32 w.1)) x) else x

/-- A core's data cache takes n more lines without giving one up, and no stored bit has changed. -/
def cacheRoom (s : State) (c n : Nat) : Bool := decide ((coreOf s c).cache.length + n ≤ cacheLines (coreOf s c)) && s.mem.upsets == []

/-- Every core but one is as it was. -/
def otherCores (s t : State) (c : Nat) : Bool := (List.range 32).all fun k => k == c || coreOf t k == coreOf s k

/-- A collective instruction of the subset is the last arrival in its open region: the members (R146, R148). -/
def lastArrival (s : State) (p : ThreadsAt) (x : Subset) (l : Launch) (m : Nat) : Bool :=
  issues s p x l && match groupAt s p with
    | some g => inRegion g x.lanes && g.region.map Prod.fst == some m && (g.subsets.all fun y => y.wait != .coll || y.pc == x.pc)
        && g.subsets.foldl (fun a y => if y.wait = .coll ∨ y.lanes = x.lanes then a ||| y.lanes else a) 0 == m
    | none => false

/-- No launch has ended all its blocks. -/
def noLaunchEnds (s : State) : Bool := s.sh.launches.all fun q => decide (q.2.ended < threads q.2.grid)

/-- No queue waits for a fence. -/
def noBlocked (s : State) : Bool := s.cc.queues.all fun p => p.2.st != .blocked

/-- The Hall serves an MX_LIST entry at the front of its queue, whose last descriptor runs and writes no completion word. -/
def lastOfList (s : State) (h : Nat) (e : HEntry) (r : Running) : Bool :=
  let x := hallOf s h
  decide (h < 4) && s.mh.halls.length == 4 && x.busy && (hq x (slotLoad x) x.ctx).entries.head? == some e && (hq x (slotLoad x) x.ctx).run == some r
    && e.single == [] && e.cwVa == 0 && e.ref.ctx == x.ctx && dLast r.words && noLaunchEnds s

/-- Newel's mailbox of a block holds exactly this notice, and the block holds no other. -/
def holdsNotice (s : State) (mbx code arg : Nat) : Bool :=
  newelRuns s && (mbxOf s mbx).full && (mbxOf s mbx).word == stampWord ((mbxWriter mbx).getD 0) (fld 44 8 code + fld 0 44 arg)
    && tgetD s.nw.heldNotices mbx [] == []

/-- The mailbox taken: FULL and COLLISION are clear, the word and the count stay (R268). -/
def taken (s : State) (mbx : Nat) : State :=
  { s with nw := { s.nw with mbx := tput s.nw.mbx mbx { mbxOf s mbx with full := false, coll := false } } }

/-- No session of the part is near the end of its SEAL_SEQ (R365). -/
def sealRoom (s : State) : Bool := s.sec.sess.all fun p => decide (p.2.txSeq + 8 < 2 ^ 48 - 2 ^ 32)

/-- A client's frame passes its port's checks, its header, its transport session and its seal; the session and the part's run may
take its type (R389, R390, R396 to R398, R364). -/
def passes (s : State) (t : Nat) (f : FrameIn) (x : TSess) : Bool :=
  let m := macIngress s f.port f.fcsOk f.protect f.icvOk f.pn (exemptType t f.isSealed)
  m.2 && f.hdrOk && tsOf s f.ts == some x && (x.st != .full || (openSeal m.1 x.ident f).2) && typeOk s x.st t
    && (!f.isSealed || x.st == .full) && sealRoom s && s.pw.st == .run && s.pw.entering == none

/-- A sequenced frame that passes and is next in order (R399). -/
def inOrder (s : State) (t : Nat) (f : FrameIn) (x : TSess) : Bool := passes s t f x && f.xseq == nextXseq x.xack

/-- The part's last frame is of this type on the session, with this payload (R397). -/
def sentLast (t : State) (ts type : Nat) (bs : List Byte) : Bool :=
  match t.ring.tx.getLast? with
  | some f => f.ts == ts && f.type == type && f.payload == bs
  | none => false

/-- The register window maps a register at this offset (R532, the register tables of chapters 00 to 16). -/
def mappedReg (off : Nat) : Bool :=
  let within (a b : Nat) : Bool := decide (a ≤ off ∧ off < b)
  off % 4 == 0 &&
    (off == 0 || within 0x1000 0x1054 || within 0x1080 0x1090 || within 0x1200 0x1210 || within 0x1220 0x1228 || within 0x1300 0x1320
      || within 0x1400 0x1408 || within 0x1500 0x1580 || off == 0x1600 || within 0x1610 0x1618 || within 0x1620 0x1628 || off == 0x1630
      || within 0x1700 0x170C || within 0x1780 0x1808 || within 0x1880 0x1908 || within 0x1910 0x191C || within 0x1A00 0x1A0C
      || within 0x1A10 0x1A20 || within 0x1B00 0x1B0C || within 0x1B10 0x1B30 || off == 0x1C00 || within 0x1C08 0x1C10 || within 0x1D00 0x1D0C
      || within 0x1D10 0x1D18 || within 0x1D20 0x1D34 || within 0x1D40 0x1D48 || within 0x1E00 0x1E18 || within 0x1E20 0x1E38
      || within 0x1E40 0x1E48 || within 0x1E50 0x1E58 || within 0x1F00 0x1F14 || within 0x1F20 0x1F2C || off == 0x1F30
      || within 0x1F40 0x1F94 || within 0x2000 0x200C || within 0x2010 0x2040)

/-- Offsets whose register has a bit that a write changes (R532). -/
def writableRegs : List Nat :=
  [0x1200, 0x1204, 0x1208, 0x120C, 0x1404, 0x1910, 0x1914, 0x1A10, 0x1A18, 0x1D00, 0x1F00, 0x1F24]

/-- A background activity's bookkeeping after work that lost `lost` of its share and made up `made` (R347, R348). -/
def bgAfter (s : State) (b : BgAct) (lost made : Nat) : BgAct :=
  { b with shortfall := b.shortfall + lost - made,
           makeups := if b.due = true ∧ inMaint s = true ∧ 0 < b.shortfall ∧ b.shortfall + lost ≤ made then min (b.makeups + 1) 0xFFFF else b.makeups }

/-- The state with an activity's bookkeeping replaced. -/
def withBg (s : State) (i : Nat) (b : BgAct) : State := { s with tt := { s.tt with bg := s.tt.bg.set i b } }

end Sys2Proof.Machine

open Sys2Proof Sys2Proof.Machine

/-- What a reply is (R273, R276, R526): with the outbound mailbox of the requester empty and nothing queued, the word
stands in it with its fields; the staging entry is free and holds the result block; an OK reply is kept for
duplicates, another clears the record; nothing but Newel's own state changes. -/
def Obligations.ReplyProtocol : Prop :=
  ∀ (s : State) (op : Nat) (r : ReqIn) (fl : Bool) (st d : Nat) (ws : List Word),
    (mbxOf s (outMbx r.mbox)).full = false → tgetD s.nw.outq (outMbx r.mbox) [] = [] →
    let t := sendReply s op r fl st d ws
    (mbxOf t (outMbx r.mbox)).full = true
    ∧ (mbxOf t (outMbx r.mbox)).word = replyWord op r.stage r.seq st r.coll false d
    ∧ (tgetD t.nw.stage (stageKey (asker r) r.stage) default).held = false
    ∧ (st = cOK → ws ≠ [] → (tgetD t.nw.stage (stageKey (asker r) r.stage) default).block = sizeVer (4 * (ws.length + 1)) :: ws)
    ∧ (st = cOK → (tget t.nw.recs r.mbox).bind ReqRec.reply = some (replyWord op r.stage r.seq st r.coll false d))
    ∧ (st ≠ cOK → tget t.nw.recs r.mbox = none)
    ∧ t = { s with nw := t.nw }

/-- INFO_GET, SESSION_CLOSE, SESSION_REKEY and ATTEST complete with their results (R12, R365 to R368): a context's SESSION_CLOSE starts
its teardown; the operator's ends its session after the reply and tears no context down; the reserved certificate and signature bytes
are the model's opaque values. -/
def Obligations.SessionRequests : Prop :=
  (∀ r s, accepted specInfoGet r s = true →
    exec (.infoGet r) s = answeredOk specInfoGet r s
      [0x342D5642, 0x2D303832, 0x0030514C, 0, reg [fld 0 8 0xB0, fld 16 16 s.sec.running.svn], s.sec.running.dynovVer,
       BitVec.ofNat 32 (ifVerOf s (asker r)), BitVec.ofNat 32 (imageId s), BitVec.ofNat 32 (incarnOf s (asker r)),
       BitVec.ofNat 32 (tgetD s.nw.lost (asker r) 0)])
  ∧ (∀ r s, accepted specSessionClose r s = true → asker r ≠ 0x300 →
    exec (.sessionClose r) s = answeredOk specSessionClose r (startTeardown s (asker r) 0) [])
  ∧ (∀ r s x, accepted specSessionRekey r s = true → sessOf s (asker r) = some x →
    (isCtx (asker r) = true → ctxState s (asker r) ≠ .teardown) → x.rekeyWait = false → x.txSwitch = false →
    exec (.sessionRekey r) s = answeredOk specSessionRekey r
      { s with sec := { s.sec with sess := tput s.sec.sess (asker r) { x with rekeyWait := true, txSwitch := true, rekeySent := false } } }
      [BitVec.ofNat 32 (x.txEpoch + 1)])
  ∧ (∀ r s, accepted specAttest r s = true →
    exec (.attest r) s = answeredOk specAttest r
      { s with free := s.free + 1,
               sec := { s.sec with attCount := s.sec.attCount + 1,
                                   attMark := if s.sec.attMark ≤ s.sec.attCount + 2 then s.sec.attMark + 65536 else s.sec.attMark } }
      (bytesWords (reportBytes (nextCount s) (asker r) (blkBytes r.block 4 64)
        ++ pad 512 (Config.signature s.free (reportBytes (nextCount s) (asker r) (blkBytes r.block 4 64))))))
  ∧ (∀ r s, accepted specSessionClose r s = true → asker r = 0x300 →
    ∃ t, exec (.sessionClose r) s = .next t ∧ sessOf t 0x300 = none ∧ t.cx = s.cx ∧ t.cc = s.cc ∧ t.mem = s.mem)

/-- SESSION_OPEN that passes its checks makes the provisional binding full, the context ACTIVE, and returns the
part's nonce, the interface version and the incarnation (R360, R361, R282). -/
def Obligations.SessionOpens : Prop :=
  ∀ r s x, accepted specSessionOpen r s = true → sessOf s (asker r) = some x → x.full = false →
    bits (wd r.block 1) 11 0 = asker r → s.sec.skeyReady = true →
    pad 64 (Config.sha512 (blkBytes r.block 0x230 0x204)) = pad 64 (ownerDigest s (asker r)) →
    r.ver.sigOk = true → r.ver.unwrapOk = true →
    ifSelected s (bits (wd r.block 2) 15 0) (bits (wd r.block 2) 31 16) = true →
    ∃ t, exec (.sessionOpen r) s = .next t
      ∧ (sessOf t (asker r)).map (fun (y : Session) => (y.full, y.keyed, y.txEpoch, y.rxEpoch, y.ts)) = some (true, true, 0, 0, x.ts)
      ∧ (isCtx (asker r) = true → ∀ c, ctxOf s (asker r) = some c → ctxOf t (asker r) = some { c with st := .active })
      ∧ t.mem = s.mem ∧ t.cc = s.cc

/-- The security requests: enrolment binds the operator, a release clears its digest, SECCFG_SET writes the
configuration, an image is staged and committed, the minimum version rises, a CAK is set (R371 to R375, R389). -/
def Obligations.SecurityRequests : Prop :=
  (∀ r s x, accepted specOperatorEnrol r s = true → asker r = 0x300 → sessOf s 0x300 = some x → x.full = false →
    enrolled s = false → r.ver.sigOk = true →
    ∃ t, exec (.operatorEnrol r) s = .next t
      ∧ t.sec.cfg.operatorDigest = pad 64 (Config.sha512 (blkBytes r.block 4 0x204))
      ∧ (sessOf t 0x300).map Session.full = some true ∧ t.cx = s.cx ∧ t.mem = s.mem)
  ∧ (∀ r s, accepted specOperatorRelease r s = true → asker r = 0x300 → bound s 0x300 = true → r.lenW < 2 → tenantsLive s = false →
    exec (.operatorRelease r) s = answeredOk specOperatorRelease r
      { s with sec := { s.sec with cfg := { s.sec.cfg with operatorDigest := zero64 } } } [])
  ∧ (∀ r s, accepted specSeccfgSet r s = true → tenantsLive s = false → wd r.block 2 = 0x01000100 →
    ∃ t, exec (.seccfgSet r) s = answeredOk specSeccfgSet r t (bytesWords (secDigest t))
      ∧ t = { s with sec := { s.sec with cfg := { s.sec.cfg with macsecReq := bit (wd r.block 1) 0, ifMin := 0x0100, ifMax := 0x0100,
                                                                 etherType := bits (wd r.block 3) 15 0 } } })
  ∧ (∀ r s, accepted specFwStage r s = true → (wd r.block 2).toNat % 4 = 0 → (wd r.block 2).toNat ≤ 4084 →
    (wd r.block 1).toNat + (wd r.block 2).toNat ≤ 2 ^ 24 →
    exec (.fwStage r) s = answeredOk specFwStage r
      { s with sec := { s.sec with fwStage := memPutN s.sec.fwStage (wd r.block 1).toNat (blkBytes r.block 12 (wd r.block 2).toNat) } } [])
  ∧ (∀ r s im, accepted specFwCommit r s = true → parseImage s s.sec.fwStage r.ver = some im →
    exec (.fwCommit r) s = answeredOk specFwCommit r { s with sec := { s.sec with fw := im } } [im.dynovVer, BitVec.ofNat 32 im.svn])
  ∧ (∀ r s, accepted specSvnRaise r s = true →
    exec (.svnRaise r) s = answeredOk specSvnRaise r
      { s with sec := { s.sec with minSvn := max s.sec.minSvn (min 64 s.sec.running.svn) } }
      [BitVec.ofNat 32 (max s.sec.minSvn (min 64 s.sec.running.svn))])
  ∧ (∀ r s, accepted specMacsecCakSet r s = true →
    exec (.macsecCakSet r) s = answeredOk specMacsecCakSet r
      { s with ring := { s.ring with ports := s.ring.ports.modify (bits (wd r.block 1) 0 0) fun x =>
        { x with ckn := blkBytes r.block 8 16, cak := blkBytes r.block 24 32 } } } [])

/-- CTX_CREATE, CTX_DESTROY, CTX_NUMERIC and CTX_FAULT_READ (R293, R294, R322, R124): the new context, its
incarnation number and key pair; the teardown begun; the NaN trap; the fault record read and, when asked, cleared. -/
def Obligations.ContextRequests : Prop :=
  (∀ r s, accepted specCtxCreate r s = true →
    let b := r.block
    let id := bits (wd b 1) 11 0
    let q : Quota := ⟨(wd b 18).toNat, (wd b 19).toNat, (wd b 20).toNat, dwd b 21, (wd b 23).toNat, (wd b 24).toNat⟩
    deepEntry s = false → isTenant id = true ∨ (0x201 ≤ id ∧ id ≤ 0x207) → ctxState s id = .free → quotaOk q = true →
    quotaSumsOk s q = true →
    exec (.ctxCreate r) s = answeredOk specCtxCreate r
      { s with cx := { s.cx with ctxs := tput s.cx.ctxs id ⟨.created, q, blkBytes b 8 64, s.cx.incarnNext, false, [], [], [], 0, 0, []⟩,
                                 incarnNext := s.cx.incarnNext + 1, keys := tput s.cx.keys id ⟨Config.randomBytes s.free 64, true⟩,
                                 maps := tput s.cx.maps id [] },
               free := s.free + 1 }
      [BitVec.ofNat 32 s.cx.incarnNext])
  ∧ (∀ r s c, accepted specCtxDestroy r s = true →
    let id := bits (wd r.block 1) 11 0
    isTenant id = true ∨ (0x201 ≤ id ∧ id ≤ 0x207) → ctxOf s id = some c → c.st = .created ∨ c.st = .active →
    exec (.ctxDestroy r) s = answeredOk specCtxDestroy r
      { s with cx := { s.cx with ctxs := tmod s.cx.ctxs id fun c => { c with st := .teardown, tearCause := 2 } },
               nw := { s.nw with flights := (s.nw.flights.filter fun f => !(f.kind == .request && f.mbox == id && f.op != 0x21))
                 ++ [⟨0x300, 0x310, 0, default, .teardown id 2, .ready, [.ctx id], 0⟩] } } [])
  ∧ (∀ r s, accepted specCtxNumeric r s = true →
    exec (.ctxNumeric r) s = answeredOk specCtxNumeric r
      { s with cx := { s.cx with ctxs := tmod s.cx.ctxs (asker r) fun c => { c with nanTrap := bit (wd r.block 1) 0 } } } [])
  ∧ (∀ r s c, accepted specCtxFaultRead r s = true → ctxOf s (asker r) = some c → bits (wd r.block 1) 1 0 = 2 →
    exec (.ctxFaultRead r) s = answeredOk specCtxFaultRead r
      (if bit (wd r.block 1) 2 then { s with cx := { s.cx with ctxs := tput s.cx.ctxs (asker r) { c with memRec := [] } } } else s)
      (if c.memRec = [] then sizeVer 48 :: List.replicate 11 0 else c.memRec))
/-- MEM_ALLOC takes frames from the free pool, zeroed, and returns the new handle; MEM_MAP and MEM_UNMAP change the
requester's mappings; MEM_FREE makes the handle stale and reports an unreferenced object; MEM_GRANT and MEM_REVOKE
change the grants and the grantees' mappings (R295 to R298). -/
def Obligations.MemoryRequests : Prop :=
  (∀ r s slot runs rest, accepted specMemAlloc r s = true →
    let bytes := dwd r.block 1
    bit (wd r.block 3) 0 = false → bits (wd r.block 3) 2 1 < 2 → bytes ≠ 0 → bytes % 65536 = 0 → s.pw.hbmReady = true →
    objQuotaOk s (asker r) bytes = true → nextObjSlot s = some slot → takeFrames s.cx.freeFrames (bytes / 65536) = some (runs, rest) →
    exec (.memAlloc r) s = answeredOk specMemAlloc r
      { s with cx := { s.cx with objs := tput s.cx.objs slot ⟨nextGen s slot, .live, asker r, bytes, false, bits (wd r.block 3) 2 1, runs, [], 0, 0⟩,
                                 freed := s.cx.freed.filter (fun x => x != slot), freeFrames := rest },
               mem := { s.mem with cells := memClearRuns s.mem.cells runs } }
      [BitVec.ofNat 32 (nextGen s slot * 65536 + slot)])
  ∧ (∀ r s slot o, accepted specMemMap r s = true → needObj s (asker r) (wd r.block 1).toNat = .ok (slot, o) →
    let perm := bits (wd r.block 2) 2 0
    let va := dwd r.block 3
    let off := dwd r.block 5
    let ln := if dwd r.block 7 = 0 then o.bytes - off else dwd r.block 7
    0x10000 ≤ va → va + ln ≤ 0xFFFF00000000 → va % pageOf o = 0 → off % pageOf o = 0 → ln % pageOf o = 0 → off < o.bytes →
    off + ln ≤ o.bytes → ((tgetD s.cx.maps (asker r) []).any fun m => overlaps m va ln) = false →
    ¬ (perm / 4 = 1 ∧ perm / 2 % 2 = 1) → mayMap o (asker r) perm = true →
    exec (.memMap r) s = answeredOk specMemMap r
      { s with cx := { s.cx with maps := tput s.cx.maps (asker r) (tgetD s.cx.maps (asker r) [] ++ [⟨va, ln, slot, off, perm⟩]) } } [])
  ∧ (∀ r s, accepted specMemUnmap r s = true →
    let va := dwd r.block 1
    let ln := dwd r.block 3
    let ms := tgetD s.cx.maps (asker r) []
    va % 65536 = 0 → ln % 65536 = 0 → 0x10000 ≤ va → va + ln ≤ 0xFFFF00000000 →
    (ms.any fun m => splitsBig s m va || splitsBig s m (va + ln)) = false →
    let u := settleRange s (asker r) va (va + ln)
    exec (.memUnmap r) s = answeredOk specMemUnmap r
      { u with cx := { u.cx with maps := tput u.cx.maps (asker r) (ms.flatMap fun m => cutMap m va (va + ln)) } } [])
  ∧ (∀ r s, accepted specMemUnmap r s = true →
    let va := dwd r.block 1
    let ln := dwd r.block 3
    let ms := tgetD s.cx.maps (asker r) []
    va % 65536 = 0 → ln % 65536 = 0 → 0x10000 ≤ va → va + ln ≤ 0xFFFF00000000 →
    (ms.any fun m => splitsBig s m va || splitsBig s m (va + ln)) = false →
    ((List.range 8).all fun k => (hq (hallOf s (k / 2)) (k % 2 == 1) (asker r)).run == none) = true →
    (s.sh.cores.all fun c => c.cache == [] && c.tex == []) = true →
    exec (.memUnmap r) s = answeredOk specMemUnmap r
      { s with cx := { s.cx with maps := tput s.cx.maps (asker r) (ms.flatMap fun m => cutMap m va (va + ln)) } } [])
  ∧ (∀ r s slot o, accepted specMemFree r s = true → needOwn s (asker r) (wd r.block 1).toNat = .ok (slot, o) → holdsQueue s slot = false →
    let t := { s with cx := { s.cx with objs := tput s.cx.objs slot { o with st := .freeing } } }
    exec (.memFree r) s = answeredOk specMemFree r (if objRefd t slot then t else notify t 0x210 0x03 (handleOf slot o)) [])
  ∧ (∀ r s slot o, accepted specMemGrant r s = true → needOwn s (asker r) (wd r.block 1).toNat = .ok (slot, o) →
    let g := bits (wd r.block 2) 11 0
    let p := bits (wd r.block 3) 1 0
    granteeCheck s (asker r) g = none → p = 1 ∨ p = 3 →
    ((tgetD s.cx.maps g []).all fun m => m.slot != slot || (m.perm &&& p) == m.perm) = true →
    exec (.memGrant r) s = answeredOk specMemGrant r
      { s with cx := { s.cx with
          objs := tput s.cx.objs slot { o with grants := tput o.grants g p },
          maps := tmod s.cx.maps g fun ms => ms.map fun m => if m.slot = slot then { m with perm := m.perm &&& p } else m } } [])
  ∧ (∀ r s slot o, accepted specMemGrant r s = true → needOwn s (asker r) (wd r.block 1).toNat = .ok (slot, o) →
    let g := bits (wd r.block 2) 11 0
    let p := bits (wd r.block 3) 1 0
    granteeCheck s (asker r) g = none → p = 1 ∨ p = 3 →
    ((tgetD s.cx.maps g []).any fun m => m.slot == slot && (m.perm &&& p) != m.perm) = true →
    let u := settleObj { s with cx := { s.cx with objs := tput s.cx.objs slot { o with grants := tput o.grants g p } } } slot (some g)
    exec (.memGrant r) s = answeredOk specMemGrant r
      { u with cx := { u.cx with
          maps := tmod u.cx.maps g fun ms => ms.map fun m => if m.slot = slot then { m with perm := m.perm &&& p } else m } } [])
  ∧ (∀ r s slot o, accepted specMemRevoke r s = true → needOwn s (asker r) (wd r.block 1).toNat = .ok (slot, o) →
    let g := bits (wd r.block 2) 11 0
    g ≠ 0xFFF → (o.grants.map Prod.fst).filter (fun x => x == g) = [g] →
    exec (.memRevoke r) s = answeredOk specMemRevoke r
      (unmapObj { s with cx := { s.cx with objs := tput s.cx.objs slot { o with grants := o.grants.filter fun q => q.1 != g } } }
        slot (some g)) [])
/-- The operator's objects: SYS_GRANT grants a house ring for reading; ERRQ_SET and TLM_SET unset or name their ring;
DS_RETAIN names what Deep Sleep keeps (R54, R297, R461, R471, R482). -/
def Obligations.OperatorObjects : Prop :=
  (∀ r s sl o, accepted specSysGrant r s = true → houseObject s (wd r.block 1).toNat = some sl → objOf s sl = some o →
    granteeCheck s 0x300 (bits (wd r.block 2) 11 0) = none →
    exec (.sysGrant r) s = answeredOk specSysGrant r
      { s with cx := { s.cx with objs := tput s.cx.objs sl { o with grants := tput o.grants (bits (wd r.block 2) 11 0) 1 } } }
      [BitVec.ofNat 32 (handleOf sl o)])
  ∧ (∀ r s, accepted specErrqSet r s = true →
    namesRing s (wd r.block 1).toNat 131072 = true →
    exec (.errqSet r) s = answeredOk specErrqSet r { s with fc := { s.fc with errqObj := (wd r.block 1).toNat } } [])
  ∧ (∀ r s, accepted specTlmSet r s = true →
    namesRing s (wd r.block 1).toNat 1048576 = true →
    exec (.tlmSet r) s = answeredOk specTlmSet r { s with fc := { s.fc with tlmObj := (wd r.block 1).toNat } } [])
  ∧ (∀ r s (os : List (Nat × Obj)), accepted specDsRetain r s = true →
    let hs := ((r.block.drop 2).take (wd r.block 1).toNat).map BitVec.toNat
    (wd r.block 1).toNat ≤ 96 → hs.map (findObj s) = os.map some →
    (∀ p ∈ os, p.2.owner = 0x300 ∧ p.2.big = false ∧ p.2.policy ≠ 2) → (os.map fun p => p.2.bytes / 65536).sum ≤ 96 →
    exec (.dsRetain r) s = answeredOk specDsRetain r { s with pw := { s.pw with dsRetain := hs } } [])

/-- Bin storage and bays: BIN_DONATE frees an object and adds its frames to the grow reserve; BIN_POOL_SET moves pages
between the reserve and a context's pool; RAS_BAYS_SET grants free Gallery bays, or takes them back while no tiled pass
runs (R213, R214). BIN_POOL_SET giving what the reserve has is the model's reading (log entry 43). -/
def Obligations.BinStorage : Prop :=
  (∀ r s slot o, accepted specBinDonate r s = true → needOwn s (asker r) (wd r.block 1).toNat = .ok (slot, o) → o.big = false →
    o.policy ≠ 2 → holdsQueue s slot = false → objRefd s slot = false → noStall s = true → settleObj s slot none = s →
    ∃ t, exec (.binDonate r) s = answeredOk specBinDonate r t [BitVec.ofNat 32 (sat 0xFFFF (s.cx.reserve + runCount o.runs))]
      ∧ t.cx.reserve = s.cx.reserve + runCount o.runs ∧ t.cx.reserveRuns = addRuns s.cx.reserveRuns o.runs
      ∧ (objOf t slot).map Obj.st = some .free ∧ t.mem.cells = memClearRuns s.mem.cells o.runs
      ∧ t = { s with cx := t.cx, mem := t.mem, ob := t.ob })
  ∧ (∀ r s, accepted specBinPoolSet r s = true →
    let c := bits (wd r.block 1) 11 0
    let n := (wd r.block 2).toNat
    let x := rasOf s c
    isCtx c = true → n ≤ 65535 → n = 0 ∨ 16 ≤ n → ctxState s c = .created ∨ ctxState s c = .active → noStall s = true → x.passes = [] →
    let more := min s.cx.reserve (n - x.pool)
    let now := if n < x.pool then min x.pool (max n (if x.used = 0 then 0 else max 16 x.used)) else if x.pool + more < 16 then x.pool else x.pool + more
    ∃ t, exec (.binPoolSet r) s = answeredOk specBinPoolSet r t [BitVec.ofNat 32 now]
      ∧ (rasOf t c).pool = now ∧ t.cx.reserve + now = s.cx.reserve + x.pool
      ∧ (∀ d, d ≠ c → rasOf t d = rasOf s d)
      ∧ t = { s with cx := { s.cx with reserve := t.cx.reserve }, rs := { s.rs with ctx := t.rs.ctx } })
  ∧ (∀ r s, accepted specRasBaysSet r s = true →
    let c := bits (wd r.block 1) 11 0
    let n := (wd r.block 2).toNat
    let x := rasOf s c
    let add := (freeBays s).reverse.take (n - x.bays.length)
    isCtx c = true → n ≤ 256 → ctxState s c = .created ∨ ctxState s c = .active → x.bays.length ≤ n →
    n - x.bays.length ≤ (freeBays s).length →
    exec (.rasBaysSet r) s = answeredOk specRasBaysSet r
      { s with gal := { s.gal with bays := add.foldl (fun t b => tput t b ⟨c, []⟩) s.gal.bays },
               rs := { s.rs with ctx := tput s.rs.ctx c { x with bays := x.bays ++ add, grant := n, want := n } } }
      [BitVec.ofNat 32 n])
  ∧ (∀ r s, accepted specRasBaysSet r s = true →
    let c := bits (wd r.block 1) 11 0
    let n := (wd r.block 2).toNat
    let x := rasOf s c
    isCtx c = true → ctxState s c = .created ∨ ctxState s c = .active → n < x.bays.length → x.bays.length ≤ 256 → tiledRuns x = false →
    ∃ t, exec (.rasBaysSet r) s = answeredOk specRasBaysSet r t [BitVec.ofNat 32 n]
      ∧ (rasOf t c).bays = x.bays.take n ∧ (rasOf t c).grant = n
      ∧ (∀ b ∈ x.bays.drop n, tget t.gal.bays b = none)
      ∧ t = { s with gal := t.gal, rs := { s.rs with ctx := t.rs.ctx }, nw := t.nw })

/-- QUEUE_CREATE takes the lowest free identity and writes the status record; QUEUE_DESTROY stops dispatch, marks what is out and writes the
record again (R299, R301, R320). -/
def Obligations.QueueRequests : Prop :=
  (∀ r s q ro so, accepted specQueueCreate r s = true →
    let b := r.block
    let x : Queue := ⟨.active, asker r, dwd b 1, (wd b 3).toNat, dwd b 4, (wd b 6).toNat, ro, so, 0, 0, 0, [], [], none, 0, 0, 0, true, [], false⟩
    dwd b 1 % 4096 = 0 → 4 ≤ (wd b 3).toNat → (wd b 3).toNat ≤ 16 → dwd b 4 % 64 = 0 → 1 ≤ (wd b 6).toNat → (wd b 6).toNat ≤ 600000 →
    liveRange s (asker r) (dwd b 1) (32 * 2 ^ (wd b 3).toNat) = some ro → liveRange s (asker r) (dwd b 4) 64 = some so →
    asker r = 0x300 ∨ ownedQueues s (asker r) < ((ctxOf s (asker r)).map fun c => c.quota.queues).getD 0 →
    tfree s.cc.queues 2048 = some q →
    exec (.queueCreate r) s = answeredOk specQueueCreate r
      (writeStatus { s with cc := { s.cc with queues := tput s.cc.queues q x } } q)
      [BitVec.ofNat 32 q])
  ∧ (∀ r s x, accepted specQueueDestroy r s = true → needQueue s (asker r) (wd r.block 1).toNat = .ok x → x.st ≠ .destroying →
    (∃ o ∈ x.out, o.op ≠ 0x11) →
    let q := (wd r.block 1).toNat
    exec (.queueDestroy r) s = answeredOk specQueueDestroy r
      { writeStatus { s with cc := { s.cc with queues := tput s.cc.queues q { x with
            st := .destroying, wait := none, aborting := ((x.out.filter fun o => o.op != 0x11).map fun o => o.unit).eraseDups,
            out := x.out.map fun o => { o with aborted := true } } } } q with
               nw := { s.nw with flights := s.nw.flights ++ [⟨r.mbox, asker r, 0x21, r, .request, .engine, [.queue q], 0⟩] } } [])

/-- The fence requests: the lowest free identity with its initial value; destroy; VALUE raised, never lowered; STATUS
cleared by its owner; export, import and query (R313 to R315). -/
def Obligations.FenceRequests : Prop :=
  (∀ r s f, accepted specFenceCreate r s = true →
    asker r = 0x300 ∨ ownedFences s (asker r) < ((ctxOf s (asker r)).map fun c => c.quota.fences).getD 0 →
    tfree s.cc.fences 16384 = some f →
    exec (.fenceCreate r) s = answeredOk specFenceCreate r
      { s with cc := { s.cc with fences := tput s.cc.fences f ⟨asker r, dwd r.block 1, .ok, [], []⟩ } } [BitVec.ofNat 32 f])
  ∧ (∀ r s x, accepted specFenceDestroy r s = true → needFence s (asker r) (wd r.block 1).toNat true = .ok x →
    fenceNamed s (wd r.block 1).toNat = false →
    exec (.fenceDestroy r) s = answeredOk specFenceDestroy r
      { s with cc := { s.cc with fences := tdel s.cc.fences (wd r.block 1).toNat } } [])
  ∧ (∀ r s x, accepted specFenceSet r s = true → needFence s (asker r) (wd r.block 1).toNat false = .ok x →
    fenceRight x (asker r) / 2 = 1 →
    exec (.fenceSet r) s = answeredOk specFenceSet r
      (wake { s with cc := { s.cc with fences := tmod s.cc.fences (wd r.block 1).toNat fun x => { x with value := max x.value (dwd r.block 2) } } }) [])
  ∧ (∀ r s x, accepted specFenceClear r s = true → needFence s (asker r) (wd r.block 1).toNat true = .ok x →
    exec (.fenceClear r) s = answeredOk specFenceClear r
      { s with cc := { s.cc with fences := tmod s.cc.fences (wd r.block 1).toNat fun x => { x with st := .ok } } } [])
  ∧ (∀ r s x, accepted specFenceExport r s = true → needFence s (asker r) (wd r.block 1).toNat true = .ok x →
    let g := bits (wd r.block 2) 11 0
    let p := bits (wd r.block 3) 1 0
    granteeCheck s (asker r) g = none → p = 1 ∨ p = 3 →
    exec (.fenceExport r) s = answeredOk specFenceExport r
      { s with cc := { s.cc with fences := tmod s.cc.fences (wd r.block 1).toNat fun x => { x with exports := tput x.exports g p } } } [])
  ∧ (∀ r s x p, accepted specFenceImport r s = true → fenceOf s (wd r.block 1).toNat = some x → tget x.exports (asker r) = some p →
    exec (.fenceImport r) s = answeredOk specFenceImport r
      { s with cc := { s.cc with fences := tmod s.cc.fences (wd r.block 1).toNat fun x => { x with imports := tput x.imports (asker r) p } } }
      [BitVec.ofNat 32 p])
  ∧ (∀ r s x, accepted specFenceQuery r s = true → needFence s (asker r) (wd r.block 1).toNat false = .ok x →
    exec (.fenceQuery r) s = answeredOk specFenceQuery r s [lo32 x.value, hi32 x.value, BitVec.ofNat 32 (fenceStCode x.st)])

/-- Sequence batches and compression slots: a batch is created in the lowest free slot and destroyed with its waiting
requests cancelled (code 0x52); a compression slot is assigned EMPTY and, with no job of its own, freed at once (R96, R98,
R248, R261). -/
def Obligations.BatchAndSlotRequests : Prop :=
  (∀ r s k, accepted specSeqBatchCreate r s = true →
    let b := r.block
    let x : Batch := ⟨asker r, (wd b 1).toNat, (wd b 2).toNat, (wd b 3).toNat, (wd b 4).toNat, (wd b 5).toNat,
                      (wd b 6).toNat, (wd b 7).toNat, (wd b 8).toNat, [], []⟩
    let size := (regionOf s x.hall (asker r)).aSize * 65536
    x.hall < 4 → 256 ≤ x.s → x.s ≤ 4096 → x.s % 256 = 0 → 1 ≤ x.p → x.p ≤ x.q → x.q ≤ 1024 → 1 ≤ x.jmax → x.jmax ≤ 1024 →
    x.pool % 256 = 0 → x.tab % 256 = 0 → x.tpl = 0xFFFFFFFF ∨ (x.tpl % 256 = 0 ∧ x.tpl + x.s ≤ size) →
    x.pool + x.p * x.s ≤ size → x.tab + 4 + 2 * x.q ≤ size →
    (s.mh.batches.filter fun p => p.2.ctx == asker r).length < ((ctxOf s (asker r)).map fun c => c.quota.batches).getD 0 →
    tfree s.mh.batches 64 = some k →
    exec (.seqBatchCreate r) s = answeredOk specSeqBatchCreate r
      { s with mh := { s.mh with batches := tput s.mh.batches k x } } [BitVec.ofNat 32 k])
  ∧ (∀ r s x, accepted specSeqBatchDestroy r s = true → batchOf s (wd r.block 1).toNat = some x → x.ctx = asker r →
    exec (.seqBatchDestroy r) s = answeredOk specSeqBatchDestroy r
      { s with mh := { s.mh with batches := tdel s.mh.batches (wd r.block 1).toNat },
               cc := { s.cc with done := s.cc.done ++ x.waiting.map fun j => (j.ref, 0x52, 0) } } [])
  ∧ (∀ r s k, accepted specCmpSlotAlloc r s = true →
    (s.cm.slots.filter fun p => p.2.owner == asker r).length < ((ctxOf s (asker r)).map fun c => c.quota.cmpSlots).getD 0 →
    tfree s.cm.slots 256 = some k →
    exec (.cmpSlotAlloc r) s = answeredOk specCmpSlotAlloc r
      { s with cm := { s.cm with slots := tput s.cm.slots k ⟨asker r, .empty, false, 0, [], []⟩ } } [BitVec.ofNat 32 k])
  ∧ (∀ r s x, accepted specCmpSlotFree r s = true → cmpSlotOf s (wd r.block 1).toNat = some x → x.owner = asker r → x.freeing = false →
    exec (.cmpSlotFree r) s = answeredOk specCmpSlotFree r
      (settleSlot { s with cm := { s.cm with slots := tput s.cm.slots (wd r.block 1).toNat { x with freeing := true } } } (wd r.block 1).toNat) [])
/-- The house requests: HOUSE_CONFIG puts a checked configuration in force with its frame rings and answers the pool and
NET_ID; HOUSE_START and HOUSE_STOP take effect at the next frame boundary; TEST_MODE and SET_NUM_MODE set the numeric mode
(R34, R122, R494, R527). -/
def Obligations.HouseRequests : Prop :=
  (∀ r s u, accepted specHouseConfig r s = true →
    let d0 := (r.block.drop 1).take 16
    let d1 := (r.block.drop 17).take 16
    let e0 := bits (wd r.block 33) 3 0
    let e1 := bits (wd r.block 33) 7 4
    wd r.block 34 = 0 → s.hp.running = false → s.hp.starting = false → streamStruct r.block 1 = none → streamStruct r.block 17 = none →
    houseCheck [d0, d1] [e0, e1] = none → makeRings [(e0, d0), (e1, d1)] (dropRings s) = some u →
    exec (.houseConfig r) s = answeredOk specHouseConfig r
      { u with hp := { u.hp with cfg := some ⟨[d0, d1], [e0, e1], 0, poolBays [d0, d1], Config.netId 0⟩, stopped := false },
               tt := { u.tt with set := u.tt.set && !u.hp.stopped } }
      [BitVec.ofNat 32 (poolBays [d0, d1]), Config.netId 0])
  ∧ (∀ r s, accepted specHouseStart r s = true → s.hp.cfg.isSome = true → s.tt.set = true → s.hp.running = false →
    s.hp.starting = false → s.pw.st = .run → s.ring.gSync = true ∨ bit (wd r.block 1) 0 = true →
    exec (.houseStart r) s = answeredOk specHouseStart r
      { s with hp := { s.hp with starting := true, freeRun := bit (wd r.block 1) 0 } } [])
  ∧ (∀ r s, accepted specHouseStop r s = true → s.hp.running = true →
    exec (.houseStop r) s = answeredOk specHouseStop r { s with hp := { s.hp with stopping := true } } [])
  ∧ (∀ r s, accepted specTestMode r s = true → s.hp.running = false → s.hp.starting = false →
    exec (.testMode r) s = answeredOk specTestMode r { s with num := { s.num with svc := 2 } } [])
  ∧ (∀ r s, accepted specSetNumMode r s = true → s.num.svc ≠ 0 →
    exec (.setNumMode r) s = answeredOk specSetNumMode r { s with num := { s.num with keep := bit (wd r.block 1) 0 } } [])

/-- TT_LOAD stores an admitted image as pending and fixes RATE and EPOCH_NS; SCHED_LOAD stores a checked schedule image for
the requester, to take its place at the next activation (R333, R334, R337). -/
def Obligations.TimetableRequests : Prop :=
  (∀ r s slot o h es place u, accepted specTtLoad r s = true → needOwn s (asker r) (wd r.block 1).toNat = .ok (slot, o) →
    s.hp.cfg.isSome = true →
    let off := (wd r.block 2).toNat
    let rate := bits (wd h 1) 2 0
    let n := bits (wd h 2) 13 0
    let epoch := dwd h 4
    let outA := bits (wd h 6) 20 0
    objStruct s o off 64 ttHeadRsv = .ok h → n ≤ 8192 → off + 64 + 16 * n ≤ o.bytes →
    (readEntries s o off n 0 []).toOption = some es → rate ≤ 5 → s.tt.set = false ∨ (rate = s.tt.rate ∧ epoch = s.tt.epoch) →
    (admitted { s with tt := { s.tt with rate := rate } } rate outA es).toOption = some place → reserveSaves s (saveKeys s es) = some u →
    exec (.ttLoad r) s = answeredOk specTtLoad r
      { u with tt := { u.tt with set := true, rate := rate, epoch := epoch,
                                 pendingImg := some ⟨rate, (wd h 3).toNat, epoch, outA, es, objRead s o off (64 + 16 * n), place⟩ } } [])
  ∧ (∀ r s slot o x, accepted specSchedLoad r s = true → needOwn s (asker r) (wd r.block 1).toNat = .ok (slot, o) →
    (readSched false s (asker r) o (wd r.block 2).toNat).toOption = some x →
    exec (.schedLoad r) s = answeredOk specSchedLoad r
      { s with tt := { s.tt with schedNext := tput s.tt.schedNext (asker r) x } } [])

/-- FEED_BIND binds a feed with no presents and, for the first feed, takes the eight bays of the composite ring; with EN 0
the feed ends at the next frame boundary. FEED_CODE starts coding on the coder with the most spare time and stops it (R228,
R235, R256). -/
def Obligations.FeedRequests : Prop :=
  (∀ r s, accepted specFeedBind r s = true →
    let w := (r.block.drop 1).take 16
    let d := hdesc s (fStream w)
    let x := winOf (wd w 3)
    deepEntry s = false → structOk w 64 feedRsv = none → fEn w = true → fdDiv w ≠ 3 → 1 ≤ fSpan8 w → fSpan8 w ≤ 12 →
    isCtx (fOwner w) = true → ctxState s (fOwner w) = .created ∨ ctxState s (fOwner w) = .active → feedOf s (fFeed w) = none →
    hEn d = true → ((s.hp.cfg.map HouseCfg.exports).getD []).getD (fStream w) 0 ≠ 0 → x.1 ≤ x.2.1 → x.2.2.1 ≤ x.2.2.2 →
    x.2.1 < hCols d → x.2.2.2 < hRows d → galleryFits s ((w, []) :: boundFeeds s) = true → s.rs.compRing = [] →
    8 ≤ (freeBays s).length →
    exec (.feedBind r) s = answeredOk specFeedBind r
      { s with rs := { s.rs with compRing := (freeBays s).reverse.take 8,
                                 feeds := tput s.rs.feeds (fFeed w) ⟨true, false, w, [], none, [], [], false, none, [], 0, []⟩ },
               gal := { s.gal with bays := ((freeBays s).reverse.take 8).foldl (fun t b => tput t b ⟨0x310, []⟩) s.gal.bays } } [])
  ∧ (∀ r s f, accepted specFeedBind r s = true →
    let w := (r.block.drop 1).take 16
    deepEntry s = false → structOk w 64 feedRsv = none → fEn w = false → feedOf s (fFeed w) = some f → s.tt.set = true →
    exec (.feedBind r) s = answeredOk specFeedBind r
      { s with rs := { s.rs with feeds := tmod s.rs.feeds (fFeed w) fun f => { f with ending := true } } } [])
  ∧ (∀ r s f c, accepted specFeedCode r s = true →
    let w := wd r.block 1
    let k := bits w 4 0
    let y : FeedCode := ⟨c, bits w 8 6, bits w 13 11, bits w 10 9, 0, bits w 16 16, dwd r.block 2 % 2 ^ 48, (wd r.block 4).toNat, 0, [], 0, [], [], none⟩
    feedOf s k = some f → bit w 5 = true → bits w 8 6 < 6 → bits w 15 14 = 0 → wd r.block 4 ≠ 0 → feedCodeOf s k = none →
    pickCoder s k = some c → qLe (qAdd (coderLoad s c k) (feedLoad s k (bits w 13 11))) (qInt 1080000000) = true →
    qLe (s.cm.feeds.foldl (fun q p => qAdd q (qMul (feedTps s p.1) (qInt 16384))) (qMul (feedTps s k) (qInt 16384))) (qInt 81920000000) = true →
    qLe (s.cm.feeds.foldl (fun q p => if p.2.sink = 0 ∧ p.2.port = bits w 16 16 then qAdd q (wireRate s p.1 p.2.ratio p.2.depth) else q)
        (wireRate s k (bits w 8 6) (bits w 10 9))) (qInt 8000000000) = true →
    exec (.feedCode r) s = answeredOk specFeedCode r
      { s with cm := { s.cm with feeds := tput s.cm.feeds k y } } [BitVec.ofNat 32 c])
  ∧ (∀ r s f g, accepted specFeedCode r s = true →
    let k := bits (wd r.block 1) 4 0
    feedOf s k = some f → bit (wd r.block 1) 5 = false → feedCodeOf s k = some g →
    exec (.feedCode r) s = answeredOk specFeedCode r
      { s with cm := { s.cm with feeds := tdel s.cm.feeds k }, ob := { s.ob with sinks := s.ob.sinks.filter fun x => x.feed != k } }
      [BitVec.ofNat 32 g.coder])

/-- The Outbound Port's requests: the mode with the device's reset and clock, a WINDOW object over a BAR range, NVMe data
read into the operator driver's memory, and the device owner's acceptance (R408, R409, R413). -/
def Obligations.OutboundRequests : Prop :=
  (∀ r s, accepted specObConfig r s = true →
    let m := bits (wd r.block 1) 1 0
    let o := bits (wd r.block 1) 27 16
    deepEntry s = false → obBusy s = false → m < 3 → m ≠ s.ob.mode → (m = 2 → isCtx o = true ∧ ctxLives s o = true) →
    exec (.obConfig r) s = answeredOk specObConfig r
      { s with ob := { s.ob with mode := m, owner := if m = 2 then o else 0, accepted := false, link := false, rate := 0, width := 0 },
               pw := { s.pw with pins := { s.pw.pins with obPerstN := if m = 0 then .low else .high, pcieRefClk := m != 0 } } } [])
  ∧ (∀ r s slot, accepted specObWindowGrant r s = true →
    let c := bits (wd r.block 1) 11 0
    let bar := bits (wd r.block 2) 2 0
    let off := dwd r.block 3
    let n := dwd r.block 5
    s.ob.mode = 2 → isCtx c = true → n ≠ 0 → off % 65536 = 0 → n % 65536 = 0 → ctxLives s c = true →
    (s.ob.windows.any fun w => w.bar == bar && decide (w.off < off + n ∧ off < w.off + w.len)) = false → objQuotaOk s c 0 = true →
    nextObjSlot s = some slot →
    exec (.obWindowGrant r) s = answeredOk specObWindowGrant r
      (sendEvent
        { s with cx := { s.cx with objs := tput s.cx.objs slot ⟨nextGen s slot, .live, c, n, false, 2, [], [], bar, off⟩,
                                   freed := s.cx.freed.filter fun x => x != slot },
                 ob := { s.ob with windows := s.ob.windows ++ [⟨c, slot, bar, off, n⟩] } }
        c 0x87 c (nextGen s slot * 65536 + slot)) [BitVec.ofNat 32 (nextGen s slot * 65536 + slot)])
  ∧ (∀ r data s ps, accepted (specNvmeRead true data) r s = true → nvmeCheck s r = none →
    (translateN s 0x300 (dwd r.block 5) data.length 2).toOption = some ps →
    exec (.nvmeRead r true data) s = answeredOk (specNvmeRead true data) r
      (writeLines { s with mem := { s.mem with cells := putBytes s.mem.cells ps data } } ps) [])
  ∧ (∀ r s, accepted specObOwnerAccept r s = true → s.ob.mode = 2 → s.ob.owner = asker r →
    exec (.obOwnerAccept r) s = answeredOk specObOwnerAccept r { s with ob := { s.ob with accepted := bit (wd r.block 1) 0 } } [])

/-- The motion requests, each on the axes of its mask in ascending order: AXIS_ENABLE takes the axis records into force and
ENABLING, AXIS_DISABLE starts the safe stop with cause REQUEST, AXIS_CLEAR waits for limits and drive, AXIS_MOVE gives the
targets to the next tick; the modes of AX4 and AX5, the exposure and a heater's next parameters (R426 to R429, R436, R437). -/
def Obligations.MotionRequests : Prop :=
  (∀ r s, accepted specAxisEnable r s = true → deepEntry s = false →
    (maskAxes (wd r.block 1)).all (fun i => axisRecordOk i (calRec s 2 i) && encRecordOk (calRec s 3 i) && (!encBiss (calRec s 3 i) || r.ver.bissOk)) = true →
    (maskAxes (wd r.block 1)).all (fun i => (axisOf s i).st == 0) = true → s.mc.crit = false → s.mc.lockout = false →
    exec (.axisEnable r) s = answeredOk specAxisEnable r ((maskAxes (wd r.block 1)).foldl enableAxis s) [])
  ∧ (∀ r s, accepted specAxisDisable r s = true → (maskAxes (wd r.block 1)).all (fun i => live (axisOf s i)) = true →
    exec (.axisDisable r) s = answeredOk specAxisDisable r ((maskAxes (wd r.block 1)).foldl (fun s i => setAxis s i 3 1) s) [])
  ∧ (∀ r s, accepted specAxisClear r s = true → (maskAxes (wd r.block 1)).all (fun i => (axisOf s i).st == 4) = true →
    exec (.axisClear r) s = answeredOk specAxisClear r
      ((maskAxes (wd r.block 1)).foldl (fun s i => clearAxis (modAxis s i fun a => { a with clearing := true }) i) s) [])
  ∧ (∀ r s, accepted specAxisMove r s = true →
    (maskAxes (wd r.block 1)).all (fun i => f32Finite (wd r.block (2 + i)).toNat && !towardLimit (axisOf s i) (prmQ r.block (2 + i))
      && !(axisOf s i).auto) = true →
    exec (.axisMove r) s = answeredOk specAxisMove r
      ((maskAxes (wd r.block 1)).foldl (fun s i => modAxis s i fun a => { a with next := some (prmQ r.block (2 + i)) }) s) [])
  ∧ (∀ r s, accepted specAxisMode r s = true →
    exec (.axisMode r) s = answeredOk specAxisMode r
      (modAxis (modAxis s 4 fun a => { a with auto := bit (wd r.block 1) 0 }) 5 fun a => { a with auto := bit (wd r.block 1) 1 }) [])
  ∧ (∀ r s, accepted specHeatConfig r s = true → heatRanges r.block = true →
    let ps := (if bit (wd r.block 1) 1 then 1 else 0) :: (List.range 8).map fun i => (wd r.block (2 + i)).toNat
    exec (.heatConfig r) s = answeredOk specHeatConfig r
      { s with mc := { s.mc with heaters := upd s.mc.heaters (bits (wd r.block 1) 0 0) fun h => { h with next := some ps } } } [])
  ∧ (∀ r s, accepted specExposureSet r s = true → 64 ≤ bits (wd r.block 1) 27 16 → bits (wd r.block 1) 27 16 ≤ 2048 →
    bit (wd r.block 1) 0 = true →
    exec (.exposureSet r) s = answeredOk specExposureSet r
      { s with mc := { s.mc with manual := true, gain := bits (wd r.block 1) 27 16 }, hp := { s.hp with gains := [] } } [])
  ∧ (∀ r s, accepted specExposureSet r s = true → 64 ≤ bits (wd r.block 1) 27 16 → bits (wd r.block 1) 27 16 ≤ 2048 →
    bit (wd r.block 1) 0 = false →
    exec (.exposureSet r) s = answeredOk specExposureSet r { s with mc := { s.mc with manual := false } } [])

/-- PWR_SET to the state the part is in does nothing; from Run to Idle, Sleep, Deep Sleep or Off it enters that state;
PWR_VOTE sets the operator votes of the named domains; PART_RESET waits for its reply; BOOT_CFG_SET stores a checked record
(R478, R480, R482, R484, R486, R493). -/
def Obligations.PowerRequests : Prop :=
  (∀ r s, accepted specPwrSet r s = true → s.pw.st = .run → bits (wd r.block 1) 2 0 = 0 →
    exec (.pwrSet r) s = answeredOk specPwrSet r s [])
  ∧ (∀ r s, accepted specPwrSet r s = true → s.pw.st = .run → bits (wd r.block 1) 2 0 = 1 → entryRefused s r.mbox 1 = none →
    s.pw.entering = none →
    exec (.pwrSet r) s = answeredOk specPwrSet r { powerTo s .idle 0 with tt := { s.tt with gated := true } } [])
  ∧ (∀ r s, accepted specPwrSet r s = true → s.pw.st = .run → bits (wd r.block 1) 2 0 = 2 → entryRefused s r.mbox 2 = none →
    s.pw.entering = none →
    exec (.pwrSet r) s = answeredOk specPwrSet r { retainDoms (powerTo s .sleep 0) 2 3 with tt := { s.tt with gated := true } } [])
  ∧ (∀ r s, accepted specPwrSet r s = true → s.pw.st = .run → bits (wd r.block 1) 2 0 = 3 → entryRefused s r.mbox 3 = none →
    s.pw.entering = none →
    ∃ t, exec (.pwrSet r) s = .next t ∧ t.pw.st = Power.deepSleep ∧ t.pw.retained = true ∧ t.sec.sess = s.sec.sess
      ∧ t.ring.ts = s.ring.ts ∧ t.cx.incarnNext = s.cx.incarnNext ∧ t.cx.ctxs = [] ∧ t.cc.queues = [] ∧ t.now = s.now)
  ∧ (∀ r s, accepted specPwrSet r s = true → s.pw.st = .run → bits (wd r.block 1) 2 0 = 4 → entryRefused s r.mbox 4 = none →
    s.pw.entering = none →
    ∃ t, exec (.pwrSet r) s = .next t ∧ t.pw.st = Power.off ∧ t.sec.sess = [] ∧ t.ring.ts = [] ∧ t.cx.objs = [] ∧ t.mem.cells = []
      ∧ t.sec.cfg = s.sec.cfg ∧ t.sec.fw = s.sec.fw ∧ t.pw.boot = s.pw.boot)
  ∧ (∀ r s, accepted specPwrVote r s = true →
    exec (.pwrVote r) s = answeredOk specPwrVote r
      (refreshDoms (((List.range 12).filter fun d => bit (wd r.block 1) d).foldl
        (fun s d => modDom s d fun x => { x with operator := bit (wd r.block 1) 16 }) s)) [])
  ∧ (∀ r s, accepted specPartReset r s = true → s.pw.grave = [] →
    exec (.partReset r) s = answeredOk specPartReset r { s with pw := { s.pw with partReset := true } } [])
  ∧ (∀ r s, accepted specBootCfgSet r s = true →
    let w := (r.block.drop 1).take 40
    structOk w 160 bootRsv = none → streamStruct ((w.drop 4).take 16) 0 = none → streamStruct ((w.drop 20).take 16) 0 = none →
    bits (wd w 1) 4 2 ≤ 5 →
    houseCheck [(w.drop 4).take 16, (w.drop 20).take 16] [bits (wd w 36) 3 0, bits (wd w 36) 7 4] = none →
    exec (.bootCfgSet r) s = answeredOk specBootCfgSet r { s with pw := { s.pw with boot := ⟨true, w⟩ } } [])

/-- Calibration and fault requests: CAL_READ returns the records of a layer, CAL_WRITE merges records into the user layer
and commits it, RESTORE_FACTORY commits an empty one, FAULT_CLEAR lowers the sources below Grave, MAP_READ returns a Hall
line map (R284, R285, R287, R455, R527). -/
def Obligations.CalibrationAndFaultRequests : Prop :=
  (∀ r s x, accepted specCalRead r s = true → calTable (bits (wd r.block 1) 7 0) = some x → bits (wd r.block 1) 9 8 = 2 →
    let out := fitRecs 1022 (((tgetD s.nw.calEff (bits (wd r.block 1) 7 0) []).drop (wd r.block 2).toNat).take (wd r.block 3).toNat)
    exec (.calRead r) s = answeredOk specCalRead r s (BitVec.ofNat 32 out.length :: out.flatMap recWords))
  ∧ (∀ r s sz lim recs rest, accepted specCalWrite r s = true →
    let t := bits (wd r.block 1) 7 0
    let new := recs.foldl putRec (tgetD (userTables s) t [])
    calTable t = some (sz, lim, true) → calRecs r.block = some (recs, rest) → recs.all (fun x => bits x.flags 31 1 == 0) = true →
    (layOver (factoryTable s t) new).length ≤ lim →
    recs.all (fun x => !recDelete x || (factoryTable s t).any fun y => y.key == x.key) = true →
    recs.all (fun x => calKeyOk t x.key) = true → t ≠ 1 ∨ lensGridOk (layOver (factoryTable s t) new) = true →
    exec (.calWrite r) s = answeredOk specCalWrite r (commitHalf s (tput (userTables s) t new)) [])
  ∧ (∀ r s, accepted specRestoreFactory r s = true →
    exec (.restoreFactory r) s = answeredOk specRestoreFactory r (commitHalf s []) [])
  ∧ (∀ r s, accepted specFaultClear r s = true → bit (wd r.block 1) 16 = true →
    let t := driveFaultN { s with fc := { s.fc with sources := s.fc.sources.map clearSource } }
    exec (.faultClear r) s =
      .next (sendReply t specFaultClear.op r specFaultClear.flight cOK (sat 0x3FFF ((s.fc.sources.filter fun x => x.cls == 3).length)) []))
  ∧ (∀ r s, accepted specFaultClear r s = true → bit (wd r.block 1) 16 = false →
    (sourceOf s (bits (wd r.block 1) 7 0) (bits (wd r.block 1) 15 8)).cls ≠ 3 →
    let clr := fun (x : Source) => if x.kind = bits (wd r.block 1) 7 0 ∧ x.unit = bits (wd r.block 1) 15 8 then clearSource x else x
    exec (.faultClear r) s = answeredOk specFaultClear r
      (driveFaultN { s with fc := { s.fc with sources := s.fc.sources.map clr } }) [])
  ∧ (∀ r s, accepted specMapRead r s = true → bits (wd r.block 1) 1 0 < 2 → (wd r.block 2).toNat < 4 →
    exec (.mapRead r) s = answeredOk specMapRead r s
      (16 :: bytesWords (mapBytes ((if bits (wd r.block 1) 1 0 = 0 then s.fc.hallRows else s.fc.hallCols).getD (wd r.block 2).toNat []))))
  ∧ (∀ r s, accepted specMapRead r s = true → bits (wd r.block 1) 1 0 = 2 → 128 ≤ (wd r.block 2).toNat → (wd r.block 2).toNat < 192 →
    let ps := (((channelOf s ((wd r.block 2).toNat - 128)).remap.filter fun p => !s.cx.badFrames.contains p.1).drop (wd r.block 3).toNat).take 500
    exec (.mapRead r) s = answeredOk specMapRead r s
      (BitVec.ofNat 32 ps.length :: ps.flatMap fun p => [BitVec.ofNat 32 p.1, BitVec.ofNat 32 p.2]))
/-- CSI-2 packets (R32, R37, R40): a Frame Start opens a frame with the next counter and forgets the frame before; the last
Frame End of a stream's ports closes it; a Line Start ahead of the port's packets moves it on; no Frame Start in time, from a
stream that started or not, sets the status bit and raises SENS_LOSS; a line packet in order, with a good CRC and the line's width, stores its conditioned pixels as that
line. A corrected header (1) changes none of it. -/
def Obligations.CsiPackets : Prop :=
  (∀ s port vc fnum hdr st, s.hp.running = true → s.hp.streams.length = 2 → streamOfPort s port = some st → hdr ≤ 1 →
    vc = hVc (hdesc s st) → (streamOf s st).opened = false →
    ∃ t, exec (.csiFrameStart port vc fnum hdr) s = .next t ∧ (streamOf t st).opened = true
      ∧ (streamOf t st).frame = ((streamOf s st).frame + 1) % 2 ^ 32
      ∧ (streamOf t st).fnum = fnum ∧ (streamOf t st).lines = [] ∧ (streamOf t st).counts = [0, 0, 0, 0]
      ∧ streamOf t (1 - st) = streamOf s (1 - st) ∧ t = { s with hp := t.hp, fc := t.fc })
  ∧ (∀ s port vc hdr time st, s.hp.running = true → s.hp.streams.length = 2 → streamOfPort s port = some st → hdr ≤ 1 →
    vc = hVc (hdesc s st) → (streamOf s st).opened = true →
    (hPorts (hdesc s st)).all (fun p => p == port || (streamOf s st).ended.contains p) = true →
    ∃ t, exec (.csiFrameEnd port vc hdr time) s = .next t ∧ (streamOf t st).opened = false
      ∧ (streamOf t st).frame = (streamOf s st).frame ∧ t = { s with hp := t.hp, fc := t.fc, gal := t.gal })
  ∧ (∀ s port vc line hdr time st, s.hp.running = true → s.hp.streams.length = 2 → streamOfPort s port = some st → hdr ≤ 1 →
    vc = hVc (hdesc s st) → (streamOf s st).opened = true → (streamOf s st).counts.length = 4 →
    let j := if hGang (hdesc s st) = 1 then line / (hPorts (hdesc s st)).length else line
    (streamOf s st).counts.getD port 0 < j →
    ∃ t, exec (.csiLineStart port vc line hdr time) s = .next t ∧ (streamOf t st).counts.getD port 0 = j
      ∧ t = { s with hp := t.hp, fc := t.fc, gal := t.gal })
  ∧ (∀ s st, s.hp.running = true → streamOn s st = true →
    exec (.sensLoss st) s = .next (raise (markFrame (csiBit s (hPorts (hdesc s st)) 10) st)
      (plainFault 0x350 0x07 (72 + (hPorts (hdesc s st)).headD 0) st 0)))
  ∧ (∀ s port vc dt hdr px time st, s.hp.running = true → s.hp.streams.length = 2 → streamOfPort s port = some st → hdr ≤ 1 →
    vc = hVc (hdesc s st) → dt = hDt (hdesc s st) → dt ≠ 0x12 → (streamOf s st).opened = true → (streamOf s st).counts.length = 4 →
    let d := hdesc s st
    let j := (streamOf s st).counts.getD port 0
    let y := (packetLine d port j).1
    hGang d ≠ 2 → y < hH d → hW d ≠ 0 → px.length = hW d → (streamOf s st).held = [] → (streamOf s st).stripes = [] →
    (List.range (min j (portPackets d port))).all (fun i => (tget (streamOf s st).lines (packetLine d port i).1).isSome) = true →
    ∃ t, exec (.csiLongPacket port vc dt hdr true px time) s = .next t
      ∧ tget (streamOf t st).lines y = some (defectLine (s.hp.defects.getD st []) y [] (blackLine d y 0 px))
      ∧ (streamOf t st).counts.getD port 0 = j + 1
      ∧ streamOf t (1 - st) = { streamOf s (1 - st) with timingTold := (streamOf t (1 - st)).timingTold }
      ∧ t = { s with hp := t.hp, fc := t.fc, gal := t.gal })

/-- The receivers and the frame synchronisation outputs (R27, R36, R59): a transition of the lanes sets HS, the lanes, the rate
and the island's clock; a skew calibration sets its bit; an FSYNC edge drives the pin. -/
def Obligations.ReceiverEvents : Prop :=
  (∀ s port clk data lanes rate, port < 4 →
    exec (.hsTransition port clk data lanes rate) s = .next
      { s with
        hp := { s.hp with csi := upd s.hp.csi port fun c => { c with
          hs := data, lanes := if data then lanes % 16 else 0, rate := min rate 8191,
          skewSeen := c.skewSeen && !(clk && !(s.ms.islands.getD (17 + port) default).locked) } },
        ms := { s.ms with islands := upd s.ms.islands (17 + port) fun i => { i with
          locked := clk, freq := if clk then divEven rate 8 else 0 } } })
  ∧ (∀ s port, exec (.skewCalibration port) s = .next
      { s with hp := { s.hp with csi := upd s.hp.csi port fun c => { c with skewSeen := true } } })
  ∧ (∀ s st e, s.hp.fsync.find? (fun e => e.1 == st) = some e →
    exec (.fsyncPulseTimer st) s = .next (setFsync { s with hp := { s.hp with fsync := s.hp.fsync.erase e } } st (if e.2.1 then .high else .low)))

/-- A tile (R42, R44, R45, R47, R48, R51): a band passes from its Hall to the shader stage and on to the colour stage, an
uncorrectable error, or a row that had one before, drops it; the base version gets BCHK, the network version NCHK over the free pixels of its seed (the networks'
results are not given by the specification: log entry 15); in its output slot the tile leaves and the sequence number goes on, and one
with its base version alone counts as LATE and raises TILE_LATE (for a stream without export and no bound feed). -/
def Obligations.Tiles : Prop :=
  (∀ s h m n corr tag reads writes x k, h < 4 → s.mh.halls.length = 4 → (s.hp.tiles.findSome? fun t => ((List.range 4).find? fun k => t.bands.getD k .absent == .hall h).map fun k => (t, k)) = some (x, k) →
    findTile s x.stream x.frame x.col x.row = some x → (reads.any fun r => (hallOf s h).badRows.contains r) = false →
    ∃ t, exec (.houseBandHallDone h 0 m n ⟨corr, tag, reads, writes⟩) s = .next t
      ∧ (findTile t x.stream x.frame x.col x.row).map (fun y => (y.bands, y.netSeed)) = some (x.bands.set k .shader,
          Config.versionOf (bayInput s x) [1, bits (wd (hdesc s x.stream) 1) 17 16, ((s.hp.cfg.map HouseCfg.netId).getD 0).toNat])
      ∧ (hallOf t h).corr = sat 0xFFFF ((hallOf s h).corr + corr)
      ∧ t.fc.wire = s.fc.wire ++ List.replicate corr (ctxFault (0x340 + h) 0x10 h 0x200 0 0) ∧ t = { s with hp := t.hp, fc := t.fc, mh := t.mh })
  ∧ (∀ s h m n corr tag reads writes x k, (s.hp.tiles.findSome? fun t => ((List.range 4).find? fun k => t.bands.getD k .absent == .hall h).map fun k => (t, k)) = some (x, k) →
    let r := ((reads.find? fun r => (hallOf s h).badRows.contains r).or reads.getLast?).getD (0, 0)
    ∃ t, exec (.houseBandHallDone h 1 m n ⟨corr, tag, reads, writes⟩) s = .next t ∧ (findTile t x.stream x.frame x.col x.row).map Tile.faulted = some true
      ∧ t.fc.wire = s.fc.wire ++ List.replicate corr (ctxFault (0x340 + h) 0x10 h 0x200 0 0) ++ [ctxFault (0x340 + h) 0x11 h 0x200 tag (256 * r.2)] ∧ t = { s with hp := t.hp, fc := t.fc, mh := t.mh })
  ∧ (∀ s st frame col row k x, findTile s st frame col row = some x → x.bands.getD k .absent = .shader →
    exec (.houseShaderStageDone st frame col row ⟨k, []⟩) s = .next (setBand s x k .colour))
  ∧ (∀ s st frame col row x, findTile s st frame col row = some x → x.complete = true → x.base = none → slotPassed s x = false →
    ∃ t, exec (.baseVersionComplete st frame col row true) s = .next t
      ∧ (findTile t st frame col row).map Tile.base =
          some (some (crc32c (versionBytes (versionSeed s x 0) (validW (hdesc s st) col) (validH (hdesc s st) row))))
      ∧ t = { s with hp := t.hp, gal := t.gal })
  ∧ (∀ s st frame col row x, findTile s st frame col row = some x → x.net = none → x.faulted = false → slotPassed s x = false →
    x.bands.all (fun b => b == .colour || b == .absent) = true →
    ∃ t, exec (.tileSealed st frame col row) s = .next t
      ∧ (findTile t st frame col row).map Tile.net =
          some (some (crc32c (versionBytes (netSeedOf s x) (validW (hdesc s st) col) (validH (hdesc s st) row))))
      ∧ t = { s with hp := t.hp, gal := t.gal })
  ∧ (∀ s x, s.hp.running = true → s.hp.tiles.find? (fun t => t.slot != 0 && t.slot == s.hp.slots) = some x → x.net.isSome = true →
    (s.hp.rings.getD x.stream ⟨0, 0, []⟩).frames = 0 → s.rs.feeds = [] → s.rs.comps = [] →
    exec .tileOutputSlot s = .next
      { s with hp := { s.hp with tseq := (s.hp.tseq + 1) % 2 ^ 48,
                                 tiles := s.hp.tiles.filter fun y => !(tileIs y x.stream x.frame x.col x.row) } })
  ∧ (∀ s x, s.hp.running = true → s.hp.tiles.find? (fun t => t.slot != 0 && t.slot == s.hp.slots) = some x → x.net = none →
    x.base.isSome = true → inMeter s x.stream x.col x.row = false → (s.hp.rings.getD x.stream ⟨0, 0, []⟩).frames = 0 → s.rs.feeds = [] →
    s.rs.comps = [] → exec .tileOutputSlot s = .next (raise
      { s with hp := { s.hp with late := upd s.hp.late x.stream (satInc 0xFFFFFFFF), tseq := (s.hp.tseq + 1) % 2 ^ 48,
                                 tiles := s.hp.tiles.filter fun y => !(tileIs y x.stream x.frame x.col x.row) } }
      (ctxFault 0x350 0x08 uGallery 0x200 x.stream s.hp.tseq)))

/-- What passes between the Gallery and the Motion Controller (R56, R222, R224): frame statistics, mid-exposure times and row
poses arrive in the order they were sent; a row pose enters the ring of 4,096 records. -/
def Obligations.GalleryMotionMessages : Prop :=
  (∀ s x r, s.hp.sent = x :: r → s.mc.halted = false →
    ∃ t, exec .frameStatsArrive s = .next t ∧ t.hp.sent = r ∧ t.mc.stats = [(x.1, x.2.1, x.2.2.1)]
      ∧ t = { s with hp := { s.hp with sent := r, gains := t.hp.gains }, mc := t.mc })
  ∧ (∀ s x r, s.hp.tm = x :: r → (domOf s 11).pwr = 2 →
    exec .tMArrive s = .next
      { s with hp := { s.hp with tm := r }, mc := { s.mc with tm := s.mc.tm ++ [(x.1, x.2.1, x.2.2.1, x.2.2.2.1, s.now, x.2.2.2.2)] } })
  ∧ (∀ s p r, s.mc.posesSent = p :: r → poseAt s p.stream p.frame p.row = none → (domOf s 8).pwr = 2 →
    ∃ t, exec .rowPoseArrive s = .next t ∧ t.mc.posesSent = r ∧ t.hp.poseNext = (s.hp.poseNext + 1) % 4096
      ∧ poseAt t p.stream p.frame p.row = some p ∧ t.mem = (objStore s s.hp.poseRing (s.hp.poseNext * 64) (wordBytes (poseWords p))).mem
      ∧ t = { s with mc := t.mc, hp := t.hp, rs := t.rs, cm := t.cm, mem := t.mem })

/-- Composition (R223, R225, R226, R233): a composite starts with its row pose, is skipped beyond the span, and completes with the
house picture where there is no layer, or with the blended tile and FCHK; when the window ends no composite of the tile is left. -/
def Obligations.Composition : Prop :=
  (∀ s k tseq f c, feedOf s k = some f → compOf s k tseq = some c → c.started = false → hasLayer f = false →
    exec (.compositeStart k tseq) s = .next (setComp s k tseq fun c => { c with started := true, keep := keepNow s }))
  ∧ (∀ s k tseq f c p, feedOf s k = some f → compOf s k tseq = some c → c.started = false → hasLayer f = true →
    poseAt s c.stream c.frame c.row = some p →
    let g := gridOf (keepNow s) p.vals f.pose c.col c.row
    let skip := beyondSpan (8 * fSpan8 f.words) g
    exec (.compositeStart k tseq) s = .next (setComp
      (noteFlush (if skip then raise s (ctxFault 0x350 0x33 uGallery (fOwner f.words) k tseq) else s) uGallery (gridFlushed g)) k tseq
        fun c => { c with started := true, skip := skip, keep := keepNow s }))
  ∧ (∀ s k tseq f c, feedOf s k = some f → compOf s k tseq = some c → c.started = true → hasLayer f = false ∨ c.skip = true →
    exec (.compositeComplete k tseq true) s = .next (putEntry (dropComp s k tseq) k (houseEntry (dropComp s k tseq) f c false)))
  ∧ (∀ s k tseq f c p, feedOf s k = some f → compOf s k tseq = some c → c.started = true → hasLayer f = true → c.skip = false →
    poseAt s c.stream c.frame c.row = some p →
    let g := gridOf c.keep p.vals f.pose c.col c.row
    let box := ((gridBox g).map fun b => boxTexels f.surf b).getD []
    let lay := (readBox (dropComp s k tseq) c.keep (fOwner f.words) f.surf box).2
    ∃ t, exec (.compositeComplete k tseq true) s = .next t
      ∧ (feedOf t k).map (fun y => (y.map.getLast?).map fun e => (e.pix, e.chk, e.w0 % 2)) =
          some (some (blendTile c.keep (fMatrix f.words) (compSample s c) (fun x y => layerAt c.keep lay f.surf g x y),
            crc32c (blendTile c.keep (fMatrix f.words) (compSample s c) (fun x y => layerAt c.keep lay f.surf g x y)), 1)))
  ∧ (∀ s tseq, ∃ t, exec (.compositeWindowEnd tseq) s = .next t ∧ (t.rs.comps.filter fun c => c.tseq == tseq) = []
      ∧ t.mc = s.mc ∧ t.pw = s.pw ∧ t.ring = s.ring)

/-- The raster back end's events (R208, R211, R214 to R221): a slot starts the head pass with its vertices, or resumes it, and
its triangles go on being set up and binned; a triangle takes the pages it needs from the pool; a slot ends, the fragments that came
back finished first; a stalled pass begins a partial resolve after GROW_WAIT_US; the resolve frees its pages and binning goes on; a
pass completes with the code of its programs, or with OK once its fragments are written. -/
def Obligations.RasterEvents : Prop :=
  (∀ s verts clipped back c p ps, s.rs.slot = none → slotCtx s uGallery = some c → (rasOf s c).passes = p :: ps → p.running = true →
    (wd p.words 10).toNat ≤ p.next ∨ p.resolving = true ∨ p.stalledAt.isSome = true →
    exec (.rasterSlotStart verts clipped back) s = .next { s with rs := { s.rs with slot := some c, back := back } })
  ∧ (∀ s verts clipped back c p ps col, s.rs.slot = none → slotCtx s uGallery = some c → (rasOf s c).passes = p :: ps → p.running = false →
    (readStruct s c (pColour p.words) 64 1).toOption = some col → surfCheck col = none →
    p.direct = true ∨ passBays p.cores (fmtBytes (sFmt col)) ≤ (rasOf s c).grant → (wd p.words 10).toNat ≤ p.next →
    s.mem.upsets = [] →
    exec (.rasterSlotStart verts clipped back) s = .next
      (setRas (sawStruct { s with rs := { s.rs with slot := some c, back := back } } c (pColour p.words) col) c
        { rasOf s c with passes := { p with running := true, verts := verts, clipped := clipped } :: ps }))
  ∧ (∀ s verts clipped back c p ps ix t, s.rs.slot = none → slotCtx s uGallery = some c → (rasOf s c).passes = p :: ps → p.running = true →
    p.direct = false → p.resolving = false → p.stalledAt = none → p.next + 1 = (wd p.words 10).toNat → s.mem.upsets = [] →
    (devRead s c (va48 p.words 8 + 12 * p.next) 12).toOption = some ix →
    p.clipped.contains p.next = false → setupTri p.verts (wd p.words 11).toNat (pFrontCw p.words) (pCullBack p.words) ((bytesWords ix).map BitVec.toNat) = some t →
    tilesOf t (pW p.words) (pH p.words) ≠ [] →
    let q := storeTri p ⟨p.next, t⟩
    let n := passPages q - (p.pagesOwn + p.pagesRes)
    n ≤ poolFree (rasOf s c) →
    exec (.rasterSlotStart verts clipped back) s = .next
      (setRas (sawRange { s with rs := { s.rs with slot := some c, back := back } } c (va48 p.words 8 + 12 * p.next) 12 1) c
        { rasOf s c with used := (rasOf s c).used + n, passes := { q with pagesOwn := p.pagesOwn + n } :: ps }))
  ∧ (∀ s, s.rs.back = [] → exec .rasterSlotEnd s = .next { s with rs := { s.rs with slot := none, back := [] } })
  ∧ (∀ s c p ps u, s.rs.slot = some c → (rasOf s c).passes = p :: ps → p.direct = false → shading p = true → s.rs.back ≠ [] →
    (tilePhase s c p s.rs.back false (!p.resolving)).toOption = some u →
    exec .rasterSlotEnd s = .next { u with rs := { u.rs with slot := none, back := [] } })
  ∧ (∀ s c p ps, (rasOf s c).passes = p :: ps → p.stalledAt.isSome = true → p.resolving = false →
    exec (.growWaitExpiry c) s = .next (raise
      (setRas { s with rs := { s.rs with partialCnt := satInc 0xFFFFFFFF s.rs.partialCnt } } c
        { rasOf s c with passes := { p with resolving := true, partials := p.partials + 1 } :: ps })
      (cmdFault 0x350 0x31 uGallery p.ref (pId p.words) 0)))
  ∧ (∀ s c frags p ps u, (rasOf s c).passes = p :: ps → p.resolving = true → s.rs.slot = some c → (resolveFrags s c p frags false).toOption = some u →
    exec (.partialResolveDone c frags) s = .next (unstall (geometry (modHead (freePages u c) c fun p =>
      { p with resolving := false, stalledAt := none, stored := 0, wide := 0, bins := [], tris := [] }) c)))
  ∧ (∀ s c core va extra frags p ps u q qs, (rasOf s c).passes = p :: ps → s.rs.slot = some c → shading p = true → p.resolving = false →
    (resolveFrags s c p frags true).toOption = some u → (rasOf u c).passes = q :: qs → noStall u = true →
    ∃ t, exec (.passComplete c 0 core va extra frags) s = .next t ∧ (rasOf t c).passes = qs
      ∧ t.cc.done = u.cc.done ++ [(q.ref, passWord 0 q.direct q.partials, 0)] ∧ tget (rasOf t c).history (pId q.words) = some q.prims
      ∧ t.mem = u.mem)
  ∧ (∀ s c code core va extra frags p ps, (rasOf s c).passes = p :: ps → s.rs.slot = some c → shading p = true →
    p.resolving = false → code ≠ 0 → code ≠ 0x15 ∨ s.mem.upsets = [] → noStall s = true →
    ∃ t, exec (.passComplete c code core va extra frags) s = .next t ∧ (rasOf t c).passes = ps
      ∧ t.cc.done = s.cc.done ++ [(p.ref, passWord code p.direct p.partials, 0)] ∧ t.mem = s.mem)
/-- The device behind the Outbound Port and the link to it (R407, R409, R410): its memory requests go through the device owner's
mappings, its interrupts reach the owner as an event; the last read of an XFER completes it with its bytes, an error or a timeout ends
it with its code, a lost link ends every XFER with LINK_DOWN. -/
def Obligations.OutboundDevice : Prop :=
  (∀ s addr n data ps, s.ob.mode = 2 → s.ob.link = true → s.ob.accepted = true → (translateN s s.ob.owner addr data.length 2).toOption = some ps →
    exec (.deviceMemRequest addr n true data) s = .next
      { writeLines { s with mem := { s.mem with cells := putBytes s.mem.cells ps data } } ps with
        ob := { s.ob with replies := (true, []) :: s.ob.replies } })
  ∧ (∀ s addr n data bs, s.ob.mode = 2 → s.ob.link = true → s.ob.accepted = true → (devRead s s.ob.owner addr n).toOption = some bs →
    let u := sawRange s s.ob.owner addr n 1
    exec (.deviceMemRequest addr n false data) s = .next { u with ob := { u.ob with replies := (true, bs) :: u.ob.replies } })
  ∧ (∀ s v, s.ob.mode = 2 → s.ob.link = true → exec (.deviceMsi v) s = .next (sendEvent s s.ob.owner 0x88 s.ob.owner v))
  ∧ (∀ s rate width, s.ob.mode ≠ 0 →
    exec (.obLinkUp rate width) s = .next { s with ob := { s.ob with link := true, rate := min 4 rate, width := min 8 width } })
  ∧ (∀ s, s.ob.link = true →
    ∃ t, exec .obLinkDown s = .next t ∧ t.ob.link = false ∧ t.ob.rate = 0 ∧ t.ob.width = 0 ∧ t.ob.linkErr = satInc 0xFF s.ob.linkErr
      ∧ t.ob.xfers = []
      ∧ t.cc.done = s.cc.done ++ (s.ob.xfers.filter fun x => !x.stopped).map fun x => (x.ref, 0x60, BitVec.ofNat 32 x.moved))
  ∧ (∀ s r off data x ps, readOf s r off = some x → x.stopped = false → x.moved + xferPart x = x.bytes →
    data.length = xferPart x → (translateN s r.ctx (x.dst + x.moved) (xferPart x) 2).toOption = some ps →
    exec (.readCompletion r off true data) s = .next (finishCmd
      (dropXfer (writeLines { s with mem := { s.mem with cells := putBytes s.mem.cells ps data } } ps) x.ref)
      x.ref 0 (BitVec.ofNat 32 x.bytes)))
  ∧ (∀ s r off data x, readOf s r off = some x → x.stopped = false →
    exec (.readCompletion r off false data) s = .next (finishCmd (dropXfer (cplError s) x.ref) x.ref 0x61 (BitVec.ofNat 32 x.moved)))
  ∧ (∀ s r off x, readOf s r off = some x → x.stopped = false →
    exec (.cplTimeout r off) s = .next (finishCmd (dropXfer (cplError s) x.ref) x.ref 0x62 (BitVec.ofNat 32 x.moved)))

/-- The NVMe host (R412, R413): a write of 128 KiB leaves the coded ring for the next blocks of the feed's extent; a completion
retires a write, or lands a read's data in the operator driver's memory; a command that times out resets the controller. -/
def Obligations.NvmeEvents : Prop :=
  (∀ s k x f bs rest, s.ob.sinks.find? (fun y => y.feed == k) = some x → feedCodeOf s k = some f → s.ob.mode = 1 → s.ob.link = true →
    x.paused = false → takeRing f.ring 131072 = some (bs, rest) →
    let adv := fun (y : NvmeSink) => { y with pos := (y.pos + 131072 / lbaSize x.ns) % max 1 y.count, writes := y.writes ++ [(s.ob.nextTag, false)] }
    exec (.nvmeFeedWrite k) s = .next
      { s with
        cm := { s.cm with feeds := tmod s.cm.feeds k fun f => { f with ring := rest } },
        ob := { s.ob with nextTag := s.ob.nextTag + 1,
                          nvmeOut := (extentParts x.ns x.lba x.count (lbaSize x.ns) (131072 / lbaSize x.ns + 1) x.pos bs).reverse ++ s.ob.nvmeOut,
                          sinks := s.ob.sinks.map fun y => if y.feed = k then adv y else y } })
  ∧ (∀ s tag data, s.ob.mode = 1 → (s.ob.cmds.any fun c => c.1 == tag) = false →
    exec (.nvmeCompletion tag 0 data) s = .next
      { s with ob := { s.ob with sinks := s.ob.sinks.map fun x => { x with writes := x.writes.filter fun w => w.1 != tag } } })
  ∧ (∀ s tag data f ps, s.ob.mode = 1 → (s.ob.cmds.any fun c => c.1 == tag) = true → s.nw.flights.find? (tagFlight tag) = some f →
    (translateN s 0x300 (dwd f.r.block 5) data.length 2).toOption = some ps →
    exec (.nvmeCompletion tag 0 data) s = .next
      (endCmd (writeLines { s with mem := { s.mem with cells := putBytes s.mem.cells ps data } } ps) tag 0))
  ∧ (∀ s tag, (s.ob.cmds.any fun c => c.1 == tag) = true →
    exec (.nvmeTimeout tag) s = .next (controllerReset (endCmd s tag 0x62)))

/-- The axes (R420, R421, R423, R426, R428, R432, R439, R460): a limit safe-stops a live axis with cause LIMIT; no READY in 100 ms stops it;
the brake time ends in RUN, OFF or STOPPED; a lost heartbeat safe-stops every live axis as REQUEST; an encoder edge counts; in a loop tick
with the latches re-armed each of the six axes latches its sample for the tick, and its command frame carries the next SEQ. -/
def Obligations.AxisEvents : Prop :=
  (∀ s i pos, live (axisOf s i) = true → (if pos then (axisOf s i).limp else (axisOf s i).limn) = false →
    exec (.limitInput i pos true) s = .next (raise
      (setAxis (modAxis s i fun a => if pos then { a with limp := true } else { a with limn := true }) i 3 2)
      (plainFault 0x330 0x64 (112 + i) 2 0)))
  ∧ (∀ s i, (axisOf s i).st = 1 → (axisOf s i).ready = false →
    exec (.driveReadyTimeout i) s = .next (raise (setAxis s i 4 5) (plainFault 0x330 0x61 (112 + i) 5 0)))
  ∧ (∀ s i, (axisOf s i).st = 1 → (axisOf s i).ready = true →
    exec (.brakeTimeElapsed i) s = .next (setAxis s i 2 (axisOf s i).cause))
  ∧ (∀ s i, (axisOf s i).st = 3 → (axisOf s i).braking = true →
    exec (.brakeTimeElapsed i) s = .next (setAxis s i (if (axisOf s i).cause = 1 then 0 else 4) (axisOf s i).cause))
  ∧ (∀ s, s.mc.axes.length = 6 →
    ∃ t, exec .newelHeartbeatLoss s = .next t
      ∧ ((List.range 6).all fun i => !(live (axisOf s i)) || ((axisOf t i).st == 3 && (axisOf t i).cause == 1)) = true
      ∧ t = { s with mc := t.mc, nw := t.nw })
  ∧ (∀ s i dir z, exec (.encoderEdge i dir false z) s = .next
      (modAxis s i fun a => { a with
        count := sext 32 (intBits 32 (a.count + dir)),
        zEdges := if z then a.zEdges ++ [sext 32 (intBits 32 (a.count + dir))] else a.zEdges }))
  ∧ (∀ s i dir z, exec (.encoderEdge i dir true z) s = .next
      (modAxis s i fun a => { a with quadBad := true, zEdges := if z then a.zEdges ++ [a.count] else a.zEdges }))
  ∧ (∀ s ins, s.mc.halted = false → s.mc.axes.length = 6 →
    ∃ t, exec (.loopTick ins true) s = .next t ∧ t.mc.missedArm = 0 ∧ t.mc.axes.length = 6
      ∧ ((List.range 6).all fun i => ((axisOf t i).hist.head?.map Prod.fst == some (s.now / 50000))
          && (axisOf t i).seq == ((axisOf s i).seq + 1) % 16) = true
      ∧ t = { s with mc := t.mc, nw := t.nw, fc := t.fc })

/-- A heater period (R437, R438): a channel that is off holds duty 0, an open or shorted thermistor sets SENSOR_BAD and duty 0, and a
good reading T gives the loop's duty unless T is out of range or the channel is over temperature. -/
def Obligations.HeaterPeriods : Prop :=
  (∀ s c code, (takeParams (heaterOf s c)).en = false → s.mc.heaters.length = 2 → c < 2 →
    ∃ t, exec (.heaterPeriod c code false) s = .next t ∧ (heaterOf t c).u = ⟨0, 1⟩ ∧ (heaterOf t c).en = false
      ∧ heaterOf t (1 - c) = heaterOf s (1 - c) ∧ t = { s with mc := t.mc })
  ∧ (∀ s c code, (takeParams (heaterOf s c)).en = true → ntcOpen code = true → s.mc.heaters.length = 2 → c < 2 →
    ∃ t, exec (.heaterPeriod c code false) s = .next t ∧ (heaterOf t c).u = ⟨0, 1⟩ ∧ (heaterOf t c).sensorBad = true
      ∧ t.fc.wire = s.fc.wire ++ [plainFault 0x330 0x69 (118 + c) 0 0] ∧ heaterOf t (1 - c) = heaterOf s (1 - c)
      ∧ t = { s with mc := t.mc, fc := t.fc })
  ∧ (∀ s c code, (takeParams (heaterOf s c)).en = true → (takeParams (heaterOf s c)).overs = false → ntcOpen code = false →
    s.mc.crit = false → s.mc.heaters.length = 2 → c < 2 →
    let h := takeParams (heaterOf s c)
    let temp := ntc s c code
    ∃ t, exec (.heaterPeriod c code false) s = .next t
      ∧ (heaterOf t c).u = (if offRange temp || qLt (f32ToQ h.tMax) temp then ⟨0, 1⟩ else (heatLoop h temp).u)
      ∧ (heaterOf t c).sensorBad = offRange temp)

/-- Coolant, junction and throttle (R441 to R443): the samples are stored; at 108 °C every energised axis safe-stops with cause 7 and
both heater duties are 0; the level falls by one when its condition has failed; the lockout ends below 100 °C. -/
def Obligations.ThermalEvents : Prop :=
  (∀ s a b, ∃ t, exec (.coolantSample a b) s = .next t ∧ t.mc.inlet = ntc s 2 a ∧ t.mc.outlet = ntc s 3 b
      ∧ t.mc.coolBad = (ntcOpen a || ntcOpen b || offRange (ntc s 2 a) || offRange (ntc s 3 b))
      ∧ t = { s with mc := t.mc, fc := t.fc, nw := t.nw })
  ∧ (∀ s q, q < 432 → ∃ t, exec (.junctionSample q) s = .next t ∧ t.mc.tj = qMk q 4 ∧ t.mc.crit = false ∧ t.mc.axes = s.mc.axes
      ∧ t = { s with mc := t.mc, fc := t.fc, nw := t.nw })
  ∧ (∀ s q, 432 ≤ q → s.mc.crit = false → s.mc.axes.length = 6 →
    ∃ t, exec (.junctionSample q) s = .next t ∧ t.mc.crit = true ∧ t.mc.lockout = true ∧ (t.mc.heaters.all fun h => h.u == ⟨0, 1⟩) = true
      ∧ ((List.range 6).all fun i => !(energised (axisOf s i)) || ((axisOf t i).st == 3 && (axisOf t i).cause == 7)) = true)
  ∧ (∀ s, exec .flowPulse s = .next { s with mc := { s.mc with pulses := s.mc.pulses ++ [s.now] } })
  ∧ (∀ s, ∃ t, exec .flowUpdate s = .next t ∧ t.mc.flowSeen = true
      ∧ t.mc.pulses = s.mc.pulses.filter (fun x => decide (s.now < x + 1000000000))
      ∧ t.mc.flow = qDiv (qInt (60 * (s.mc.pulses.filter fun x => decide (s.now < x + 1000000000)).length : Nat)) (f32ToQ (wd (calRec s 4 4) 0).toNat)
      ∧ t = { s with mc := t.mc, fc := t.fc, nw := t.nw })
  ∧ (∀ s, s.mc.level ≠ 0 → levelHolds s s.mc.level ⟨2, 1⟩ ⟨1, 20⟩ = false →
    exec .throttleFallTimeout s = .next (notify
      (raise { s with mc := { s.mc with level := s.mc.level - 1 } } (plainFault 0x330 (if s.mc.byFlow then 0x6D else 0x6C) 120 (s.mc.level - 1) 0))
      0x211 0x11 (s.mc.level - 1)))
  ∧ (∀ s, qLt s.mc.tj (qInt 100) = true → exec .thermalLockoutEnd s = .next { s with mc := { s.mc with lockout := false } })

/-- Resets and supplies (R486, R489, R503, R504): a power-on reset clears every Grave latch and starts with cause 1; RESET_N low
clears the latches and its rise starts with cause 2, as a failed rail does; thermal shutdown and a lost always-on supply end
everything that no fuse, flash or latch holds; PART_RESET takes effect with cause 8. What a start keeps beside the fuses and the
flash is the model's reading (log entry 50). -/
def Obligations.Resets : Prop :=
  (∀ s, ∃ t, exec .powerOnReset s = .next t ∧ t.pw.grave = [] ∧ t.pw.thermTrip = false ∧ t.pw.cause = 1 ∧ t.pw.st = Power.run
      ∧ t.sec.sess = [] ∧ t.cx = resetContexts ∧ t.mem.cells = [] ∧ t.sec.cfg = s.sec.cfg ∧ t.sec.fw = s.sec.fw ∧ t.sec.minSvn = s.sec.minSvn
      ∧ t.nw.calU0 = s.nw.calU0 ∧ t.nw.calU1 = s.nw.calU1 ∧ t.pw.boot = s.pw.boot ∧ t.pending = s.pending)
  ∧ (∀ s, inert s = false → ∃ t, exec (.resetN true) s = .next t ∧ t.pw.resetLow = true ∧ t.pw.grave = [] ∧ t.pw.thermTrip = s.pw.thermTrip
      ∧ t.sec.sess = [] ∧ t.cx = resetContexts ∧ t.mem.cells = [] ∧ t.sec.cfg = s.sec.cfg)
  ∧ (∀ s, inert s = false → s.pw.resetLow = true →
    exec (.resetN false) s = .next (jtagRelease { s with pw := { s.pw with resetLow := false, cause := 2 } }))
  ∧ (∀ s, inert s = false → s.pw.pins.pwrenMain = true → ∃ t, exec .railFail s = .next t ∧ t.pw.cause = 2 ∧ t.pw.grave = []
      ∧ t.sec.sess = [] ∧ t.cx = resetContexts ∧ t.mem.cells = [] ∧ t.sec.cfg = s.sec.cfg)
  ∧ (∀ s, inert s = false → ∃ t, exec .thermTrip s = .next t ∧ t.pw.st = Power.thermal ∧ t.pw.thermTrip = true
      ∧ t.pw.grave = s.pw.grave ++ [(0x70, 120)] ∧ t.pw.pins.pwrenMain = false ∧ t.sec.sess = [] ∧ t.mem.cells = [])
  ∧ (∀ s, ∃ t, exec .alwaysOnSupplyLoss s = .next t ∧ t.pw.st = Power.unpowered ∧ t.pw.retained = false ∧ t.pw.pins.bypHold = Level.hiZ
      ∧ t.sec.sess = [] ∧ t.mem.cells = [])
  ∧ (∀ s, s.pw.partReset = true → ∃ t, exec .partResetTakesEffect s = .next t ∧ t.pw.cause = 8 ∧ t.pw.partReset = false ∧ t.sec.sess = []
      ∧ t.cx = resetContexts ∧ t.mem.cells = [] ∧ t.sec.cfg = s.sec.cfg)

/-- Start-up (R374, R490 to R494): reset release runs a valid image or enters recovery; Dynov arms the alive outputs and trains the
HBM; training and self-test carry the phase on to 7 with the house context ACTIVE; FREE_RUN starts without a grandmaster. -/
def Obligations.StartUp : Prop :=
  (∀ s, inert s = false → s.pw.st ≠ .off → s.pw.st ≠ .deepSleep → s.pw.resetLow = false → s.pw.started = false → s.pw.cause ≠ 32 →
    imageValid s true = true →
    exec (.resetRelease true) s = .next
      { s with pw := { s.pw with started := true, startAt := s.now, pins := { s.pw.pins with bypHold := .high } },
               sec := { s.sec with running := s.sec.fw } })
  ∧ (∀ s, inert s = false → s.pw.st ≠ .off → s.pw.st ≠ .deepSleep → s.pw.resetLow = false → s.pw.started = false → s.pw.cause ≠ 32 →
    exec (.resetRelease false) s = .next
      { s with pw := { s.pw with started := true, startAt := s.now, phase := 1, pins := { s.pw.pins with bypHold := .high, faultN := .low } },
               sec := { s.sec with recovery := true }, num := { s.num with svc := 3 } })
  ∧ (∀ s, s.pw.started = true → s.pw.phase = 0 → s.pw.cause ≠ 32 → s.pw.boot.present = true →
    ∃ t, exec (.dynovStart true true true true) s = .next t ∧ t.pw.phase = 3 ∧ t.pw.pins.aliveM = Level.high ∧ t.pw.pins.aliveH = Level.high
      ∧ t.mc.armed = true ∧ t.sec.bootCount = s.sec.bootCount + 1 ∧ t.sec.attCount = s.sec.attMark ∧ t.sec.attMark = s.sec.attMark + 65536
      ∧ t.sec.skeyReady = s.sec.nextPair ∧ t.sec.nextPair = false
      ∧ (t.cx.keys.map Prod.fst).contains 0x300 = true ∧ (t.cx.keys.map Prod.fst).contains 0x310 = true ∧ t.cx = { s.cx with keys := t.cx.keys } ∧ t.mem = s.mem)
  ∧ (∀ s ch lane lanes, s.pw.phase = 3 →
    let u : State := lanes.foldl (fun s p => repairLane s p.1 p.2) s
    exec (.hbmTrainingDone true (ch, lane) lanes) s = .next { u with pw := { u.pw with hbmReady := true, phase := 4 } })
  ∧ (∀ s ch lane lanes, s.pw.phase = 3 →
    let u : State := lanes.foldl (fun s p => repairLane s p.1 p.2) s
    exec (.hbmTrainingDone false (ch, lane) lanes) s = .next
      (raise { u with pw := { u.pw with hbmFailed := true, phase := 8 } } (plainFault 0x370 0x2A (128 + ch) lane 0)))
  ∧ (∀ s, s.pw.phase = 4 → s.pw.cause ≠ 32 → bootAuto s = false → s.fc.pscFailed = [] →
    ∃ t, exec (.selfTestDone [] [] []) s = .next t ∧ t.pw.phase = 7 ∧ t.pw.houseCtxReady = true ∧ ctxState t 0x200 = .active
      ∧ t.cx.incarnNext = s.cx.incarnNext + 1 ∧ t.fc = s.fc ∧ t.sec = s.sec)
  ∧ (∀ s, bootAuto s = true → bootFree s = true → s.ring.gSync = false → s.hp.running = false → s.hp.freeRun = false → s.pw.started = true →
    s.pw.phase = 5 →
    exec .freeRunTimeout s = .next
      { raise s (plainFault 0x370 0x53 (uPort s.ring.gPort) s.ring.gPort 0) with
        hp := { s.hp with freeRun := true, starting := true }, pw := { s.pw with phase := 7 } })

/-- Wakes, lost clocks and voted domains (R18, R479, R485, R505, R520): WAKE_IN returns Sleep to Idle with wake source 1 and starts a
part that is Off; a lost PLL stops its islands' clocks; a domain without a vote powers down and loses its contents, and powers
up to power-good. -/
def Obligations.WakesAndDomains : Prop :=
  (∀ s, s.pw.entering = none → s.pw.st = .sleep →
    exec .wakeIn s = .next { retainDoms (powerTo s .idle 1) 3 2 with tt := { s.tt with gated := true } })
  ∧ (∀ s, s.pw.entering = none → s.pw.st = .deepSleep →
    ∃ t, exec .wakeIn s = .next t ∧ t.pw.st = Power.idle ∧ t.pw.cause = 32 ∧ t.pw.started = false ∧ t.pw.retained = false ∧ t.sec = s.sec
      ∧ t.mem = s.mem ∧ t.cx = s.cx)
  ∧ (∀ s, s.pw.entering = none → s.pw.st = .off →
    ∃ t, exec .wakeIn s = .next t ∧ t.pw.st = Power.run ∧ t.pw.cause = 4 ∧ t.pw.started = false ∧ t.sec.cfg = s.sec.cfg)
  ∧ (∀ s, exec (.pllLockLost 7) s = .next (raise
      { s with pw := { s.pw with pll := s.pw.pll.set 7 false },
               ms := { s.ms with islands := upd s.ms.islands 16 fun x => { x with locked := false } } } (plainFault 0x330 0x68 uMotion 0 0)))
  ∧ (∀ s p, p < 7 → ∃ t, exec (.pllLockLost p) s = .next t ∧ t.pw = { s.pw with pll := s.pw.pll.set p false }
      ∧ t.ms.islands = (pllIslands p).foldl (fun l i => upd l i fun x => { x with locked := false }) s.ms.islands
      ∧ t.fc.wire = s.fc.wire ++ (pllIslands p).map fun i => plainFault (arraySource (192 + i)).1 0x7E (192 + i) 0 0)
  ∧ (∀ s d, (domOf s d).pwr = 2 → domVoted s d = false → domsLive s = true →
    exec (.domainIdleTimeout d) s = .next (loseDomain (modDom s d fun x => { x with pwr := 4 }) d))
  ∧ (∀ s d, (domOf s d).pwr = 4 →
    exec (.domainPowerDownDone d) s = .next (modDom s d fun x => { x with pwr := if domVoted s d then 1 else 0 }))
  ∧ (∀ s d, (domOf s d).pwr = 1 →
    exec (.domainPowerGood d) s = .next (modDom s d fun x => { x with pwr := 2, ups := satInc 0xFFFF x.ups }))

/-- The test access port (R521, R522): TRST_N selects IDCODE; while RESET_N is high EXTEST, CLAMP and HIGHZ act as BYPASS; nothing but
the port's own registers changes. -/
def Obligations.TestAccessPort : Prop :=
  (∀ s, exec .trstN s = .next { s with ms := { s.ms with jtag := { s.ms.jtag with ir := 2 } } })
  ∧ (∀ s, exec .extest s = .next { s with ms := { s.ms with jtag := { s.ms.jtag with ir := if s.pw.resetLow then 0 else 31 } } })
  ∧ (∀ s bs, exec (.samplePreload bs) s = .next { s with ms := { s.ms with jtag := ⟨1, bs⟩ } })
  ∧ (∀ s, exec .idcode s = .next { s with ms := { s.ms with jtag := { s.ms.jtag with ir := 2 } } })
  ∧ (∀ s, exec .clamp s = .next { s with ms := { s.ms with jtag := { s.ms.jtag with ir := if s.pw.resetLow then 3 else 31 } } })
  ∧ (∀ s, exec .highz s = .next { s with ms := { s.ms with jtag := { s.ms.jtag with ir := if s.pw.resetLow then 4 else 31 } } })
  ∧ (∀ s, exec .bypass s = .next { s with ms := { s.ms with jtag := { s.ms.jtag with ir := 31 } } })

/-- The Fault Collector (R451, R457, R458, R459, R462): a message below Grave is counted at its source and enters the pending queue
with the class that counting gives, each crossing delivering in the order of presentation (R17); the first fault stays until VALID is cleared; Newel takes one message from the queue, Grave
ones first; the error queue's read pointer moves within the 4,096 entries. -/
def Obligations.FaultCollector : Prop :=
  (∀ s m, let y := nextOf s m
    let x := countSource s.now (sourceOf s y.kind y.unit)
    x.cls ≠ 3 → s.fc.pending.length < 60 →
    ∃ t, exec (.faultMessageArrive [m]) s = .next t ∧ sourceOf t y.kind y.unit = x
      ∧ t.fc.pending = s.fc.pending ++ [⟨y, x.cls, s.now, s.fc.cycles + 1⟩] ∧ t.fc.cycles = s.fc.cycles + 1
      ∧ t.fc.wire = (if s.fc.wire.contains m then s.fc.wire else s.fc.wire ++ [m]).erase y
      ∧ t.pw.pins.faultN = (if faultLow t then Level.low else Level.high)
      ∧ t = { s with fc := t.fc, pw := { s.pw with pins := { s.pw.pins with faultN := t.pw.pins.faultN } }, nw := t.nw })
  ∧ (∀ s p, s.pw.newelHalt = false → (s.fc.pending.find? fun p => p.cls == 3).or s.fc.pending.head? = some p →
    ∃ t, exec .faultMessageHandle s = .next t ∧ t.fc.pending = s.fc.pending.erase p)
  ∧ (∀ s w, bit w 31 = true → exec (.firstSrcClear w) s = .next { s with fc := { s.fc with first := ⟨false, false, 0, 0, 0, 0, 0, 0⟩ } })
  ∧ (∀ s w, bit w 31 = false → exec (.firstSrcClear w) s = .next s)
  ∧ (∀ s v, (s.fc.errqW - v).toNat ≤ 4096 → exec (.errqRptrWrite v) s = .next { s with fc := { s.fc with errqR := v } })
  ∧ (∀ s v, 4096 < (s.fc.errqW - v).toNat → exec (.errqRptrWrite v) s = .next s)

/-- TILE_CYCLE_START (R15, R327): gPTP time goes to the next tile cycle, 1 µs on or in phase with the epoch, and once the epoch has
come the cycle, frame and total follow from the time. -/
def Obligations.TileCycles : Prop :=
  (∀ s, s.tt.set = false → ∃ t, exec .tileCycleStart s = .next t ∧ t.now = s.now + 1000 ∧ t.tt.cycle = s.tt.cycle ∧ t.tt.level = s.mc.level
      ∧ t.mem = s.mem ∧ t.cx = s.cx)
  ∧ (∀ s, s.tt.set = true → s.pw.st = .run → s.tt.epoch ≤ s.now →
    let n := (s.now - s.tt.epoch) / 1000 + 1
    ∃ t, exec .tileCycleStart s = .next t ∧ t.now = s.tt.epoch + 1000 * n ∧ t.tt.total = n ∧ t.tt.frame = frameOf s.tt.rate n
      ∧ t.tt.cycle = n - frameStart s.tt.rate (frameOf s.tt.rate n))
/-- Commands of queues (R66, R136, R208, R249, R303, R307, R310, R313): one that nothing holds back leaves for its engine: it is outstanding
in its queue, and stands last in the issue queue of its Hall, among the launches, at the raster back end, at the Compression Island, at
the Outbound Port, or among the joins and leaves of its batch; a satisfied FENCE_WAIT and a FENCE_SIGNAL with nothing before it complete
at once, a signal raises its fence to its value; a wait that is not satisfied blocks its queue. -/
def Obligations.QueueCommands : Prop :=
  (∀ s q e k after va h load list cw x, freeToRun s q after x (.mxList h load list cw) = true → h < 4 → s.mh.halls.length = 4 → x.owner ≠ 0x300 →
    ∃ t, exec (.mxList q e k after va h load list cw) s = .next t
      ∧ queueOf t q = some (sent x ⟨x.owner, q, e, k⟩ 0x01 h va s.now)
      ∧ (hq (hallOf t h) load x.owner).entries = (hq (hallOf s h) load x.owner).entries
          ++ [{ listEntry ⟨x.owner, q, e, k⟩ list cw none with arrival := (hallOf s h).arrivals + 1 }]
      ∧ t = { queueFrame (acquiredFor s after) t with mh := t.mh })
  ∧ (∀ s q e k after va b list cw x y, freeToRun s q after x (.seqStep b list cw) = true → batchOf s b = some y → y.ctx = x.owner → y.hall < 4 →
    s.mh.halls.length = 4 → x.owner ≠ 0x300 →
    ∃ t, exec (.seqStep q e k after va b list cw) s = .next t
      ∧ queueOf t q = some (sent x ⟨x.owner, q, e, k⟩ 0x08 y.hall va s.now)
      ∧ (hq (hallOf t y.hall) false x.owner).entries = (hq (hallOf s y.hall) false x.owner).entries
          ++ [{ listEntry ⟨x.owner, q, e, k⟩ list cw (some b) with arrival := (hallOf s y.hall).arrivals + 1 }]
      ∧ t = { queueFrame (acquiredFor s after) t with mh := t.mh })
  ∧ (∀ s q e k after va b j x y, freeToRun s q after x (.seqJoin b j) = true → batchOf s b = some y → y.ctx = x.owner → y.hall < 4 →
    x.owner ≠ 0x300 → j < y.q → (y.active.any fun p => p.1 == j) = false → (y.waiting.any fun w => w.join && w.seq == j) = false →
    ∃ t, exec (.seqJoin q e k after va b j) s = .next t
      ∧ queueOf t q = some (sent x ⟨x.owner, q, e, k⟩ 0x09 y.hall va s.now)
      ∧ batchOf t b = some { y with waiting := y.waiting ++ [⟨⟨x.owner, q, e, k⟩, true, j, false⟩] }
      ∧ t = { queueFrame (acquiredFor s after) t with mh := t.mh })
  ∧ (∀ s q e k after va b j x y, freeToRun s q after x (.seqLeave b j) = true → batchOf s b = some y → y.ctx = x.owner → y.hall < 4 →
    x.owner ≠ 0x300 → j < y.q → (y.active.any fun p => p.1 == j) = true →
    ∃ t, exec (.seqLeave q e k after va b j) s = .next t
      ∧ queueOf t q = some (sent x ⟨x.owner, q, e, k⟩ 0x0A y.hall va s.now)
      ∧ batchOf t b = some { y with waiting := y.waiting ++ [⟨⟨x.owner, q, e, k⟩, false, j, false⟩] }
      ∧ t = { queueFrame (acquiredFor s after) t with mh := t.mh })
  ∧ (∀ s q e k after va a ind x w p, freeToRun s q after x (.launch a ind) = true → x.owner ≠ 0x300 → indCode (.launch a ind) = none →
    (readStruct s x.owner a 64 1).toOption = some w → structOk w 64 launchRsv = none → s.mem.upsets = [] →
    let prog := (wd w 1).toNat + bits (wd w 2) 15 0 * 2 ^ 32
    let u := sawStruct s x.owner a w
    (readStruct u x.owner prog 128 4).toOption = some p → launchCheck s x.owner w p (launchDims w ind) = none →
    ∃ t l, exec (.launch q e k after va a ind) s = .next t
      ∧ queueOf t q = some (sent x ⟨x.owner, q, e, k⟩ 0x02 16 va s.now)
      ∧ launchOf t s.sh.nextLaunch = some l ∧ t.sh.nextLaunch = s.sh.nextLaunch + 1
      ∧ l.ref = ⟨x.owner, q, e, k⟩ ∧ l.grid = (launchDims w ind).grid ∧ l.block = (launchDims w ind).block ∧ l.next = 0
      ∧ t = { queueFrame (acquiredFor s after) t with sh := t.sh, mem := (sawRange u x.owner prog (4 * p.length) 4).mem })
  ∧ (∀ s q e k after va a ind x w vs fs col dep s1 s2 s3 s4 s5, freeToRun s q after x (.pass a ind) = true → x.owner ≠ 0x300 →
    indCode (.pass a ind) = none → s.mem.upsets = [] →
    let ref : CmdRef := ⟨x.owner, q, e, k⟩
    (fetchStruct s ref a 128 1).toOption = some (s1, w) → structOk w 128 passRsv = none →
    let wi := (w.set 10 (((ind.getD 0 none).map fun v => BitVec.ofNat 32 v).getD (wd w 10))).set 11
      (((ind.getD 1 none).map fun v => BitVec.ofNat 32 v).getD (wd w 11))
    (fetchStruct s1 ref (va48 wi 4) 128 4).toOption = some (s2, vs) → (fetchStruct s2 ref (va48 wi 6) 128 4).toOption = some (s3, fs) →
    (fetchStruct s3 ref (pColour wi) 64 1).toOption = some (s4, col) →
    (if pDepth wi = 0 then Except.ok (s4, []) else fetchStruct s4 ref (pDepth wi) 64 1).toOption = some (s5, dep) →
    passCheck s x.owner wi vs fs col dep = none → pMode wi = 1 →
    ∃ t, exec (.pass q e k after va a ind) s = .next t
      ∧ queueOf t q = some (sent x ⟨x.owner, q, e, k⟩ 0x03 uGallery va s.now)
      ∧ (rasOf t x.owner).passes = (rasOf s x.owner).passes
          ++ [newPass ref wi true]
      ∧ t = { queueFrame (acquiredFor s after) t with rs := t.rs, mem := s5.mem })
  ∧ (∀ s q e k after va a x w f surf s1 s2, freeToRun s q after x (.present a) = true → x.owner ≠ 0x300 → s.mem.upsets = [] →
    (fetchFrom 0x350 uGallery s ⟨x.owner, q, e, k⟩ a 48 1).toOption = some (s1, w) →
    structOk w 48 presRsv = none → feedOf s (prFeed w) = some f → f.bound = true → fOwner f.words = x.owner →
    (fetchFrom 0x350 uGallery s1 ⟨x.owner, q, e, k⟩ (prSurf w) 64 1).toOption = some (s2, surf) → surfCheck surf = none → fmtLayer (sFmt surf) = true →
    ∃ t, exec (.present q e k after va a) s = .next t
      ∧ queueOf t q = some (sent x ⟨x.owner, q, e, k⟩ 0x04 uGallery va s.now)
      ∧ feedOf t (prFeed w) = some { f with presents := f.presents ++ [⟨⟨x.owner, q, e, k⟩, w, false, entryObjs s ⟨x.owner, q, e, k⟩⟩] }
      ∧ t.cc.done = s.cc.done ++ [(⟨x.owner, q, e, k⟩, 0, 0)]
      ∧ t = { queueFrame (acquiredFor s after) t with rs := t.rs, cc := t.cc, mem := s2.mem })
  ∧ (∀ s q e k after va a x, freeToRun s q after x (.encode a) = true → x.owner ≠ 0x300 →
    ∃ t, exec (.encode q e k after va a) s = .next t
      ∧ queueOf t q = some (sent x ⟨x.owner, q, e, k⟩ 0x05 uCompression va s.now)
      ∧ t.cm.jobs = s.cm.jobs ++ [⟨⟨x.owner, q, e, k⟩, a, true, [], false, 0, 0, 0, 0, 0, 0, 0, [], false⟩]
      ∧ t = { queueFrame (acquiredFor s after) t with cm := t.cm })
  ∧ (∀ s q e k after va a x, freeToRun s q after x (.decode a) = true → x.owner ≠ 0x300 →
    ∃ t, exec (.decode q e k after va a) s = .next t
      ∧ queueOf t q = some (sent x ⟨x.owner, q, e, k⟩ 0x06 uCompression va s.now)
      ∧ t.cm.jobs = s.cm.jobs ++ [⟨⟨x.owner, q, e, k⟩, a, false, [], false, 0, 0, 0, 0, 0, 0, 0, [], false⟩]
      ∧ t = { queueFrame (acquiredFor s after) t with cm := t.cm })
  ∧ (∀ s q e k after va src dst n ind x bar off pa d pol, freeToRun s q after x (.xfer src dst n ind) = true → indCode (.xfer src dst n ind) = none →
    s.ob.mode = 2 → s.ob.link = true → (s.ob.xfers.any fun z => z.ref == ⟨x.owner, q, e, k⟩) = false →
    let m := (ind.getD 0 none).getD n
    0 < m → m % 4 = 0 → (translate s x.owner src 1).toOption = some (.window bar off) → (translate s x.owner dst 2).toOption = some (.mem pa d pol) →
    let y : Xfer := ⟨⟨x.owner, q, e, k⟩, src, dst, m, 0, [], false⟩
    ∃ t, exec (.xfer q e k after va src dst n ind) s = .next t
      ∧ queueOf t q = some (sent x ⟨x.owner, q, e, k⟩ 0x07 uOutbound va s.now)
      ∧ t.ob = { s.ob with asked := (bar, off, xferPart y, s.ob.posted.length) :: s.ob.asked, xfers := s.ob.xfers ++ [{ y with reads := [(0, xferPart y, s.now)] }] }
      ∧ t = { queueFrame (acquiredFor s after) t with ob := t.ob })
  ∧ (∀ s q e k after va f ie v x y, freeToRun s q after x (.fenceWait f ie v) = true → fenceOf s f = some y → fenceRight y x.owner % 2 = 1 →
    (y.st ≠ .ok ∧ ie = true ∨ y.st = .ok ∧ v ≤ y.value) → x.out = [] → x.entries = [] → (s.cc.queues.all fun p => p.2.st != .blocked) = true →
    ∃ t, exec (.fenceWait q e k after va f ie v) s = .next t ∧ queueOf t q = some x
      ∧ t = { sysAcquire (compRecord (acquiredFor s after) 0x320 uConcourse ⟨x.owner, q, e, k⟩ va 0 0) with cc := t.cc })
  ∧ (∀ s q e k after va f ie v x y, freeToRun s q after x (.fenceWait f ie v) = true → fenceOf s f = some y → fenceRight y x.owner % 2 = 1 →
    y.st = .ok → y.value < v → x.entries = [] → (s.cc.queues.map Prod.fst).Nodup →
    (s.cc.queues.all fun p => p.2.st != .blocked) = true →
    exec (.fenceWait q e k after va f ie v) s = .next
      (writeStatus (modQueue (acquiredFor s after) q fun x => { x with st := .blocked, wait := some ⟨⟨x.owner, q, e, k⟩, f, v, ie, va, s.now⟩ }) q))
  ∧ (∀ s q e k after va f v x y, freeToRun s q after x (.fenceSignal f v) = true → fenceOf s f = some y → fenceRight y x.owner / 2 % 2 = 1 →
    x.out = [] → x.entries = [] → (s.cc.queues.all fun p => p.2.st != .blocked) = true →
    ∃ t, exec (.fenceSignal q e k after va f v) s = .next t ∧ fenceOf t f = some { y with value := max y.value v }
      ∧ queueOf t q = some x ∧ t = { compRecord (raiseFence (acquiredFor s after) f v) 0x320 uConcourse ⟨x.owner, q, e, k⟩ va 0 0 with cc := t.cc })
/-- The matrix instructions (R84 to R87): MX_ISSUE takes the lowest free token slot, gives the members its token and queues the
descriptor of the local store, and stalls while the Hall's domain is off (R18); MX_TEST and MX_WAIT give INVALID for a token that names no live issue and the completion word of a
completed one, whose slot is free again; while it runs MX_TEST gives PENDING and MX_WAIT waits. -/
def Obligations.MatrixInstructions : Prop :=
  (∀ s p w x l m b k, mxOk w 0 = true → lastArrival s p x l m = true → blockAt s p = some b →
    ((List.range 16).find? fun k => !((coreOf s p.core).tokens.getD k default).held) = some k →
    let off := (regGet s p (lowLane m) (bits w 43 36)).toNat
    let seq := (((coreOf s p.core).tokens.getD k default).seq + 1) % 2 ^ 21
    off % 128 = 0 → b.lsBase + off + 128 ≤ l.split * 32768 → hallRoom s (bits w 35 34) false l.ref.ctx = true → s.mh.halls.length = 4 →
    (domOf s (bits w 35 34)).pwr = 2 →
    ∃ t, exec (.mxIssue p w) s = .next t
      ∧ blockRegs t p = written (blockRegs s p) p.grp m (bits w 51 44) (fun _ => tokenWord p.core (bits w 35 34) k seq)
      ∧ (coreOf t p.core).tokens = (coreOf s p.core).tokens.set k ⟨seq, true, bits w 35 34, b.launch, none⟩
      ∧ (hq (hallOf t (bits w 35 34)) false l.ref.ctx).entries = (hq (hallOf s (bits w 35 34)) false l.ref.ctx).entries
          ++ [⟨l.ref, bytesWords (memGetN (coreOf s p.core).ls (b.lsBase + off) 128), p.core, k, b.launch, 0, 0, 0,
               (hallOf s (bits w 35 34)).arrivals + 1, none, false, b.lsBase, l.split * 32768⟩]
      ∧ otherCores s t p.core = true ∧ t = { s with sh := t.sh, mh := t.mh, pw := { s.pw with doms := t.pw.doms } })
  ∧ (∀ s p w x l m b d, mxOk w 0 = true → lastArrival s p x l m = true → blockAt s p = some b → (domOf s (bits w 35 34)).pwr = d → d ≠ 2 →
    ∃ t, exec (.mxIssue p w) s = .next t ∧ (subAt t p).map Subset.wait = some .coll ∧ blockRegs t p = blockRegs s p
      ∧ (coreOf t p.core).tokens = (coreOf s p.core).tokens ∧ t = { s with sh := t.sh, pw := { s.pw with doms := t.pw.doms } })
  ∧ (∀ s p w x l, mxOk w 2 = true → issues s p x l = true → tokenSlot s p.core (regGet s p (lowLane x.lanes) (bits w 43 36)) = none →
    ∃ t, exec (.mxTest p w) s = .next t ∧ blockRegs t p = written (blockRegs s p) p.grp x.lanes (bits w 51 44) (fun _ => mxWord 0x02 false)
      ∧ (coreOf t p.core).tokens = (coreOf s p.core).tokens ∧ otherCores s t p.core = true ∧ t = { s with sh := t.sh })
  ∧ (∀ s p w x l k, mxOk w 2 = true → issues s p x l = true → tokenSlot s p.core (regGet s p (lowLane x.lanes) (bits w 43 36)) = some k →
    ((coreOf s p.core).tokens.getD k default).word = none →
    ∃ t, exec (.mxTest p w) s = .next t ∧ blockRegs t p = written (blockRegs s p) p.grp x.lanes (bits w 51 44) (fun _ => mxWord 0x01 false)
      ∧ (coreOf t p.core).tokens = (coreOf s p.core).tokens ∧ otherCores s t p.core = true ∧ t = { s with sh := t.sh })
  ∧ (∀ s p w x l k v, mxOk w 2 = true → issues s p x l = true → tokenSlot s p.core (regGet s p (lowLane x.lanes) (bits w 43 36)) = some k →
    ((coreOf s p.core).tokens.getD k default).word = some v →
    ∃ t, exec (.mxTest p w) s = .next t ∧ blockRegs t p = written (blockRegs s p) p.grp x.lanes (bits w 51 44) (fun _ => v)
      ∧ (coreOf t p.core).tokens = upd (coreOf s p.core).tokens k (fun y => { y with held := false, word := none })
      ∧ otherCores s t p.core = true ∧ t = { s with sh := t.sh })
  ∧ (∀ s p w x l k v, mxOk w 1 = true → issues s p x l = true → tokenSlot s p.core (regGet s p (lowLane x.lanes) (bits w 43 36)) = some k →
    ((coreOf s p.core).tokens.getD k default).word = some v →
    ∃ t, exec (.mxWait p w) s = .next t ∧ blockRegs t p = written (blockRegs s p) p.grp x.lanes (bits w 51 44) (fun _ => v)
      ∧ (coreOf t p.core).tokens = upd (coreOf s p.core).tokens k (fun y => { y with held := false, word := none })
      ∧ otherCores s t p.core = true ∧ t = { s with sh := t.sh })
  ∧ (∀ s p w x l k, mxOk w 1 = true → issues s p x l = true → tokenSlot s p.core (regGet s p (lowLane x.lanes) (bits w 43 36)) = some k →
    ((coreOf s p.core).tokens.getD k default).word = none →
    ∃ t, exec (.mxWait p w) s = .next t ∧ (subAt t p).map Subset.wait = some (.token k (bits w 51 44)) ∧ blockRegs t p = blockRegs s p
      ∧ otherCores s t p.core = true ∧ t = { s with sh := t.sh })

/-- Collective regions (R146 to R152): CR.OPEN reached by every live thread of the group opens the region, CR.CLOSE takes its
threads out of it, SHUFFLE and VOTE act once every member has arrived, and a collective point that waits its limit stops its
launch with COLLECTIVE_TIMEOUT. -/
def Obligations.CollectiveRegions : Prop :=
  (∀ s p w x l g, syncOk w 0 = true → issues s p x l = true → groupAt s p = some g → g.region = none →
    ((g.subsets.eraseIdx p.sub).all fun y => y.wait == .coll && y.pc == x.pc) = true →
    ∃ t gr, exec (.crOpen p w) s = .next t ∧ groupAt t p = some gr ∧ gr.region = some (liveLanes g, 0)
      ∧ (gr.subsets.all fun y => y.wait == .run && y.pc == x.pc + 8) = true ∧ blockRegs t p = blockRegs s p
      ∧ otherCores s t p.core = true ∧ t = { s with sh := t.sh })
  ∧ (∀ s p w x l g m c, syncOk w 1 = true → issues s p x l = true → groupAt s p = some g → g.region = some (m, c) → subMask x.lanes m = true →
    disjointMasks x.lanes c = true → waitingColl g x.lanes = none →
    ∃ t, exec (.crClose p w) s = .next t ∧ (groupAt t p).map Group.region = some (if c ||| x.lanes = m then none else some (m, c ||| x.lanes))
      ∧ blockRegs t p = blockRegs s p ∧ otherCores s t p.core = true ∧ t = { s with sh := t.sh })
  ∧ (∀ s p x l m dst src sel, lastArrival s p x l m = true →
    let v := fun (i : Nat) =>
      if (regGet s p i sel).toNat < 32 ∧ m / 2 ^ (regGet s p i sel).toNat % 2 = 1 then regGet s p (regGet s p i sel).toNat src
      else Config.freeWord (s.free * 65536 + i)
    ∃ t, exec (.shuffle p dst src sel) s = .next t ∧ blockRegs t p = written (blockRegs s p) p.grp m dst v
      ∧ otherCores s t p.core = true ∧ t = { s with sh := t.sh, free := s.free + 1 })
  ∧ (∀ s p x l m dst src, lastArrival s p x l m = true →
    let yes := (lanesOf m).filter fun i => regGet s p i src != 0
    ∃ t, exec (.vote p dst src 2) s = .next t
      ∧ blockRegs t p = written (blockRegs s p) p.grp m dst (fun _ => BitVec.ofNat 32 (yes.foldl (fun a i => a + 2 ^ i) 0))
      ∧ otherCores s t p.core = true ∧ t = { s with sh := t.sh, free := s.free + 1 })
  ∧ (∀ s p x g lid l, groupAt s p = some g → subAt s p = some x → x.wait = .coll → coreLive s p.core = true → launchAt s p = some (lid, l) →
    g.subsets.foldl (fun m y => if y.wait = .coll ∧ y.pc = x.pc then m ||| y.lanes else m) 0 ≠
      (if inRegion g x.lanes then (g.region.map Prod.fst).getD 0 else liveLanes g) →
    ∃ t mx, exec (.collectiveTimeout p) s = .next t ∧ launchOf t lid = none
      ∧ t.cc.done = s.cc.done ++ [(l.ref, launchWord 0x13 mx, 0)]
      ∧ (t.fc.wire.getLast?.map fun f => (f.kind, f.unit, f.arg)) = some (0x19, 16 + p.core, 0x13)
      ∧ t = { s with sh := t.sh, mh := t.mh, cc := t.cc, fc := t.fc, mem := t.mem })

/-- Barriers and fences (R153, R180): an arrival is counted and BAR.ARRIVE goes on while BAR.SYNC waits; the arrival that completes
the phase resets the barrier and lets its waiters go on; a wide FENCE that releases writes the core's dirty bytes to memory, one
that acquires drops its clean lines. -/
def Obligations.BarriersAndFences : Prop :=
  (∀ s p w x l b n, issues s p x l = true → blockAt s p = some b → syncOk w 3 = true → bits w 51 48 < l.barriers →
    bits w 47 42 * 32 ≤ threads l.block → ((tget b.bars (bits w 51 48)).map Barrier.cnt).getD (bits w 47 42) = bits w 47 42 →
    let old := ((tget b.bars (bits w 51 48)).map Barrier.arrived).getD []
    n = Barrier.mk (bits w 47 42) (old ++ ((lanesOf x.lanes).map fun i => p.grp * 32 + i).filter fun i => !old.contains i) →
    ((tput b.bars (bits w 51 48) n).all fun y => !barDone b y.2) = true →
    ∃ t, exec (.barArrive p w) s = .next t ∧ (blockAt t p).map Block.bars = some (tput b.bars (bits w 51 48) n)
      ∧ blockRegs t p = blockRegs s p ∧ otherCores s t p.core = true ∧ t = { s with sh := t.sh })
  ∧ (∀ s p w x l b n g, issues s p x l = true → blockAt s p = some b → groupAt s p = some g → (g.subsets.all fun y => y.wait != .join) = true →
    syncOk w 2 = true → bits w 51 48 < l.barriers →
    bits w 47 42 * 32 ≤ threads l.block → ((tget b.bars (bits w 51 48)).map Barrier.cnt).getD (bits w 47 42) = bits w 47 42 →
    let old := ((tget b.bars (bits w 51 48)).map Barrier.arrived).getD []
    n = Barrier.mk (bits w 47 42) (old ++ ((lanesOf x.lanes).map fun i => p.grp * 32 + i).filter fun i => !old.contains i) →
    ((tput b.bars (bits w 51 48) n).all fun y => !barDone b y.2) = true →
    ∃ t, exec (.barSync p w) s = .next t ∧ (blockAt t p).map Block.bars = some (tput b.bars (bits w 51 48) n)
      ∧ (subAt t p).map Subset.wait = some (.bar (bits w 51 48))
      ∧ blockRegs t p = blockRegs s p ∧ otherCores s t p.core = true ∧ t = { s with sh := t.sh })
  ∧ (∀ s p w x l b n, issues s p x l = true → blockAt s p = some b → syncOk w 2 = true → bits w 51 48 < l.barriers →
    bits w 47 42 * 32 ≤ threads l.block → ((tget b.bars (bits w 51 48)).map Barrier.cnt).getD (bits w 47 42) = bits w 47 42 →
    let old := ((tget b.bars (bits w 51 48)).map Barrier.arrived).getD []
    n = Barrier.mk (bits w 47 42) (old ++ ((lanesOf x.lanes).map fun i => p.grp * 32 + i).filter fun i => !old.contains i) →
    barDone b n = true →
    ∃ t bl, exec (.barSync p w) s = .next t ∧ blockAt t p = some bl ∧ tget bl.bars (bits w 51 48) = none
      ∧ (bl.groups.all fun g => g.subsets.all fun y => y.wait != .bar (bits w 51 48)) = true
      ∧ blockRegs t p = blockRegs s p ∧ otherCores s t p.core = true ∧ t = { s with sh := t.sh })
  ∧ (∀ s p w x l, issues s p x l = true → syncOk w 4 = true → bits w 41 40 < 2 →
    ∃ t, exec (.fence p w) s = .next t ∧ (coreOf t p.core).cache = (coreOf s p.core).cache ∧ (coreOf t p.core).tex = (coreOf s p.core).tex
      ∧ blockRegs t p = blockRegs s p ∧ otherCores s t p.core = true ∧ t = { s with sh := t.sh })
  ∧ (∀ s p w x l, issues s p x l = true → syncOk w 4 = true → 2 ≤ bits w 41 40 → bits w 39 38 = 2 →
    let u : State := (coreOf s p.core).cache.foldl writeBack s
    ∃ t, exec (.fence p w) s = .next t
      ∧ (coreOf t p.core).cache = (coreOf s p.core).cache.map (fun y => { y with dirty := List.replicate 128 false })
      ∧ blockRegs t p = blockRegs s p ∧ otherCores s t p.core = true ∧ t = { s with sh := t.sh, mem := u.mem, fc := u.fc })
  ∧ (∀ s p w x l y, issues s p x l = true → syncOk w 4 = true → 2 ≤ bits w 41 40 → bits w 39 38 = 2 → (coreOf s p.core).cache = [y] →
    tagOk s y.addr y.tag = true →
    ∃ t, exec (.fence p w) s = .next t ∧ t.mem.cells = flushLine s.mem.cells y ∧ t.fc = s.fc)
  ∧ (∀ s p w x l, issues s p x l = true → syncOk w 4 = true → 2 ≤ bits w 41 40 → bits w 39 38 = 1 →
    ∃ t, exec (.fence p w) s = .next t ∧ (coreOf t p.core).tex = []
      ∧ (coreOf t p.core).cache = ((coreOf s p.core).cache.filter (fun y => !clean y)).map (freshLine s.mem.cells)
      ∧ blockRegs t p = blockRegs s p ∧ otherCores s t p.core = true ∧ t = { s with sh := t.sh })

/-- Loads, stores, atomics and fetches of a thread (R155, R172, R174, R182, R203): a COHERENT store writes memory at the bytes its
address register pair names and nowhere else, a CACHED one stays in the core's data cache and memory is unchanged; a load gives
what the core's cache or memory holds; an atomic gives the old value and stores the new; a point fetch gives the texel's channels.
Local-store accesses touch the core's local store alone. -/
def Obligations.ShaderMemory : Prop :=
  (∀ s p addr src n x l i ps, issues s p x l = true → lanesOf x.lanes = [i] → n ≤ 4 →
    (places s p.core l.ref.ctx (pairAddr s p i addr) n 2).toOption = some ps → (ps.all fun y => match y with | .mem _ _ pol => pol == 1 | .window _ _ => false) = true →
    ∃ t, exec (.shaderStore p addr src n false) s = .next t
      ∧ t.mem.cells = putBytes s.mem.cells (ps.map fun y => match y with | .mem pa d _ => (pa, d) | .window _ _ => (0, 0)) (leBytes n (regGet s p i src).toNat)
      ∧ blockRegs t p = blockRegs s p ∧ otherCores s t p.core = true
      ∧ t = { s with sh := t.sh, mem := { s.mem with cells := t.mem.cells, mz := t.mem.mz, upsets := t.mem.upsets } })
  ∧ (∀ s p addr src n x l i ps, issues s p x l = true → lanesOf x.lanes = [i] → n ≤ 4 → cacheRoom s p.core n = true →
    (places s p.core l.ref.ctx (pairAddr s p i addr) n 2).toOption = some ps → (ps.all fun y => match y with | .mem _ _ pol => pol != 1 | .window _ _ => false) = true →
    ∃ t, exec (.shaderStore p addr src n false) s = .next t
      ∧ t.mem.cells = s.mem.cells ∧ blockRegs t p = blockRegs s p ∧ otherCores s t p.core = true
      ∧ t = { s with sh := t.sh, mem := { s.mem with mz := t.mem.mz } })
  ∧ (∀ s p addr src n x l a i, issues s p x l = true → lanesOf x.lanes = [i] → n ≤ 4 → lsSpan s p (regGet s p i addr).toNat n = some a →
    ∃ t, exec (.shaderStore p addr src n true) s = .next t
      ∧ (coreOf t p.core).ls = memPutN (coreOf s p.core).ls a (leBytes n (regGet s p i src).toNat)
      ∧ blockRegs t p = blockRegs s p ∧ otherCores s t p.core = true ∧ t = { s with sh := t.sh })
  ∧ (∀ s p dst addr n x l i ps, issues s p x l = true → lanesOf x.lanes = [i] → n ≤ 4 → cacheRoom s p.core n = true →
    (places s p.core l.ref.ctx (pairAddr s p i addr) n 1).toOption = some ps → (ps.all fun y => !isWindow y) = true →
    let seen := fun (y : Place) => match y with
      | .mem pa _ pol => if pol = 1 then memGet s.mem.cells pa else (cacheByte s p.core pa).getD (memGet s.mem.cells pa)
      | .window _ _ => 0
    ∃ t, exec (.shaderLoad p dst addr n false) s = .next t
      ∧ blockRegs t p = written (blockRegs s p) p.grp x.lanes dst (fun _ => BitVec.ofNat 32 (ofLe (ps.map seen)))
      ∧ t.mem.cells = s.mem.cells ∧ otherCores s t p.core = true
      ∧ t = { s with sh := t.sh, mem := { s.mem with mz := t.mem.mz } })
  ∧ (∀ s p dst addr n x l, issues s p x l = true → n ≤ 4 →
    ((lanesOf x.lanes).all fun i => (lsSpan s p (regGet s p i addr).toNat n).isSome) = true →
    let v := fun (i : Nat) => BitVec.ofNat 32 (ofLe (memGetN (coreOf s p.core).ls ((lsSpan s p (regGet s p i addr).toNat n).getD 0) n))
    ∃ t, exec (.shaderLoad p dst addr n true) s = .next t ∧ blockRegs t p = written (blockRegs s p) p.grp x.lanes dst v
      ∧ (coreOf t p.core).ls = (coreOf s p.core).ls ∧ otherCores s t p.core = true ∧ t = { s with sh := t.sh })
  ∧ (∀ s p op dst addr src cmp x l i ps, issues s p x l = true → lanesOf x.lanes = [i] →
    (translateN s l.ref.ctx (pairAddr s p i addr) 4 2).toOption = some ps → s.mem.upsets = [] →
    let m := (ps.foldl (fun s q => evictLine (dropTex s p.core q.1) p.core q.1) s).mem.cells
    let old := ofLe (ps.map fun q => memGet m q.1)
    ∃ t, exec (.atomic p op false false dst addr src cmp) s = .next t
      ∧ t.mem.cells = putBytes m ps (leBytes 4 (atomVal op 32 old (regGet s p i src).toNat (regGet s p i cmp).toNat))
      ∧ blockRegs t p = written (blockRegs s p) p.grp x.lanes dst (fun _ => lo32 old) ∧ otherCores s t p.core = true
      ∧ t = { s with sh := t.sh, fc := t.fc, mem := { s.mem with cells := t.mem.cells, mz := t.mem.mz } })
  ∧ (∀ s p op dst addr src cmp x l i a, issues s p x l = true → lanesOf x.lanes = [i] → lsSpan s p (regGet s p i addr).toNat 4 = some a →
    let old := ofLe (memGetN (coreOf s p.core).ls a 4)
    ∃ t, exec (.atomic p op false true dst addr src cmp) s = .next t
      ∧ (coreOf t p.core).ls = memPutN (coreOf s p.core).ls a (leBytes 4 (atomVal op 32 old (regGet s p i src).toNat (regGet s p i cmp).toNat))
      ∧ blockRegs t p = written (blockRegs s p) p.grp x.lanes dst (fun _ => lo32 old) ∧ otherCores s t p.core = true
      ∧ t = { s with sh := t.sh })
  ∧ (∀ s p dst surf cx cy lev mx my x lid l i w ps d, issues s p x l = true → launchAt s p = some (lid, l) → lanesOf x.lanes = [i] →
    (readStruct s l.ref.ctx (pairAddr s p i surf) 64 1).toOption = some w → surfCheck w = none → sComp w = false →
    (coreOf s p.core).tex = [] → (coreOf s p.core).cache = [] → s.mem.upsets = [] →
    let q := fun (r : Nat) => f32ToQ (regGet s p i r).toNat
    let j := (clampI 0 ((sLevels w - 1 : Nat) : Int) (qRound (q lev))).toNat
    let tx := addrCoord mx (levelW w j) (qFloor (qMul (q cx) (qMk (levelW w j) (max 1 (sW w)))))
    let ty := addrCoord my (levelH w j) (qFloor (qMul (q cy) (qMk (levelH w j) (max 1 (sH w)))))
    let off := texelOff w j tx ty
    let u := sawStruct s l.ref.ctx (pairAddr s p i surf) w
    (translateN u l.ref.ctx (sData w + off) (fmtBytes (sFmt w)) 1).toOption = some ps → (devRead u l.ref.ctx (sData w + off / 128 * 128) 128).toOption = some d →
    let ch := texelFrs (modeOf s p.core lid).1 (sFmt w) (chunk d (off % 128) (fmtBytes (sFmt w)))
    (modeOf s p.core lid).2 = false ∨ (ch.any Fr.nan) = false →
    ∃ t, exec (.textureFetch p dst surf cx cy lev 0 mx my) s = .next t
      ∧ blockRegs t p = writtenWords (blockRegs s p) p.grp x.lanes dst (fun _ => ch.map Fr.w)
      ∧ t.mem.cells = s.mem.cells ∧ otherCores s t p.core = true
      ∧ t = { s with sh := t.sh, num := t.num, mem := { s.mem with mz := t.mem.mz } })

/-- Flow of threads and blocks (R89, R137 to R144, R159 to R164): a branch leaves one subset for each target with lanes and one for the
lanes no target takes; a subset that ends leaves its group; the next block of a launch starts on the core it picks with every thread
at the entry; a slot end saves the resident blocks and suspends what the
Halls do with the core's local store, and the next slot of the context restores them. -/
def Obligations.ShaderFlow : Prop :=
  (∀ s p targets x l g, issues s p x l = true → groupAt s p = some g → g.subsets = [x] → x.back = 0 →
    let named := targets.foldl (fun m (y : Nat × Nat) => m ||| (y.1 &&& x.lanes)) 0
    let all := ((targets.map fun (y : Nat × Nat) => (y.1 &&& x.lanes, y.2)) ++ [(x.lanes &&& (2 ^ 32 - 1 - named), x.pc + 8)]).filter fun (y : Nat × Nat) => y.1 != 0
    ∃ t, exec (.branch p targets []) s = .next t
      ∧ ((groupAt t p).map fun g => g.subsets.map fun y => (y.lanes, y.pc, y.wait)) = some (all.map fun (y : Nat × Nat) => (y.1, y.2, SWait.run))
      ∧ blockRegs t p = blockRegs s p ∧ otherCores s t p.core = true ∧ t = { s with sh := t.sh })
  ∧ (∀ s p x l g b, issues s p x l = true → groupAt s p = some g → inRegion g x.lanes = false →
    isMember g x.lanes = false ∨ waitingColl g x.lanes = none → blockAt s p = some b → b.bars = [] →
    (g.subsets.all fun y => y.wait != .join) = true →
    (g.subsets.any fun y => y.lanes != x.lanes) = true → ((coreOf s p.core).blocks.all fun b => b.groups.any fun g => !g.subsets.isEmpty) = true →
    (s.sh.launches.all fun q => decide (q.2.ended < threads q.2.grid)) = true →
    ∃ t, exec (.endInstruction p) s = .next t ∧ ((groupAt t p).map fun g => g.subsets.any fun y => y.lanes == x.lanes && y.pc == x.pc) = some false
      ∧ blockRegs t p = blockRegs s p ∧ otherCores s t p.core = true ∧ t = { s with sh := t.sh })
  ∧ (∀ s lid l k base, launchOf s lid = some l → l.next < threads l.grid → pickCore s l = some k → l.checked = true → lsFit s (coreOf s k) l = some base →
    ∃ t b, exec (.blockStart lid) s = .next t ∧ (coreOf t k).blocks = (coreOf s k).blocks ++ [b] ∧ b.launch = lid ∧ b.index = l.next
      ∧ b.lsBase = base ∧ b.regs.length = threads l.block
      ∧ b.groups = List.replicate (threads l.block / 32) ⟨[⟨2 ^ 32 - 1, l.entry, .run, 0, 0⟩], none, 0⟩
      ∧ launchOf t lid = some { l with next := l.next + 1 } ∧ otherCores s t k = true ∧ t = { s with sh := t.sh, free := s.free + 1 })
  ∧ (∀ s k, 8 ≤ k → k < 32 → s.sh.cores.length = 32 → (coreOf s k).kind ≠ 0 → (coreOf s k).blocks ≠ [] →
    let u : State := (coreOf s k).cache.foldl writeBack s
    ∃ t v, exec (.shaderSlotEnd k) s = .next t ∧ tget (coreOf t k).saved (coreOf s k).ctx = some v ∧ v.blocks = (coreOf s k).blocks
      ∧ v.ls = (coreOf s k).ls ∧ v.tokens = (coreOf s k).tokens ∧ v.split = (coreOf s k).split ∧ (coreOf t k).kind = 0 ∧ (coreOf t k).xfer = 1
      ∧ (coreOf t k).blocks = [] ∧ (coreOf t k).ls = [] ∧ t.mh = (suspendLocal s k).mh
      ∧ otherCores s t k = true ∧ t = { s with sh := t.sh, mh := t.mh, mem := u.mem, fc := u.fc })
  ∧ (∀ s k, k < 32 → s.sh.cores.length = 32 →
    exec (.shaderSaveDone k) s = .next { s with sh := { s.sh with cores := upd s.sh.cores k fun c => if c.xfer = 1 then { c with xfer := 0, ctx := 0 } else c } })
  ∧ (∀ s k ctx v, 8 ≤ k → k < 32 → s.sh.cores.length = 32 → (coreOf s k).kind = 0 → (coreOf s k).xfer ≠ 1 → slotCtx s (16 + k) = some ctx →
    tget (coreOf s k).saved ctx = some v →
    let r := reissueBlocks v.blocks s
    ∃ t, exec (.shaderSlotStart k) s = .next t ∧ (coreOf t k).kind = 2 ∧ (coreOf t k).ctx = ctx ∧ (coreOf t k).blocks = r.2 ∧ (coreOf t k).xfer = 0
      ∧ (coreOf t k).modes = r.2.foldl (fun m b => tput m b.launch (sampled s ctx)) []
      ∧ (coreOf t k).ls = v.ls ∧ (coreOf t k).tokens = v.tokens ∧ (coreOf t k).split = v.split ∧ (coreOf t k).cache = []
      ∧ otherCores s t k = true ∧ t = { s with sh := t.sh, ob := r.1.ob })

/-- Shader arithmetic (R111, R112, R116, R118, R126): every lane's destination registers get the operation's result on its operand
registers under the subnormal control its launch sampled; an undiverged group goes on to the next instruction; where the trap is enabled a NaN
that the operation produced stops the launch. -/
def Obligations.ShaderArithmetic : Prop :=
  (∀ s p op dst a b c x lid l, issues s p x l = true → launchAt s p = some (lid, l) →
    let res := fun (i : Nat) => arithWords (modeOf s p.core lid).1 op (fun r => (regGet s p i r).toNat) a b c
    (modeOf s p.core lid).2 = false ∨ ((lanesOf x.lanes).any fun i => (res i).2.1) = false →
    ∃ t, exec (.arithmeticInstruction p op dst a b c) s = .next t
      ∧ blockRegs t p = writtenWords (blockRegs s p) p.grp x.lanes dst (fun i => (res i).1)
      ∧ otherCores s t p.core = true ∧ t = { s with sh := t.sh, num := t.num, free := s.free + 1 })
  ∧ (∀ s p op dst a b c x lid l g, issues s p x l = true → launchAt s p = some (lid, l) → (modeOf s p.core lid).2 = false →
    groupAt s p = some g → g.subsets = [x] →
    ∃ t, exec (.arithmeticInstruction p op dst a b c) s = .next t
      ∧ subAt t p = some { x with pc := x.pc + 8, back := if g.last &&& x.lanes = 0 then 0 else x.back, owed := 0 })
  ∧ (∀ s p op dst a b c x lid l, issues s p x l = true → launchAt s p = some (lid, l) → (modeOf s p.core lid).2 = true →
    ((lanesOf x.lanes).any fun i => (arithWords (modeOf s p.core lid).1 op (fun r => (regGet s p i r).toNat) a b c).2.1) = true →
    ∃ t mx, exec (.arithmeticInstruction p op dst a b c) s = .next t ∧ launchOf t lid = none
      ∧ t.cc.done = s.cc.done ++ [(l.ref, launchWord 0x09 mx, 0)]
      ∧ (t.fc.wire.getLast?.map fun f => (f.kind, f.unit, f.arg)) = some (0x18, 16 + p.core, 0x09)
      ∧ t = { s with sh := t.sh, mh := t.mh, cc := t.cc, fc := t.fc, num := t.num, mem := t.mem })
/-- The Halls' events (R66, R69, R89, R120, R125): a run samples the numeric controls and the trap; a descriptor that passes its checks
and has no hazard starts; WLOAD and ALOAD move their bytes from the context's memory into its region and ASTORE out of it, and the last
descriptor completes its command with DETAIL 0xFFFF_FFFF; a slot end leaves the Hall idle. -/
def Obligations.HallEvents : Prop :=
  (∀ s h c tag, h < 4 → s.mh.halls.length = 4 → (hallOf s h).kind ≠ 2 → (hallOf s h).kind ≠ 3 → maintLen ≤ s.tt.cycle →
    s.fc.hallOut.getD h false = false → slotNow s h = some (2, c, tag) →
    ∃ t, exec (.hallRunStart h 0 []) s = .next t ∧ (hallOf t h).kind = 2 ∧ (hallOf t h).ctx = c
      ∧ (hallOf t h).keep = (s.num.keep && s.num.svc != 0) ∧ (hallOf t h).trap = (c == 0x200 || ((ctxOf s c).map Ctx.nanTrap).getD false)
      ∧ (hallOf t h).busy = ((hq (hallOf s h) false c).entries != []) ∧ t = { s with mh := t.mh })
  ∧ (∀ s h e r w, h < 4 → s.mh.halls.length = 4 → (hallOf s h).busy = true → (hallOf s h).kind = 2 →
    (hq (hallOf s h) false (hallOf s h).ctx) = ⟨e :: r, none⟩ → e.single = [] → e.batch = none → e.ref.ctx = (hallOf s h).ctx →
    let s1 := modHall s h fun y => setHq y false y.ctx { hq y false y.ctx with entries := (hq y false y.ctx).entries.map fun z =>
      if z.arrival = e.arrival then { e with stepped := true } else z }
    (readStruct s1 e.ref.ctx (e.va + 128 * e.idx) 128 1).toOption = some w → dSeq w = false → dDep w = false → s.mem.upsets = [] →
    let s2 := sawStruct s1 e.ref.ctx (e.va + 128 * e.idx) w
    let e2 := { e with stepped := true }
    let stop := if dOp w = 0 then none else xferStop s2 e2 w 0 (lookTo w 0)
    checkDesc s2 (issueOf h false e2) w [] = none → hazard s2 h false e2 w [] = false → noLaunchEnds s = true →
    ∃ t, exec (.descriptorStart h) s = .next t
      ∧ (hq (hallOf t h) false e.ref.ctx).run = some ⟨w, (hallOf s h).started + 1, 0, false, [], 0, stop, false⟩
      ∧ (hallOf t h).started = (hallOf s h).started + 1 ∧ t = { s with mh := t.mh, mem := { s.mem with mz := t.mem.mz } })
  ∧ (∀ s h e r bs, lastOfList s h e r = true → dOp r.words = 1 → r.moved = 0 → r.stop = none → r.susp = false → s.mem.upsets = [] →
    (devRead s e.ref.ctx (dVa r.words) (dLen r.words)).toOption = some bs →
    ∃ t, exec (.descriptorComplete h) s = .next t ∧ t.cc.done = s.cc.done ++ [(e.ref, 0, 0xFFFFFFFF)]
      ∧ ((List.range (dLen r.words)).all fun k => storeByte (hallOf t h).wst (hallOf t h).wOwner e.ref.ctx
          ((regionOf s h e.ref.ctx).wBase * unitBytes + dBBase r.words + k) == bs.getD k 0) = true
      ∧ t = { s with mh := t.mh, cc := t.cc, free := s.free + 1, mem := { s.mem with mz := t.mem.mz } })
  ∧ (∀ s h e r bs, lastOfList s h e r = true → dOp r.words = 2 → r.moved = 0 → r.stop = none → r.susp = false → s.mem.upsets = [] →
    (devRead s e.ref.ctx (dVa r.words) (dLen r.words)).toOption = some bs →
    ∃ t, exec (.descriptorComplete h) s = .next t ∧ t.cc.done = s.cc.done ++ [(e.ref, 0, 0xFFFFFFFF)]
      ∧ ((List.range (dLen r.words)).all fun k => storeByte (hallOf t h).ast (hallOf t h).aOwner e.ref.ctx
          ((regionOf s h e.ref.ctx).aBase * unitBytes + dABase r.words + k) == bs.getD k 0) = true
      ∧ t = { s with mh := t.mh, cc := t.cc, free := s.free + 1, mem := { s.mem with mz := t.mem.mz } })
  ∧ (∀ s h e r ps, lastOfList s h e r = true → dOp r.words = 3 → r.moved = 0 → r.stop = none → r.susp = false → (hallOf s h).badRows = [] → (hallOf s h).fresh = [] →
    (translateN s e.ref.ctx (dVa r.words) (dLen r.words) 2).toOption = some ps →
    let out := (List.range (dLen r.words)).map fun k =>
      locByte s h e.ref.ctx (.act ((regionOf s h e.ref.ctx).aBase * unitBytes + dABase r.words + k))
    ∃ t, exec (.descriptorComplete h) s = .next t ∧ t.cc.done = s.cc.done ++ [(e.ref, 0, 0xFFFFFFFF)]
      ∧ t.mem.cells = putBytes s.mem.cells ps out
      ∧ t = { s with mh := t.mh, cc := t.cc, free := s.free + 1, mem := { s.mem with cells := t.mem.cells, mz := t.mem.mz, upsets := t.mem.upsets } })
  ∧ (∀ s h, h < 4 → s.mh.halls.length = 4 → noLaunchEnds s = true →
    let x := hallOf s h
    let q := hq x (slotLoad x) x.ctx
    (q.run.all fun r => dOp r.words == 0 && decide (r.next < passCount r.words (dVecs r.words r.seqs))) = true →
    ∃ t, exec (.hallSlotEnd h 0) s = .next t ∧ (hallOf t h).busy = false ∧ (hallOf t h).kind = 0 ∧ (hallOf t h).ctx = 0 ∧ (hallOf t h).fresh = []
      ∧ hq (hallOf t h) (slotLoad x) x.ctx = { q with run := q.run.map fun r => { r with susp := false } }
      ∧ (∀ l c, (l, c) ≠ (slotLoad x, x.ctx) → hq (hallOf t h) l c = hq x l c)
      ∧ t = { s with mh := { s.mh with halls := s.mh.halls.set h { x with
          busy := false, kind := 0, ctx := 0, fresh := [], comp := (hallOf t h).comp, load := (hallOf t h).load } } })

/-- The coders (R249, R253, R255 to R258): the job that reaches a free coder starts or resumes; at a block boundary a ready feed tile
goes before job work, and an ENCODE codes its next block to its coded buffer; a slot end suspends the job; a coded tile enters its
feed's ring with its record. -/
def Obligations.Coders : Prop :=
  (∀ s c ctx j w, c < 8 → residentJob s c = none → slotCtx s (72 + c) = some ctx → nextJob s c ctx = some j → j.started = false →
    (readStruct s ctx j.va 128 1).toOption = some w → jobCheck s ctx j.enc w = none → s.mem.upsets = [] →
    let hist := if jInit w then [] else ((cmpSlotOf s (jSlot w)).map CmpSlot.hist).getD []
    ∃ t, exec (.compressionJobStart c) s = .next t ∧ t = { s with mem := { s.mem with mz := t.mem.mz }, cm := { s.cm with
      slot := upd s.cm.slot c fun _ => some ctx,
      jobs := s.cm.jobs.map fun y => if y.ref = j.ref then { y with words := w, started := true, coder := c, next := jStart w, hist := hist } else y } })
  ∧ (∀ s c ctx j, c < 8 → residentJob s c = none → slotCtx s (72 + c) = some ctx → nextJob s c ctx = some j → j.started = true →
    exec (.compressionJobStart c) s = .next { s with cm := { s.cm with
      slot := upd s.cm.slot c fun _ => some ctx,
      jobs := s.cm.jobs.map fun y => if y.ref = j.ref then { y with suspended := false, coder := c } else y } })
  ∧ (∀ s c k e f chk, c < 8 → coderFeed s c = none → nextTile s c = some (k, e) → feedCodeOf s k = some f → f.ring.length < f.ringTiles →
    exec (.coderBlockBoundary c false chk) s = .next { s with cm := { s.cm with
      feeds := tmod s.cm.feeds k fun f => { f with queue := f.queue.drop 1, coding := some e } } })
  ∧ (∀ s c j u v ps, c < 8 → coderFeed s c = none → nextTile s c = none → residentJob s c = some j → j.enc = true → jErr j.words = 0 →
    j.bytes + jSize j.words ≤ jLen j.words → j.next + 1 < jobBlocks j.words → (readRows s j.ref.ctx (blockRows j.words j.next)).toOption = some (u, v) → s.mem.upsets = [] →
    let b := encodeBlock (jRatio j.words) (jDepth j.words) (jEffort j.words) (blockPos j.words 3 0 j.next).1 (blockPos j.words 3 0 j.next).2.1
      (blockPos j.words 3 0 j.next).2.2 j.hist v
    (translateN u j.ref.ctx (jCoded j.words + (j.next - jStart j.words) * jSize j.words) b.1.length 2).toOption = some ps →
    ∃ t, exec (.coderBlockBoundary c false true) s = .next t ∧ t.mem.cells = putBytes s.mem.cells ps b.1
      ∧ t.cm.jobs = s.cm.jobs.map (fun y => if y.ref = j.ref then
          { j with next := j.next + 1, blocks := j.blocks + 1, bytes := j.bytes + jSize j.words, maxErr := max j.maxErr (sat 0xFFFF b.2),
                   lossless := j.lossless + (if bit (b.1.headD 0) 7 then 1 else 0), hist := j.hist ++ [histOf b.1] } else y)
      ∧ t = { s with mem := { s.mem with cells := t.mem.cells, mz := t.mem.mz }, cm := { s.cm with jobs := t.cm.jobs } })
  ∧ (∀ s c j, residentJob s c = some j →
    exec (.compressionSlotEnd c) s = .next { s with cm := { s.cm with
      slot := upd s.cm.slot c fun _ => none,
      jobs := s.cm.jobs.map fun y => if y.ref = j.ref then { y with suspended := true } else y } })
  ∧ (∀ s k f e crc, feedCodeOf s k = some f → f.coding = some e → s.hp.slots ≤ e.slot + 64 → (s.cm.feeds.all fun p => p.2.sink == 1) = true →
    let r := codeBlocks f e (List.range 64) ([], 0, if e.frame = f.frame then f.hist else [])
    exec (.feedTileCoded k true crc) s = .next { s with cm := { s.cm with
      feeds := tmod s.cm.feeds k fun y =>
        { y with coding := none, hist := r.2.2, frame := e.frame, ring := y.ring ++ [wordBytes (tileRecord k f e r.2.1) ++ r.1] } } })
  ∧ (∀ s k f e, s.cm.feeds = [(k, f)] → f.coding = some e → s.hp.slots ≤ e.slot + 64 → f.sink = 0 → f.ring = [] → landingOn s f.port = true →
    let r := codeBlocks f e (List.range 64) ([], 0, if e.frame = f.frame then f.hist else [])
    ∃ t, exec (.feedTileCoded k true true) s = .next t
      ∧ t.ring.tx = s.ring.tx ++ [⟨0, 0x30, 0, 0, 0, 0, false, 0, 0, wordBytes (tileRecord k f e r.2.1) ++ r.1, 2 ^ f.port, 3, false, s.now, 64, f.dest⟩]
      ∧ t.cm.feeds = [(k, { f with coding := none, hist := r.2.2, frame := e.frame, ring := [] })]
      ∧ t = { s with cm := { s.cm with feeds := t.cm.feeds }, ring := t.ring })

/-- The Concourse's events (R303, R306, R308, R312, R317, R318, R320, R321): a doorbell takes its entries; the first queue in the serving order
dispatches its next command; the oldest finished command completes with its record, and with a faulting code its queue faults; a
blocked wait that takes WAIT_MS faults its queue with WAIT_TIMEOUT; the last engine's report leaves a queue under destroy empty. -/
def Obligations.Concourse : Prop :=
  (∀ s m who x, doorbellOwner m = some who → (mbxOf s m).full = true → concRuns s = true →
    let q := bits (mbxOf s m).word 51 41
    let wptr := bits (mbxOf s m).word 31 0
    let d := (wptr + 2 ^ 32 - x.w) % 2 ^ 32
    queueOf s q = some x → x.owner = who → x.st ≠ .free → x.st ≠ .destroying → x.w < 2 ^ 32 → d ≤ 64 →
    (wptr + 2 ^ 32 - x.rptr) % 2 ^ 32 ≤ 2 ^ x.ringLog2 → s.mem.upsets = [] →
    ∃ t y, exec (.doorbellTake m) s = .next t ∧ (mbxOf t m).full = false ∧ queueOf t q = some y ∧ y.w = wptr
      ∧ y.entries.length = x.entries.length + d ∧ y.entries.take x.entries.length = x.entries ∧ y = { x with w := y.w, entries := y.entries }
      ∧ t.mem = { s.mem with mz := t.mem.mz })
  ∧ (∀ s, (s.cc.queues.all fun p => p.2.entries.isEmpty) = true → exec .dispatch s = .next s)
  ∧ (∀ s q x e ws, concRuns s = true → (serveOrder s).head? = some q → queueOf s q = some x → x.st = .active → x.owner ≠ 0x300 →
    dispatchEntry x = some e → e.bad = false → e.opened = true → e.idx + 1 < e.count → (nextWords s x.owner e).toOption = some ws →
    bits (wd ws 0) 31 24 = 0x05 → bit (wd ws 0) 15 = false → (domOf s 9).pwr = 2 → s.mem.upsets = [] →
    ∃ t y, exec .dispatch s = .next t ∧ t.cc.rr = q ∧ queueOf t q = some y
      ∧ y = { sent x ⟨x.owner, q, e.k, e.idx⟩ 0x05 uCompression e.compVa s.now with
          entries := x.entries.map fun z => if z.k = e.k then { e with pos := e.pos + 4 * ws.length, idx := e.idx + 1 } else z }
      ∧ t.cm.jobs = s.cm.jobs ++ [⟨⟨x.owner, q, e.k, e.idx⟩, cmdVa ws 1, true, [], false, 0, 0, 0, 0, 0, 0, 0, [], false⟩]
      ∧ t = { s with cc := t.cc, cm := t.cm, mem := { s.mem with mz := t.mem.mz }, pw := { s.pw with doms := t.pw.doms } })
  ∧ (∀ s d r x o, s.cc.done = d :: r → queueOf s d.1.queue = some x → x.out = [o] → o.ref = d.1 → x.st = .active → x.entries = [] →
    faults (bits d.2.1 7 0) = false → noBlocked s = true →
    ∃ t, exec .commandComplete s = .next t ∧ t.cc.done = r ∧ queueOf t d.1.queue = some { x with out := [] }
      ∧ t = { compRecord s (engineSource o.unit) o.unit d.1 o.compVa d.2.1 d.2.2 with cc := t.cc })
  ∧ (∀ s d r x o, s.cc.done = d :: r → queueOf s d.1.queue = some x → x.out = [o] → o.ref = d.1 → x.st = .active →
    faults (bits d.2.1 7 0) = true → noBlocked s = true →
    ∃ t y, exec .commandComplete s = .next t ∧ t.cc.done = r ∧ queueOf t d.1.queue = some y ∧ y.st = QSt.faulted
      ∧ y.faultCode = bits d.2.1 7 0 ∧ y.faultEntry = d.1.entry ∧ y.faultCmd = d.1.cmd ∧ y.faultDone = true)
  ∧ (∀ s r x b, queueOf s r.queue = some x → x.st = .blocked → x.wait = some b → b.ref = r → waitResult s b = none → (s.cc.queues.map Prod.fst).Nodup →
    ∃ t y, exec (.waitLimitExpiry r) s = .next t ∧ queueOf t r.queue = some y ∧ y.st = QSt.faulted ∧ y.faultCode = 0x41
      ∧ y.faultEntry = r.entry ∧ y.faultCmd = r.cmd ∧ y.wait = none)
  ∧ (∀ s q u x, queueOf s q = some x → x.st = .destroying → x.aborting = [u] → noBlocked s = true →
    ∃ t y, exec (.engineQuiescent q u) s = .next t ∧ queueOf t q = some y ∧ y.st = QSt.destroying ∧ y.aborting = [] ∧ y.entries = [] ∧ y.out = [])
/-- Newel's service (R270, R272, R277, R280, R370): an opportunity serves the next class with a ready item, and the request it takes from a
mailbox does what the request's row does; the end of a flash or exponentiation step readies the first flight that waits for it; a
word of an outbound mailbox leaves in the owner's session. -/
def Obligations.NewelService : Prop :=
  (∀ s v odd m, newelRuns s = true → nextItem s (s.nw.rot % 4) = some (.box m) → m < 0x208 → bound s m = true → bits (mbxOf s m).word 51 44 = 0x12 →
    let st := tgetD s.nw.stage (stageKey m (bits (mbxOf s m).word 43 40)) default
    liveRequester s m 0x12 = true → st.held = true → st.word = (mbxOf s m).word → tget s.nw.recs m = none →
    let r : ReqIn := ⟨m, bits (mbxOf s m).word 43 40, bits (mbxOf s m).word 39 24, bits (mbxOf s m).word 23 11, bits (mbxOf s m).word 10 0,
      st.block, (mbxOf s m).coll, v⟩
    let s1 := { s with nw := { s.nw with rot := (s.nw.rot % 4 + 1) % 4, lastServed := s.nw.lastServed.set (s.nw.rot % 4) (2 * m + 1) } }
    let s2 := sealDue (sendTo (taken s1 m) m 0x13 m 0 (leBytes 2 r.seq))
    (∃ t, exec (.newelServiceOpportunity ⟨v, 0, odd⟩) s = .next t ∧ exec (.ctxNumeric r) s2 = .next t)
      ∧ (accepted specCtxNumeric r s2 = true → exec (.newelServiceOpportunity ⟨v, 0, odd⟩) s = answeredOk specCtxNumeric r
          { s2 with cx := { s2.cx with ctxs := tmod s2.cx.ctxs m fun c => { c with nanTrap := bit (wd r.block 1) 0 } } } []))
  ∧ (∀ s v mis odd, ((List.range 4).all fun c => (readyItems s c).isEmpty) = true → exec (.newelServiceOpportunity ⟨v, mis, odd⟩) s = .next s)
  ∧ (∀ s v mis odd, newelRuns s = true → ((List.range 4).any fun c => (nextItem s c).isSome) = true → 2 ≤ mis → s.nw.spareOk = false →
    exec (.newelServiceOpportunity ⟨v, mis, odd⟩) s = .next { s with
      nw := { s.nw with rerun := satInc 0xFFFF (satInc 0xFFFF s.nw.rerun) },
      fc := { s.fc with wire := s.fc.wire ++ [plainFault 0x310 0x40 uNewel 0 0, plainFault 0x310 0x40 uNewel 0 0, plainFault 0x310 0x42 uNewel 0 0] } })
  ∧ (∀ s f, s.nw.flights.find? (fun f => f.wait == .rsa && f.kind == .request) = some f →
    exec .rsaOpDone s = .next { s with nw := { s.nw with flights := s.nw.flights.map fun x => if x = f then { f with wait := .ready } else x } })
  ∧ (∀ s f, s.nw.flights.find? (fun f => f.wait == .flash) = some f →
    exec .flashOpDone s = .next { s with nw := { s.nw with flights := s.nw.flights.map fun x => if x = f then { f with wait := .ready } else x } })
  ∧ (∀ s m x y, 0x800 ≤ m → m < 0xA08 → (mbxOf s m).full = true → sessOf s (m - 0x800) = some x → x.full = true → tsOf s x.ts = some y →
    bits (mbxOf s m).word 51 44 ≠ 0x03 → tgetD s.nw.outq m [] = [] → sealRoom s = true → 0x80 ≤ bits (mbxOf s m).word 51 44 →
    ∃ t, exec (.outboundSend m) s = .next t ∧ t.nw = { s.nw with mbx := tput s.nw.mbx m { mbxOf s m with full := false } }
      ∧ sentLast t x.ts 0x14 (leBytes 8 (mbxOf s m).word.toNat) = true ∧ t = { s with nw := t.nw, ring := t.ring, sec := t.sec })

/-- Newel's notices (R298, R318, R321, R529, R530): the mailbox is taken; a quiesced queue is freed, a stopped queue and a waiting join
reach their owner as events, an unreferenced FREEING object is released, GROW goes to the operator; the rest change nothing else. -/
def Obligations.Notices : Prop :=
  (∀ s q x, holdsNotice s 0x210 0x01 q = true → q < 2048 → queueOf s q = some x → x.st = .destroying →
    ∃ t, exec (.quiesced q) s = .next t ∧ queueOf t q = none
      ∧ t = { s with nw := t.nw, cc := { s.cc with queues := t.cc.queues } })
  ∧ (∀ s q c x, holdsNotice s 0x210 0x02 (q + c * 65536) = true → q < 2048 → c < 256 → queueOf s q = some x → ctxState s x.owner ≠ .teardown →
    exec (.queueStopped q c) s = .next (sendEvent (taken s 0x210) x.owner 0x83 x.owner (q + c * 65536)))
  ∧ (∀ s h o, holdsNotice s 0x210 0x03 h = true → h < 2 ^ 32 → objOf s (h % 65536) = some o → o.st = .freeing → o.gen = h / 65536 →
    objRefd s (h % 65536) = false →
    ∃ t, exec (.objUnref h) s = .next t ∧ (objOf t (h % 65536)).map Obj.st = some .free ∧ (mbxOf t 0x210).full = false
      ∧ t.cx.freed = s.cx.freed ++ [h % 65536] ∧ t.cc = s.cc ∧ t.fc = s.fc)
  ∧ (∀ s a st c, holdsNotice s 0x211 0x10 (fld 0 3 a + fld 3 3 st + fld 6 4 c) = true → exec (.axisState a st c) s = .next (taken s 0x211))
  ∧ (∀ s n, holdsNotice s 0x211 0x11 n = true → exec (.throttle n) s = .next (taken s 0x211))
  ∧ (∀ s h c, h < 4 → holdsNotice s (0x212 + h) 0x20 c = true → exec (.zeroed h c) s = .next (taken s (0x212 + h)))
  ∧ (∀ s h b q x, h < 4 → b < 64 → q < 1024 → holdsNotice s (0x212 + h) 0x21 (fld 0 6 b + fld 16 10 q + fld 26 8 0x55) = true → batchOf s b = some x →
    exec (.batch h b q 0x55) s = .next (sendEvent (taken s (0x212 + h)) x.ctx 0x8A x.ctx (fld 0 6 b + fld 16 10 q)))
  ∧ (∀ s h b q c, h < 4 → c < 256 → c ≠ 0x55 → holdsNotice s (0x212 + h) 0x21 (fld 0 6 b + fld 16 10 q + fld 26 8 c) = true →
    exec (.batch h b q c) s = .next (taken s (0x212 + h)))
  ∧ (∀ s c p, c < 4096 → p < 64 → holdsNotice s 0x216 0x30 (c + p * 4096) = true →
    exec (.growNotice c p) s = .next (sendEvent (taken s 0x216) 0x300 0x81 c p))
  ∧ (∀ s c, holdsNotice s 0x216 0x31 c = true → exec (.bayFreed c) s = .next (taken s 0x216))
  ∧ (∀ s k, holdsNotice s 0x217 0x38 k = true → exec (.slotFreed k) s = .next (taken s 0x217))

/-- Frames of the transport protocol (R359, R364, R397 to R401): HELLO opens an unbound session under a free SESSION value and answers
its nonce; ACK drops the frames it acknowledges; KEEPALIVE restarts the session's time
without an answer; GET_IDENTITY is answered; an OPEN binds provisionally and, like a REQ,
puts its word into the mailbox and its block into the staging entry; a DOORBELL fills its mailbox; a CLOSE ends the session. -/
def Obligations.TransportFrames : Prop :=
  (∀ s f, (macIngress s f.port f.fcsOk f.protect f.icvOk f.pn true).2 = true → f.hdrOk = true → f.ts = 0 → f.isSealed = false → f.payload.length = 32 →
    s.ring.ts.length < 1024 → (s.ring.ts.map Prod.fst).Pairwise (· < ·) →
    ∃ t k, exec (.hello f) s = .next t ∧ tsOf s k = none ∧ k ≠ 0 ∧ tsOf t k = some ⟨.unbound, 0, 0, 0, [], s.now, f.mac⟩
      ∧ sentLast t k 0x02 f.payload = true ∧ t = { s with ring := t.ring, fc := t.fc, free := s.free + 1 })
  ∧ (∀ s f x, passes s 0x03 f x = true → f.payload = [] →
    ∃ t, exec (.ack f) s = .next t ∧ (tsOf t f.ts).map TSess.unacked = some (x.unacked.filter fun u => 2 ^ 31 ≤ (f.xack + 2 ^ 32 - u.xseq) % 2 ^ 32)
      ∧ (tsOf t f.ts).map TSess.last = some s.now ∧ t.ring.tx = s.ring.tx ∧ t = { s with ring := t.ring, sec := t.sec })
  ∧ (∀ s f x, passes s 0x05 f x = true → x.st = .full → f.payload = [] →
    ∃ t, exec (.keepalive f) s = .next t ∧ (sessOf t x.ident).map Session.lastValid = some s.now ∧ (tsOf t f.ts).map TSess.last = some s.now
      ∧ t.ring.tx = s.ring.tx ∧ t = { s with ring := t.ring, sec := t.sec })
  ∧ (∀ s f x, passes s 0x20 f x = true → f.payload = [] →
    ∃ t, exec (.getIdentity f) s = .next t ∧ sentLast t f.ts 0x21 (identityPayload s) = true ∧ t = { s with ring := t.ring, sec := t.sec })
  ∧ (∀ s f x who, inOrder s 0x10 f x = true → x.st = .unbound → s.sec.recovery = false → openName s f.mbx = some who → who < 0x208 →
    blockLenOk f = true → openWord s who (frameWord f) = true → f.stage = wordStage (frameWord f) →
    (tgetD s.nw.stage (stageKey who f.stage) default).held = false →
    ∃ t, exec (.openFrame f) s = .next t ∧ (tsOf t f.ts).map (fun y => (y.st, y.ident, y.xack)) = some (.provisional, who, f.xseq)
      ∧ provisional t who = true ∧ (mbxOf t f.mbx).full = true ∧ (mbxOf t f.mbx).word = stampWord who (frameWord f)
      ∧ tget t.nw.stage (stageKey who f.stage) = some ⟨true, stampWord who (frameWord f), frameBlock f⟩
      ∧ sentLast t f.ts 0x03 [] = true ∧ t = { s with ring := t.ring, sec := t.sec, nw := t.nw })
  ∧ (∀ s f x, inOrder s 0x11 f x = true → x.st = .full → blockLenOk f = true → f.mbx < 0x20C → mbxWriter f.mbx = some x.ident →
    f.stage = wordStage (frameWord f) → (tgetD s.nw.stage (stageKey x.ident f.stage) default).held = false →
    ∃ t, exec (.req f) s = .next t ∧ (tsOf t f.ts).map TSess.xack = some f.xseq
      ∧ (mbxOf t f.mbx).full = true ∧ (mbxOf t f.mbx).word = stampWord x.ident (frameWord f) ∧ (mbxOf t f.mbx).coll = (mbxOf s f.mbx).full
      ∧ tget t.nw.stage (stageKey x.ident f.stage) = some ⟨true, stampWord x.ident (frameWord f), frameBlock f⟩
      ∧ sentLast t f.ts 0x03 [] = true ∧ t = { s with ring := t.ring, sec := t.sec, nw := t.nw })
  ∧ (∀ s f x, inOrder s 0x12 f x = true → x.st = .full → f.payload.length = 8 → 0x400 ≤ f.mbx → f.mbx < 0x609 → mbxWriter f.mbx = some x.ident →
    ∃ t, exec (.doorbell f) s = .next t ∧ (tsOf t f.ts).map TSess.xack = some f.xseq
      ∧ (mbxOf t f.mbx).full = true ∧ (mbxOf t f.mbx).word = stampWord x.ident (frameWord f) ∧ (mbxOf t f.mbx).coll = (mbxOf s f.mbx).full
      ∧ sentLast t f.ts 0x03 [] = true ∧ t = { s with ring := t.ring, sec := t.sec, nw := t.nw })
  ∧ (∀ s f x, inOrder s 0x06 f x = true → x.st = .unbound → f.payload = [] →
    ∃ t, exec (.close f) s = .next t ∧ tsOf t f.ts = none ∧ t = { s with ring := t.ring, sec := t.sec })
  ∧ (∀ s f x, inOrder s 0x06 f x = true → x.st = .full → f.payload = [] → x.ident < 0x200 → ctxState s x.ident = .active →
    ∃ t, exec (.close f) s = .next t ∧ ctxState t x.ident = .teardown)

/-- Memory accesses over the ring (R402): MEM_WRITE writes the identity's memory at the frame's address and nowhere else, MEM_READ answers its
bytes; a refused access is answered by NAK and changes no memory. -/
def Obligations.RingAccess : Prop :=
  (∀ s f x ps, inOrder s 0x18 f x = true → x.st = .full → accessLen (f.payload.length - 8) = true → 8 ≤ f.payload.length →
    (translateN s x.ident (frameWord f) (f.payload.length - 8) 2).toOption = some ps →
    ∃ t, exec (.memWrite f) s = .next t ∧ t.mem.cells = putBytes s.mem.cells ps (f.payload.drop 8) ∧ sentLast t f.ts 0x03 [] = true
      ∧ t = { s with ring := t.ring, sec := t.sec, mem := { s.mem with cells := t.mem.cells, mz := t.mem.mz, upsets := t.mem.upsets } })
  ∧ (∀ s f x, inOrder s 0x18 f x = true → x.st = .full → accessLen (f.payload.length - 8) = true → 8 ≤ f.payload.length →
    (translateN s x.ident (frameWord f) (f.payload.length - 8) 2).toOption = none →
    ∃ t, exec (.memWrite f) s = .next t ∧ t.mem = s.mem ∧ sentLast t f.ts 0x04 (leBytes 4 f.xseq ++ leBytes 4 5) = true
      ∧ t = { s with ring := t.ring, sec := t.sec, fc := t.fc })
  ∧ (∀ s f x bs, inOrder s 0x19 f x = true → x.st = .full → f.payload.length = 12 → accessLen (ofLe (f.payload.drop 8)) = true →
    (devRead s x.ident (frameWord f) (ofLe (f.payload.drop 8))).toOption = some bs → s.mem.upsets = [] →
    ∃ t, exec (.memRead f) s = .next t ∧ sentLast t f.ts 0x1A (leBytes 4 f.xseq ++ bs) = true
      ∧ t = { s with ring := t.ring, sec := t.sec, mem := { s.mem with mz := t.mem.mz } })

/-- The recovery frames (R376, R406): BEGIN makes its sender the owner and announces the length, DATA appends at its offset, an END
that finds a whole image which verifies programs it and the part resets, or waits for a power cycle while a Grave fault stands, and one that
finds no whole image programs nothing; each answers with the bytes received. -/
def Obligations.RecoveryFrames : Prop :=
  (∀ s f x, inOrder s 0x40 f x = true → recovOther s f.ts = false → f.payload.length = 4 → 1536 ≤ ofLe f.payload → ofLe f.payload ≤ 2 ^ 24 →
    (ofLe f.payload - 1536) % 4096 = 0 →
    ∃ t, exec (.recovBegin f) s = .next t ∧ t.sec.recovOwner = some f.ts ∧ t.sec.recovLen = ofLe f.payload ∧ t.sec.recovGot = 0
      ∧ sentLast t f.ts 0x43 (leBytes 1 0 ++ leBytes 4 0) = true ∧ t = { s with ring := t.ring, sec := t.sec })
  ∧ (∀ s f x, inOrder s 0x41 f x = true → s.sec.recovOwner = some f.ts → 5 ≤ f.payload.length → f.payload.length ≤ 8196 →
    ofLe (f.payload.take 4) = s.sec.recovGot → s.sec.recovGot + (f.payload.length - 4) ≤ s.sec.recovLen →
    ∃ t, exec (.recovData f) s = .next t ∧ t.sec.recovGot = s.sec.recovGot + (f.payload.length - 4)
      ∧ t.sec.recovImage = memPutN s.sec.recovImage s.sec.recovGot (f.payload.drop 4)
      ∧ sentLast t f.ts 0x43 (leBytes 1 0 ++ leBytes 4 (s.sec.recovGot + (f.payload.length - 4))) = true ∧ t = { s with ring := t.ring, sec := t.sec })
  ∧ (∀ s v f x, inOrder s 0x42 f x = true → s.sec.recovOwner = some f.ts → f.payload = [] → s.sec.recovGot ≠ s.sec.recovLen →
    ∃ t, exec (.recovEnd v f) s = .next t ∧ t.sec.recovOwner = none ∧ t.sec.fw = s.sec.fw
      ∧ sentLast t f.ts 0x43 (leBytes 1 1 ++ leBytes 4 s.sec.recovGot) = true ∧ t = { s with ring := t.ring, sec := t.sec })
  ∧ (∀ s v f x im, inOrder s 0x42 f x = true → s.sec.recovOwner = some f.ts → f.payload = [] → s.sec.recovGot = s.sec.recovLen →
    s.sec.recovGot ≠ 0 → parseImage s s.sec.recovImage v = some im → s.pw.grave = [] →
    ∃ t, exec (.recovEnd v f) s = .next t ∧ t.sec.fw = im ∧ t.sec.recovery = false ∧ t.sec.recovOwner = none ∧ t.pw.cause = 16
      ∧ t.pw.started = false ∧ t.cx = State.reset.cx ∧ t.now = s.now
      ∧ sentLast t f.ts 0x43 (leBytes 1 2 ++ leBytes 4 s.sec.recovGot) = true)
  ∧ (∀ s v f x im, inOrder s 0x42 f x = true → s.sec.recovOwner = some f.ts → f.payload = [] → s.sec.recovGot = s.sec.recovLen →
    s.sec.recovGot ≠ 0 → parseImage s s.sec.recovImage v = some im → s.pw.grave ≠ [] →
    ∃ t, exec (.recovEnd v f) s = .next t ∧ t.sec.fw = im ∧ t.sec.recovOwner = none
      ∧ sentLast t f.ts 0x43 (leBytes 1 2 ++ leBytes 4 s.sec.recovGot) = true
      ∧ t = { s with ring := t.ring, sec := t.sec, pw := { s.pw with recoveryWait := true } })

/-- Ports, links, gPTP and timeouts of the ring (R366, R384, R385, R389, R391 to R394, R398, R399, R406): a transit frame leaves by the other
port with HOPS decremented; a link that comes up forwards with MACsec started anew, one that goes down is counted and reported; a Sync is
followed, and once the house pipeline has started the part slews and does not step; a timeout without Sync enters holdover. -/
def Obligations.RingPorts : Prop :=
  (∀ s f, (macIngress s f.port f.fcsOk f.protect f.icvOk f.pn f.exempt).2 = true → f.hdrOk = true → f.hops ≠ 0 → f.full = false → f.port < 2 →
    (portOf s (1 - f.port)).link = true →
    ∃ t, exec (.transitFrame f) s = .next t
      ∧ t.ring.tx = s.ring.tx ++ [⟨0, 0, 0, 0, 0, 0, false, 0, 0, f.bytes, 2 ^ (1 - f.port), if f.proxy then 3 else 2, false, s.now, f.hops - 1, f.dest⟩]
      ∧ t = { s with ring := { s.ring with tx := t.ring.tx, ports := t.ring.ports } })
  ∧ (∀ s p m q, s.pw.started = true → s.pw.pins.bypHold = .high → s.pw.st = .run → p < 2 → s.ring.ports.length = 2 → s.cm.feeds = [] →
    ∃ t, exec (.linkUp p m q) s = .next t ∧ (portOf t p).link = true ∧ (portOf t p).master = m ∧ (portOf t p).sqi = q % 8 ∧ (portOf t p).scUp = false
      ∧ portOf t (1 - p) = portOf s (1 - p) ∧ t.pw.linkMs ≠ 0 ∧ t = { s with ring := t.ring, pw := { s.pw with linkMs := t.pw.linkMs } })
  ∧ (∀ s p, (portOf s p).link = true →
    ∃ t, exec (.ringLinkDown p) s = .next t ∧ (portOf t p).link = false ∧ (portOf t p).downs = satInc 0xFFFF (portOf s p).downs
      ∧ t.fc.wire = s.fc.wire ++ [plainFault 0x370 0x54 (uPort p) p 0] ∧ t = { s with ring := t.ring, fc := t.fc })
  ∧ (∀ s p o h i g, landingOn s p = true → 2 ≤ s.pw.phase → s.hp.running = true → s.pw.phase ≠ 5 →
    exec (.gptpFrame p o h i g) s = .next { s with ring := { s.ring with
      gSync := true, gHold := false, gPort := p, gHops := min h 63, gOffset := o, gInterval := i, gMaster := g, gSlew := o * 100000, gLastSync := s.now } })
  ∧ (∀ s p o h i g, landingOn s p = true → 2 ≤ s.pw.phase → s.hp.running = false → s.hp.freeRun = false → s.pw.houseMs = 0 → s.pw.phase ≠ 5 →
    ∃ t, exec (.gptpFrame p o h i g) s = .next t ∧ t.now = ((s.now : Int) - o).toNat ∧ t.ring.gSync = true ∧ t.ring.gSlew = 0
      ∧ t = { s with now := t.now, ring := t.ring })
  ∧ (∀ s, s.ring.gSync = true →
    exec .syncTimeout s = .next (raise { s with ring := { s.ring with gSync := false, gHold := true } }
      (plainFault 0x370 0x53 (uPort s.ring.gPort) s.ring.gPort 0)))
  ∧ (∀ s p up, landingOn s p = true → 2 ≤ s.pw.phase → (portOf s p).cak ≠ [] → (portOf s p).pnTx < 0xC000000000000000 →
    ∃ t, exec (.mkaFrame p up false) s = .next t
      ∧ portOf t p = { portOf s p with scUp := up, scOnce := (portOf s p).scOnce || up } ∧ t = { s with ring := t.ring })
  ∧ (∀ s k x, tsOf s k = some x → x.st = .unbound →
    exec (.transportIdleTimeout k) s = .next { s with ring := { s.ring with ts := tdel s.ring.ts k } })
  ∧ (∀ s k x u, tsOf s k = some x → x.st ≠ .full → x.unacked = [u] → sealRoom s = true →
    ∃ t fr, exec (.xseqResend k) s = .next t ∧ t.ring.tx = s.ring.tx ++ [fr] ∧ (tsOf t k).map TSess.unacked = some [fr]
      ∧ fr.xseq = u.xseq ∧ fr.payload = u.payload ∧ fr.type = u.type ∧ fr.retx = true ∧ fr.sentAt = s.now ∧ t = { s with ring := t.ring })
  ∧ (∀ s who, bound s who = true → s.pw.started = true → s.pw.st = .run → who < 0x200 → ctxState s who = .active →
    ∃ t, exec (.keepaliveExpiry who) s = .next t ∧ ctxState t who = .teardown ∧ (ctxOf t who).map Ctx.tearCause = some 1
      ∧ t = { s with cx := t.cx, nw := t.nw })
  ∧ (∀ s, exec .recovOwnerTimeout s = .next { s with sec := { s.sec with recovOwner := none } })
  ∧ (∀ s p, s.pw.entering = some .deepSleep → p < s.ring.ports.length →
    exec (.tc10SleepRequest p) s = .next { s with ring := { s.ring with ports := upd s.ring.ports p fun x => { x with tc10 := 2, link := false } } })
  ∧ (∀ s p, p < 2 → s.pw.entering = none → s.pw.st = .sleep →
    ∃ t, exec (.tc10Wake p) s = .next t ∧ t.pw.st = Power.idle ∧ t.ring.ports = s.ring.ports.map (fun x => if x.tc10 = 0 then x else { x with tc10 := 3 }))

/-- Writes and reads of the register window with an effect (R5, R59, R287 to R291, R325, R326, R379, R532): a write of 1 clears a bit of
its kind and leaves the rest; a selector reads back the bits it holds; reading ATT_CNT_LO latches the counter's high word; a write of
any other offset does what the register's own row does. -/
def Obligations.RegisterCommands : Prop :=
  (∀ s n v c, s.hp.csi[n]? = some c → n < 4 → c.errs < 2 ^ 12 →
    ∃ t d, exec (.csiStatClear n v) s = .next t ∧ t.hp.csi[n]? = some d ∧ d.errs = (BitVec.ofNat 12 c.errs &&& ~~~(v.setWidth 12)).toNat
      ∧ d = { c with errs := d.errs } ∧ t = { s with hp := { s.hp with csi := s.hp.csi.set n d } })
  ∧ (∀ s v, exec (.numStatClear v) s = .next { s with num := { s.num with flushed := s.num.flushed && !v.getLsbD 0 } })
  ∧ (∀ s v, exec (.mbxStatClear v) s = .next { s with nw := { s.nw with collAny := s.nw.collAny && !v.getLsbD 31 } })
  ∧ (∀ s v, ∃ t, exec (.mbxSelWrite v) s = .next t ∧ regRead t 0x1914 = v &&& 0xFFF ∧ t = { s with nw := { s.nw with mbxSel := t.nw.mbxSel } })
  ∧ (∀ s v, ∃ t, exec (.ctxSelWrite v) s = .next t ∧ regRead t 0x1A10 = v &&& 0xFFF ∧ t = { s with cx := { s.cx with ctxSel := t.cx.ctxSel } })
  ∧ (∀ s v, ∃ t, exec (.qSelWrite v) s = .next t ∧ regRead t 0x1A18 = v &&& 0x7FF ∧ t = { s with cc := { s.cc with qSel := t.cc.qSel } })
  ∧ (∀ s v, ∃ t, exec (.ringCfgWrite v) s = .next t ∧ regRead t 0x1D00 = v &&& 1 ∧ t = { s with ring := { s.ring with dsBypass := t.ring.dsBypass } })
  ∧ (∀ s, exec .attCntLoRead s = .next { s with sec := { s.sec with attLatch := s.sec.attCount / 2 ^ 32 } })
  ∧ (∀ s v, exec (.registerWriteOther 0x1914 v) s = exec (.mbxSelWrite v) s ∧ exec (.registerWriteOther 0x1A10 v) s = exec (.ctxSelWrite v) s
      ∧ exec (.registerWriteOther 0x1A18 v) s = exec (.qSelWrite v) s ∧ exec (.registerWriteOther 0x1D00 v) s = exec (.ringCfgWrite v) s
      ∧ exec (.registerWriteOther 0x1F00 v) s = exec (.firstSrcClear v) s ∧ exec (.registerWriteOther 0x1F24 v) s = exec (.errqRptrWrite v) s
      ∧ exec (.registerWriteOther 0x120C v) s = exec (.csiStatClear 3 v) s)
  ∧ (∀ s off v, writableRegs.contains off = false → exec (.registerWriteOther off v) s = .next s)

/-- R6: an unmapped offset reads zero, and a write to it changes nothing; neither raises a fault. -/
def Obligations.UnmappedRegisters : Prop :=
  ∀ s off v, mappedReg off = false → performRead s off = (s, 0) ∧ exec (.registerWriteOther off v) s = .next s

/-- Background work (R65, R190, R191, R193 to R195, R347, R348, R463 to R467, R471): each activity books its share; the scrubber goes on
and reports what it meets; the array tests and self-tests name what failed and ask for a spare; a wear sample is held; a zeroed region
is free again and reported; telemetry, retirement, lane repair and substitution do their work. -/
def Obligations.Background : Prop :=
  (∀ s lost made b, s.tt.bg[6]? = some b → exec (.hbmCalibration lost made) s = .next (withBg s 6 (bgAfter s b lost made)))
  ∧ (∀ s bytes lost made b, s.tt.bg[0]? = some b → s.mem.scrubPos + bytes < 48 * 2 ^ 30 → s.mem.upsets = [] →
    exec (.hbmScrub bytes lost made ⟨[], []⟩) s = .next (withBg { s with mem := { s.mem with
      scrubActive := true, scrubPos := s.mem.scrubPos + bytes, scrubStart := if s.mem.scrubActive then s.mem.scrubStart else s.now } }
      0 (bgAfter s b lost made)))
  ∧ (∀ s c f b n, s.tt.bg[0]? = some b → s.mem.scrubPos < 48 * 2 ^ 30 → s.mem.scrubActive = true → s.mem.hbmCorr[c / 32]? = some n →
    tgetD (channelOf s c).errors f [] = [] → s.mem.upsets = [] →
    ∃ t, exec (.hbmScrub 0 0 0 ⟨[(c, f, false)], []⟩) s = .next t ∧ t.mem.hbmCorr[c / 32]? = some (min (n + 1) 0xFFFF)
      ∧ t.fc.wire = s.fc.wire ++ [ctxFault 0x370 0x25 (128 + c) (frameDomain s f) 0 (f * 65536)]
      ∧ tget (channelOf t c).errors f = some [s.now] ∧ (channelOf t c).copying = (channelOf s c).copying
      ∧ t.mem.cells = s.mem.cells ∧ t = { s with mem := t.mem, fc := { s.fc with wire := t.fc.wire }, tt := { s.tt with bg := t.tt.bg } })
  ∧ (∀ s u row b, s.tt.bg[1]? = some b → 80 ≤ u → u < 112 → s.mem.upsets = [] → tgetD s.fc.rowErrs (u * 2 ^ 20 + mzRow s row) [] = [] →
    exec (.arrayScrub 0 0 ⟨[(u, row, false)], []⟩) s = .next (raise (withBg { s with
      mem := { s.mem with mzCorr := min (s.mem.mzCorr + 1) 0xFFFF },
      fc := { s.fc with rowErrs := tput s.fc.rowErrs (u * 2 ^ 20 + mzRow s row) [s.now] } } 1
      (bgAfter s b 0 0)) (ctxFault 0x370 0x23 u (frameDomain s (row / 65536)) 0 row)))
  ∧ (∀ s lost made b ups, s.tt.bg[1]? = some b → s.mem.upsets = [] →
    exec (.arrayScrub lost made ⟨[], ups⟩) s = .next (withBg { s with mem := { s.mem with upsets := ups } } 1 (bgAfter s b lost made)))
  ∧ (∀ s h lost made l b, s.tt.bg[2]? = some b → h < 4 → (hallOf s h).kind = 4 → (((s.tt.readyPrev.getD h none).any fun c => c ≤ s.tt.cycle) = false) → (s.fc.substWait.any fun w => w.1 == 100 + h && w.2.1 == 2 * l) = false →
    exec (.hallArrayTest h lost made [(false, l)]) s = .next (raise (withBg { s with fc := { s.fc with substWait := s.fc.substWait ++ [(100 + h, 2 * l, s.tt.frame)] } }
      2 (bgAfter s b lost made)) (plainFault (0x340 + h) 0x12 h 0 l)))
  ∧ (∀ s h lost made l b, s.tt.bg[2]? = some b → (hallOf s h).kind ≠ 4 → exec (.hallArrayTest h lost made l) s = .next (withBg s 2 (bgAfter s b lost made)))
  ∧ (∀ s k lost made b, s.tt.bg[3]? = some b → exec (.shaderSelfTest k true lost made) s = .next (withBg s 3 (bgAfter s b lost made)))
  ∧ (∀ s k lost made b i, s.tt.bg[3]? = some b → k < 32 → s.ms.scMap.getD (k / 8) 0 / 16 ^ (k % 8) % 16 = i → i < 9 →
    (s.fc.substWait.any fun w => w.1 == 0 && w.2.1 == 9 * (k / 8) + i) = false →
    exec (.shaderSelfTest k false lost made) s = .next { withBg s 3 (bgAfter s b lost made) with
      fc := { s.fc with wire := s.fc.wire ++ [plainFault 0x370 0x1B (216 + (9 * (k / 8) + i)) (k / 8) 0],
                        substWait := s.fc.substWait ++ [(0, 9 * (k / 8) + i, s.tt.frame)] } })
  ∧ (∀ s u slack drift days lost made b, s.tt.bg[4]? = some b → 192 ≤ u → u < 213 → drift ≤ 20 → 9 ≤ slack → (s.fc.acted.any fun p => p.1 == u) = false →
    exec (.wearSample u slack drift days lost made) s = .next (withBg { s with fc := { s.fc with wear := s.fc.wear.set (u - 192) ⟨slack, drift, days⟩ } }
      4 (bgAfter s b lost made)))
  ∧ (∀ s u slack days b, s.tt.bg[4]? = some b → 192 ≤ u → u < 213 → 9 ≤ slack → (s.fc.acted.any fun p => p.1 == u) = false →
    ∃ t, exec (.wearSample u slack 31 days 0 0) s = .next t ∧ t.fc.wire = s.fc.wire ++ [plainFault 0x310 0x7B u 31 0]
      ∧ t.fc.acted = s.fc.acted ++ [(u, 0)] ∧ t = { s with fc := t.fc, tt := { s.tt with bg := t.tt.bg } })
  ∧ (∀ s h lost made c rg r b, s.tt.bg[5]? = some b → h < 4 → s.mh.halls.length = 4 → (hallOf s h).kind = 3 ∨ (hallOf s h).kind = 4 →
    (hallOf s h).zeroing = (c, rg) :: r → (mbxOf s (0x212 + h)).full = false →
    ∃ t, exec (.zeroing h lost made) s = .next t ∧ (hallOf t h).zeroing = r ∧ (hallOf t h).regions = (hallOf s h).regions
      ∧ ((List.range rg.wSize).all fun k => tget (hallOf t h).wOwner (rg.wBase + k) != some c) = true
      ∧ ((List.range rg.aSize).all fun k => tget (hallOf t h).aOwner (rg.aBase + k) != some c) = true
      ∧ (mbxOf t (0x212 + h)).full = true ∧ (mbxOf t (0x212 + h)).word = stampWord (0x340 + h) (fld 44 8 0x20 + fld 0 44 c)
      ∧ ((List.range 4).all fun k => k == h || hallOf t k == hallOf s k) = true
      ∧ t = { s with mh := t.mh, nw := t.nw, tt := { s.tt with bg := t.tt.bg } })
  ∧ (∀ s kind unit a b c, s.fc.tlmObj = 0 → exec (.telemetrySample kind unit a b c false) s = .next s)
  ∧ (∀ s kind unit a b c slot o f, s.fc.tlmObj ≠ 0 → findObj s s.fc.tlmObj = some (slot, o) → runFrame o.runs (32 * (s.fc.tlmSeq.toNat % 32768) / 65536) = some f →
    kind < 256 → unit < 256 →
    let pa := f * 65536 + 32 * (s.fc.tlmSeq.toNat % 32768) % 65536
    let ws : List Word := [0x00200100, s.fc.tlmSeq, BitVec.ofNat 32 (kind + unit * 256), lo32 s.now, hi32 s.now, BitVec.ofNat 32 a, BitVec.ofNat 32 b, BitVec.ofNat 32 c]
    exec (.telemetrySample kind unit a b c false) s = .next { s with
      mem := { s.mem with cells := memPutN s.mem.cells pa (wordBytes ws) }, fc := { s.fc with tlmSeq := s.fc.tlmSeq + 1 } })
  ∧ (∀ s c f sp n, (channelOf s c).copying = some (f, sp, n) → n < 15 → s.mem.upsets = [] →
    exec (.frameRetire c) s = .next { s with mem := { s.mem with chans := tput s.mem.chans c { channelOf s c with copying := some (f, sp, n + 1) } } })
  ∧ (∀ s c f sp, (channelOf s c).copying = some (f, sp, 15) → (channelOf s c).due = [] → s.mem.upsets = [] →
    exec (.frameRetire c) s = .next (raise { s with mem := { s.mem with chans := tput s.mem.chans c { channelOf s c with
      copying := none, remap := tput (channelOf s c).remap f sp, errors := tdel (channelOf s c).errors f } } } (plainFault 0x370 0x28 (128 + c) 0 (f * 65536))))
  ∧ (∀ s c, (channelOf s c).copying = none → exec (.frameRetire c) s = .next s)
  ∧ (∀ s c lane, s.tt.set = false ∨ inMaint s = true → (channelOf s c).lanes.contains lane = false → (channelOf s c).lanes.length < 2 →
    exec (.laneRepair c lane) s = .next { s with mem := { s.mem with chans := tput s.mem.chans c { channelOf s c with lanes := (channelOf s c).lanes ++ [lane] } } })
  ∧ (∀ s c lane, s.tt.set = false ∨ inMaint s = true → (channelOf s c).lanes.contains lane = false → 2 ≤ (channelOf s c).lanes.length → exec (.laneRepair c lane) s = .next (raise s (plainFault 0x370 0x2A (128 + c) lane 0)))
  ∧ (∀ s p, (s.fc.substWait.any fun w => w.1 == 0 && w.2.1 == p) = true → substNow s 0 p = true → p < 36 → (s.fc.pscFailed.any fun q => q / 9 == p / 9) = false →
    s.ms.scMap[p / 9]? = some 0x76543210 → p % 9 < 8 →
    ∃ t, exec (.spareSubstitution 0 p true) s = .next t ∧ t.fc.pscFailed = sins s.fc.pscFailed p
      ∧ (t.ms.scMap.getD (p / 9) 0) / 16 ^ (p % 9) % 16 = 8
      ∧ ((List.range 8).all fun l => l == p % 9 || (t.ms.scMap.getD (p / 9) 0) / 16 ^ l % 16 == l) = true
      ∧ t = { s with fc := { s.fc with substWait := t.fc.substWait, pscFailed := t.fc.pscFailed }, ms := { s.ms with scMap := t.ms.scMap } })
  ∧ (∀ s u row, (s.fc.substWait.any fun w => w.1 == 1000 + u && w.2.1 == row) = true → substNow s (1000 + u) row = true →
    (s.fc.sramRows.any fun p => p.1 == u && p.2 / 64 == row / 64) = false →
    ∃ t, exec (.spareSubstitution (1000 + u) row true) s = .next t ∧ t.fc.sramRows = s.fc.sramRows ++ [(u, row)]
      ∧ t.fc.wire = s.fc.wire ++ [plainFault (arraySource u).1 0x79 (arraySource u).2 0 row]
      ∧ (t.fc.substWait.any fun w => w.1 == 1000 + u && w.2.1 == row) = false ∧ t = { s with fc := t.fc })

/-- R319: QUEUE_RESET of a FAULTED queue discards what waits, drops its references, sets RPTR and DPTR to W and returns the queue to
ACTIVE, while what was dispatched and still runs goes on (the model's reading, log entry 32); in any other state it completes with
BAD_STATE. -/
def Obligations.QueueReset : Prop :=
  (∀ r s x, accepted specQueueReset r s = true → needQueue s (asker r) (wd r.block 1).toNat = .ok x → x.st = .faulted →
    let q := (wd r.block 1).toNat
    let y := { x with st := .active, entries := [], rptr := x.w, dptr := x.w, out := x.out.filter (fun o => o.op != 0x11), faultCode := 0,
                      faultDone := true }
    let u := if x.faultDone = true then s else failPending s x
    let v := writeStatus (unref { u with cc := { u.cc with queues := tput u.cc.queues q y } } (x.entries.flatMap Entry.objs)) q
    exec (.queueReset r) s = answeredOk specQueueReset r (if x.faultDone = true then v else wake v) [])
  ∧ (∀ r s x, accepted specQueueReset r s = true → needQueue s (asker r) (wd r.block 1).toNat = .ok x → x.st ≠ .faulted →
    exec (.queueReset r) s = .next (sendReply s 0x22 r false 0x85 0 []))

/-- A step takes the command at the front of the queue and runs it over the queue's rest; with no command waiting the block
idles (the model's choice, log entry 2). -/
def Obligations.StepRunsFront : Prop :=
  (∀ c s l, s.pending = c :: l → step s = exec c { s with pending := l })
  ∧ (∀ s, s.pending = [] → step s = .next s)

/-- Every step keeps the form of the model's data: the waiting commands stay well formed, and device memory stays listed with rising
addresses and no byte that reads as an unlisted one does. -/
def Obligations.StepKeepsForm : Prop :=
  ∀ s t, stateWf s = true → step s = .next t → stateWf t = true

/-- After a power-on reset the data have their form, and the registers whose reset value the specification gives read it: BLOCK_ID and
version, no fault latched, no session bound, no queue, no fence, no timetable, every axis OFF, the pass-through of the shader map. -/
def Obligations.ResetForm : Prop :=
  stateWf State.reset = true ∧ regRead State.reset 0 = 0x4280B001 ∧ regRead State.reset 0x1F00 = 0 ∧ regRead State.reset 0x1080 = 0x76543210
    ∧ regRead State.reset 0x1A00 = 0 ∧ regRead State.reset 0x1910 = 0 ∧ regRead State.reset 0x1B00 = 0 ∧ regRead State.reset 0x1D00 = 0
    ∧ regRead State.reset 0x1E00 = 0 ∧ regRead State.reset 0x1914 = 0 ∧ State.reset.pending = []

/-- R403: the operator's REG_READ answers the registers from an offset on, in ascending order, in one REG_DATA frame; its REG_WRITE writes
them as the register window is written; from any other identity both are refused with REG_DENIED (6). -/
def Obligations.RegisterAccess : Prop :=
  (∀ s f x, inOrder s 0x1C f x = true → x.st = .full → x.ident = 0x300 → f.payload.length = 8 → 1 ≤ ofLe (f.payload.drop 4) →
    ofLe (f.payload.drop 4) ≤ 64 →
    let off := ofLe (f.payload.take 4)
    let n := ofLe (f.payload.drop 4)
    ∃ t, exec (.regRead f) s = .next t ∧ sentLast t f.ts 0x1E (leBytes 4 f.xseq ++ (readRegs n s off).2) = true
      ∧ t.sec.attLatch = (readRegs n s off).1.sec.attLatch ∧ t.ring.dsBypass = s.ring.dsBypass ∧ t = { s with ring := t.ring, sec := t.sec })
  ∧ (∀ s f x, inOrder s 0x1D f x = true → x.st = .full → x.ident = 0x300 → 8 ≤ f.payload.length → f.payload.length ≤ 260 →
    f.payload.length % 4 = 0 →
    let r := writeRegs (bytesWords (f.payload.drop 4)) s (ofLe (f.payload.take 4))
    ∃ t, exec (.regWrite f) s = .next t ∧ sentLast t f.ts 0x03 [] = true ∧ t.ring.dsBypass = r.ring.dsBypass
      ∧ t = { r with ring := t.ring, sec := t.sec })
  ∧ (∀ s f x, inOrder s 0x1C f x = true → x.st = .full → x.ident ≠ 0x300 →
    ∃ t, exec (.regRead f) s = .next t ∧ sentLast t f.ts 0x04 (leBytes 4 f.xseq ++ leBytes 4 6) = true
      ∧ t.ring.dsBypass = s.ring.dsBypass ∧ t.sec.attLatch = s.sec.attLatch ∧ t = { s with ring := t.ring, sec := t.sec })
  ∧ (∀ s f x, inOrder s 0x1D f x = true → x.st = .full → x.ident ≠ 0x300 →
    ∃ t, exec (.regWrite f) s = .next t ∧ sentLast t f.ts 0x04 (leBytes 4 f.xseq ++ leBytes 4 6) = true
      ∧ t.ring.dsBypass = s.ring.dsBypass ∧ t = { s with ring := t.ring, sec := t.sec })

/-- R445: after a loop tick AX_POSn reads the count of axis n latched at that tick: the quadrature counter, the position that a BiSS-C
encoder gave, or the last one where its sample is missing. -/
def Obligations.AxisPositions : Prop :=
  ∀ s ins armed n, s.mc.axes.length = 6 → n < 6 →
    let c := if encBiss (encOf s n) = true then (if (ins.getD n default).ok then (ins.getD n default).pos else (axisOf s n).latched)
      else (axisOf s n).count
    ∃ t, exec (.loopTick ins armed) s = .next t ∧ regRead t (0x1E20 + 4 * n) = BitVec.ofInt 32 c
end

