-- ==== Sys2Proof/Laws/Memory.lean ====
section
/-! SUPPORT. Device memory: what a read gives after a write, and the canonical form that every memory operation
keeps. -/

namespace Sys2Proof.Machine
open Sys2Proof

/-! ### Read after write -/

theorem memGet_memIns (m : List Host.Cell) (a : Nat) (b : Byte) (k : Nat) :
    memGet (memIns m a b) k = if k = a then b else memGet m k := by
  induction m with
  | nil => simp [memIns, memGet, eq_comm]
  | cons p r ih =>
    obtain ⟨c, d⟩ := p
    simp only [memIns]
    split
    · simp [memGet, eq_comm]
    · split
      · rename_i h; subst h
        simp only [memGet]; by_cases h : a = k <;> simp [h, eq_comm]
      · rename_i h1 h2
        simp only [memGet, ih]
        by_cases h : c = k
        · subst h; simp [show ¬ c = a from fun e => h2 e.symm]
        · simp [h]

theorem memGet_filter (m : List Host.Cell) (keep : Nat → Bool) (k : Nat) :
    memGet (m.filter fun p => keep p.1) k = if keep k then memGet m k else 0 := by
  induction m with
  | nil => simp [memGet]
  | cons p r ih =>
    obtain ⟨c, d⟩ := p
    by_cases hc : keep c = true <;> by_cases hk : c = k
    · subst hk; simp [hc, memGet]
    · simp [hc, memGet, hk, ih]
    · subst hk; simp [hc, ih]
    · simp [hc, memGet, hk, ih]

theorem memGet_memDrop (m : List Host.Cell) (a k : Nat) : memGet (memDrop m a) k = if k = a then 0 else memGet m k := by
  rw [memDrop, memGet_filter m (fun x => x != a)]; by_cases h : k = a <;> simp [h]

/-- A byte read after a byte written: the byte itself at its address, and what was there anywhere else. -/
theorem memGet_memPut (m : List Host.Cell) (a : Nat) (b : Byte) (k : Nat) :
    memGet (memPut m a b) k = if k = a then b else memGet m k := by
  unfold memPut
  split
  · rename_i h; simp [memGet_memDrop, h]
  · exact memGet_memIns m a b k

/-- Bytes written at rising addresses: byte i of them at its place, and no other address changed. -/
theorem memGet_memPutN (bs : List Byte) : ∀ (m : List Host.Cell) (a k : Nat),
    memGet (memPutN m a bs) k = if a ≤ k ∧ k < a + bs.length then bs.getD (k - a) 0 else memGet m k := by
  induction bs with
  | nil => intro m a k; rw [if_neg (by simp)]; rfl
  | cons b bs ih =>
    intro m a k
    simp only [memPutN, ih, memGet_memPut, List.length_cons]
    by_cases h : a = k
    · subst h; rw [if_neg (by omega), if_pos (by omega)]; simp
    · by_cases h2 : a ≤ k ∧ k < a + (bs.length + 1)
      · have h3 : a + 1 ≤ k ∧ k < a + 1 + bs.length := by omega
        obtain ⟨j, hj⟩ : ∃ j, k - a = j + 1 := ⟨k - a - 1, by omega⟩
        have h4 : k - (a + 1) = j := by omega
        simp [h2, h3, hj, h4]
      · have h3 : ¬ (a + 1 ≤ k ∧ k < a + 1 + bs.length) := by omega
        rw [if_neg h3, if_neg h2, if_neg fun e => h e.symm]

/-- Writing through a list of places leaves every other address as it was. -/
theorem memGet_putBytes_other (ps : List (Nat × Nat)) : ∀ (m : List Host.Cell) (bs : List Byte) (k : Nat),
    (∀ p ∈ ps, p.1 ≠ k) → memGet (putBytes m ps bs) k = memGet m k := by
  induction ps with
  | nil => intro m bs k _; cases bs <;> rfl
  | cons p ps ih =>
    intro m bs k h
    cases bs with
    | nil => rfl
    | cons b bs =>
      simp only [putBytes]
      rw [ih _ _ _ (fun q hq => h q (List.mem_cons_of_mem _ hq)), memGet_memPut,
        if_neg (fun e => h p (List.mem_cons_self ..) e.symm)]

/-! ### The canonical form -/

/-- The canonical form, as a statement about the list: addresses strictly rising, no zero byte. -/
theorem memWf_iff (m : List Host.Cell) :
    memWf m = true ↔ m.Pairwise (fun p q => p.1 < q.1) ∧ ∀ p ∈ m, p.2 ≠ 0 := by
  induction m with
  | nil => simp [memWf]
  | cons p r ih =>
    obtain ⟨a, b⟩ := p
    cases r with
    | nil => simp [memWf]
    | cons q r =>
      obtain ⟨c, d⟩ := q
      simp only [memWf, Bool.and_eq_true, ih, decide_eq_true_eq, bne_iff_ne, ne_eq]
      constructor
      · rintro ⟨⟨hb, hac⟩, hp, hz⟩
        refine ⟨List.pairwise_cons.2 ⟨?_, hp⟩, ?_⟩
        · intro x hx
          rcases List.mem_cons.1 hx with rfl | hx
          · exact hac
          · exact Nat.lt_trans hac ((List.pairwise_cons.1 hp).1 x hx)
        · intro x hx
          rcases List.mem_cons.1 hx with rfl | hx
          · exact hb
          · exact hz x hx
      · rintro ⟨hp, hz⟩
        have h := List.pairwise_cons.1 hp
        exact ⟨⟨hz (a, b) (List.mem_cons_self ..), h.1 (c, d) (List.mem_cons_self ..)⟩, h.2,
          fun x hx => hz x (List.mem_cons_of_mem _ hx)⟩

theorem memWf_filter {m : List Host.Cell} (h : memWf m = true) (f : Host.Cell → Bool) : memWf (m.filter f) = true := by
  rw [memWf_iff] at h ⊢
  exact ⟨h.1.filter f, fun p hp => h.2 p (List.mem_filter.1 hp).1⟩

theorem mem_memIns {m : List Host.Cell} {a : Nat} {b : Byte} {p : Host.Cell} (h : p ∈ memIns m a b) : p = (a, b) ∨ p ∈ m := by
  induction m with
  | nil => simpa [memIns] using h
  | cons q r ih =>
    obtain ⟨c, d⟩ := q
    simp only [memIns] at h
    split at h
    · simpa using h
    · split at h
      · rcases List.mem_cons.1 h with h | h
        · exact .inl h
        · exact .inr (List.mem_cons_of_mem _ h)
      · rcases List.mem_cons.1 h with h | h
        · exact .inr (h ▸ List.mem_cons_self ..)
        · rcases ih h with h | h
          · exact .inl h
          · exact .inr (List.mem_cons_of_mem _ h)

theorem memIns_rising {m : List Host.Cell} (h : m.Pairwise fun p q => p.1 < q.1) (a : Nat) (b : Byte) :
    (memIns m a b).Pairwise fun p q => p.1 < q.1 := by
  induction m with
  | nil => simp [memIns]
  | cons q r ih =>
    obtain ⟨c, d⟩ := q
    have hh := List.pairwise_cons.1 h
    simp only [memIns]
    split
    · rename_i hac
      refine List.pairwise_cons.2 ⟨?_, h⟩
      intro x hx
      rcases List.mem_cons.1 hx with rfl | hx
      · exact hac
      · exact Nat.lt_trans hac (hh.1 x hx)
    · split
      · rename_i hac; subst hac
        exact List.pairwise_cons.2 ⟨hh.1, hh.2⟩
      · rename_i h1 h2
        refine List.pairwise_cons.2 ⟨?_, ih hh.2⟩
        intro x hx
        rcases mem_memIns hx with rfl | hx
        · exact Nat.lt_of_le_of_ne (Nat.le_of_not_lt h1) fun e => h2 e.symm
        · exact hh.1 x hx

theorem memWf_memPut {m : List Host.Cell} (h : memWf m = true) (a : Nat) (b : Byte) : memWf (memPut m a b) = true := by
  unfold memPut
  split
  · exact memWf_filter h _
  · rename_i hb
    rw [memWf_iff] at h ⊢
    refine ⟨memIns_rising h.1 a b, ?_⟩
    intro p hp
    rcases mem_memIns hp with rfl | hp
    · exact hb
    · exact h.2 p hp

theorem memWf_memClear {m : List Host.Cell} (h : memWf m = true) (base len : Nat) : memWf (memClear m base len) = true :=
  memWf_filter h _

theorem memWf_memClearRuns (rs : List (Nat × Nat)) : ∀ {m : List Host.Cell}, memWf m = true → memWf (memClearRuns m rs) = true := by
  unfold memClearRuns
  induction rs with
  | nil => exact fun h => h
  | cons r rs ih => exact fun h => ih (memWf_memClear h _ _)

theorem memWf_memPutN (bs : List Byte) : ∀ {m : List Host.Cell} (a : Nat), memWf m = true → memWf (memPutN m a bs) = true := by
  induction bs with
  | nil => exact fun _ h => h
  | cons b bs ih => exact fun a h => ih (a + 1) (memWf_memPut h a b)

theorem memWf_putBytes (ps : List (Nat × Nat)) : ∀ {m : List Host.Cell} (bs : List Byte), memWf m = true →
    memWf (putBytes m ps bs) = true := by
  induction ps with
  | nil => intro m bs h; cases bs <;> exact h
  | cons p ps ih =>
    intro m bs h
    cases bs with
    | nil => exact h
    | cons b bs => exact ih bs (memWf_memPut h p.1 b)

/-- Memory at reset has the form. -/
theorem memWf_reset : memWf State.reset.mem.cells = true := rfl

/-! ### The operations that write memory -/

/-- The lines and the upsets that a write settles are no bytes of memory. -/
@[simp] theorem writeLines_cells (s : State) (ps : List (Nat × Nat)) : (writeLines s ps).mem.cells = s.mem.cells := rfl
theorem writeLines_frame (s : State) (ps : List (Nat × Nat)) :
    writeLines s ps = { s with mem := { s.mem with mz := (writeLines s ps).mem.mz, upsets := (writeLines s ps).mem.upsets } } := rfl
@[simp] theorem touchLines_cells (s : State) (ps : List (Nat × Nat)) : (touchLines s ps).mem.cells = s.mem.cells := rfl

/-- A write through a context's mappings changes memory alone, at the translated bytes; or it is refused. -/
theorem devWrite_ok {s t : State} {ctx va : Nat} {bs : List Byte} (h : devWrite s ctx va bs = .ok t) :
    ∃ ps, translateN s ctx va bs.length 2 = .ok ps ∧
      t = writeLines { s with mem := { s.mem with cells := putBytes s.mem.cells ps bs } } ps := by
  unfold devWrite at h
  cases e : translateN s ctx va bs.length 2 with
  | error c => rw [e] at h; cases h
  | ok ps => rw [e] at h; exact ⟨ps, rfl, by cases h; rfl⟩

theorem memWf_devWrite {s t : State} {ctx va : Nat} {bs : List Byte} (h : devWrite s ctx va bs = .ok t)
    (hm : memWf s.mem.cells = true) : memWf t.mem.cells = true := by
  obtain ⟨ps, -, rfl⟩ := devWrite_ok h
  exact memWf_putBytes ps bs hm

/-- A write to an object by offset changes memory alone. -/
theorem objWrite_frame (s : State) (slot off : Nat) (bs : List Byte) :
    objWrite s slot off bs = { s with mem := { s.mem with cells := (objWrite s slot off bs).mem.cells } } := by
  unfold objWrite
  split
  · rfl
  · split <;> rfl

theorem memWf_objWrite {s : State} (slot off : Nat) (bs : List Byte) (h : memWf s.mem.cells = true) :
    memWf (objWrite s slot off bs).mem.cells = true := by
  unfold objWrite
  split
  · exact h
  · split
    · exact h
    · exact memWf_memPutN bs _ h

/-! ### Write-back of the cores' caches -/

theorem memWf_fold {α : Type} (f : List Host.Cell → α → List Host.Cell) (hf : ∀ m a, memWf m = true → memWf (f m a) = true)
    (l : List α) : ∀ {m : List Host.Cell}, memWf m = true → memWf (l.foldl f m) = true := by
  induction l with
  | nil => exact fun h => h
  | cons a l ih => exact fun h => ih (hf _ a h)

theorem memWf_flushLine {m : List Host.Cell} (l : CacheLine) (h : memWf m = true) : memWf (flushLine m l) = true :=
  memWf_fold _ (fun _ _ h => memWf_memPut h _ _) _ h

/-- A core's write-back of a line changes memory, or adds a message of the slice that refuses it. -/
theorem writeBack_frame (s : State) (l : CacheLine) : writeBack s l = { s with mem := (writeBack s l).mem, fc := (writeBack s l).fc } := by
  unfold writeBack
  split
  · rfl
  · split <;> rfl

theorem memWf_writeBack {s : State} (l : CacheLine) (h : memWf s.mem.cells = true) : memWf (writeBack s l).mem.cells = true := by
  unfold writeBack
  split
  · exact h
  · split
    · exact memWf_flushLine l h
    · exact h

/-- A fold over states keeps what each of its steps keeps. -/
theorem fold_keeps {α : Type} (P : State → Prop) (f : State → α → State) (hf : ∀ s a, P s → P (f s a)) (l : List α) :
    ∀ {s : State}, P s → P (l.foldl f s) := by
  induction l with
  | nil => exact fun h => h
  | cons a l ih => exact fun h => ih (hf _ a h)

theorem memWf_writeBacks (ls : List CacheLine) {s : State} (h : memWf s.mem.cells = true) : memWf (ls.foldl writeBack s).mem.cells = true :=
  fold_keeps (fun s => memWf s.mem.cells = true) writeBack (fun _ l h => memWf_writeBack l h) ls h

theorem memWf_sysRelease {s : State} (h : memWf s.mem.cells = true) : memWf (sysRelease s).mem.cells = true :=
  fold_keeps (fun s => memWf s.mem.cells = true) (fun s (c : Core) => c.cache.foldl writeBack s) (fun _ c h => memWf_writeBacks c.cache h) s.sh.cores h

/-- States that differ in memory and in what the crossings hold. -/
def sameButMemFc (s t : State) : Prop := t = { s with mem := t.mem, fc := t.fc }

theorem sameButMemFc_fold {α : Type} (f : State → α → State) (h : ∀ s a, sameButMemFc s (f s a)) (l : List α) :
    ∀ s, sameButMemFc s (l.foldl f s) := by
  induction l with
  | nil => intro s; rfl
  | cons a l ih =>
    intro s
    have h1 := ih (f s a)
    have h2 := h s a
    unfold sameButMemFc at h1 h2 ⊢
    rw [List.foldl_cons, h1, h2]

/-- A system-scope release changes memory, the lines the cores hold, and what the crossings hold. -/
theorem sysRelease_frame (s : State) :
    sysRelease s = { s with mem := (sysRelease s).mem, fc := (sysRelease s).fc, sh := (sysRelease s).sh } := by
  have h := sameButMemFc_fold (fun s (c : Core) => c.cache.foldl writeBack s)
    (fun s c => sameButMemFc_fold writeBack (fun s l => writeBack_frame s l) c.cache s) s.sh.cores s
  unfold sameButMemFc at h
  unfold sysRelease
  rw [h]

end Sys2Proof.Machine
end

