-- ==== Sys2Proof/Laws/Requests.lean ====
section
/-! SUPPORT. What the shared operations of a request do: an accepted request runs its body and sends its reply; a
reply changes Newel's mailboxes, queues, staging entries and records alone. -/

namespace Sys2Proof.Machine
open Sys2Proof

/-- An accepted request runs its body and replies. -/
theorem runRequest_accepted (sp : ReqSpec) (r : ReqIn) (s : State) (h : accepted sp r s = true) :
    runRequest sp r s =
      sendReply (sp.body (mbxIdent r.mbox) r s).st sp.op r sp.flight (sp.body (mbxIdent r.mbox) r s).status
        (sp.body (mbxIdent r.mbox) r s).detail (sp.body (mbxIdent r.mbox) r s).result := by
  simp only [accepted, Bool.and_eq_true, Bool.not_eq_true', Option.isNone_iff_eq_none] at h
  obtain ⟨⟨h1, h2⟩, h3⟩ := h
  simp [runRequest, h1, h2, h3]

/-- An outbound word changes Newel's mailboxes and queues alone. -/
theorem outPush_frame (s : State) (i : Nat) (w : OutWord) : outPush s i w = { s with nw := (outPush s i w).nw } := by
  unfold outPush; split <;> rfl

/-- A reply changes Newel's state alone. -/
theorem sendReply_frame (s : State) (op : Nat) (r : ReqIn) (fl : Bool) (st d : Nat) (ws : List Word) :
    sendReply s op r fl st d ws = { s with nw := (sendReply s op r fl st d ws).nw } := by
  unfold sendReply
  simp only []
  rw [outPush_frame]

end Sys2Proof.Machine
end

