-- ==== Sys2Proof/Laws/Frames.lean ====
section
/-! SUPPORT. What each shared operation can change, said once: the state it answers is the state it got but for the
named part. -/

namespace Sys2Proof.Machine
open Sys2Proof

/-! ### Mailboxes, notices, events -/

theorem mbxWrite_frame (s : State) (i : Nat) (w : DWord) : mbxWrite s i w = { s with nw := (mbxWrite s i w).nw } := by
  unfold mbxWrite; simp only []; split <;> rfl

theorem mbxTake_frame (s : State) (i : Nat) : mbxTake s i = { s with nw := (mbxTake s i).nw } := rfl

theorem notify_frame (s : State) (mbx code arg : Nat) : notify s mbx code arg = { s with nw := (notify s mbx code arg).nw } := by
  unfold notify; simp only []; split <;> rfl

theorem takeNotice_frame (s : State) (mbx : Nat) : takeNotice s mbx = { s with nw := (takeNotice s mbx).nw } := by
  unfold takeNotice; simp only []; split <;> rfl

theorem sendEvent_frame (s : State) (owner code subject arg : Nat) :
    sendEvent s owner code subject arg = { s with nw := (sendEvent s owner code subject arg).nw } := by
  unfold sendEvent
  repeat (first | rfl | rw [outPush_frame] | (simp only []; split))

theorem wantSpare_frame (s : State) (res unit : Nat) : wantSpare s res unit = { s with fc := (wantSpare s res unit).fc } := by
  unfold wantSpare; split <;> rfl

/-! ### Frames the part sends -/

theorem emit_frame (s : State) (f : TxFrame) : emit s f = { s with ring := (emit s f).ring } := rfl

theorem sendFrame_frame (s : State) (ts type mbx stage : Nat) (q : Bool) (bs : List Byte) :
    sendFrame s ts type mbx stage q bs =
      { s with ring := (sendFrame s ts type mbx stage q bs).ring, sec := (sendFrame s ts type mbx stage q bs).sec } := by
  unfold sendFrame
  split
  · rfl
  · simp only []; split <;> rfl

theorem sendTo_frame (s : State) (ident type mbx stage : Nat) (bs : List Byte) :
    sendTo s ident type mbx stage bs =
      { s with ring := (sendTo s ident type mbx stage bs).ring, sec := (sendTo s ident type mbx stage bs).sec } := by
  unfold sendTo
  split
  · exact sendFrame_frame ..
  · rfl

/-! ### Writes of engines -/

theorem engineWrite_frame (s : State) (source unit : Nat) (r : CmdRef) (va : Nat) (bs : List Byte) :
    engineWrite s source unit r va bs =
      { s with mem := (engineWrite s source unit r va bs).mem, fc := (engineWrite s source unit r va bs).fc } := by
  unfold engineWrite
  split
  · rename_i t h; obtain ⟨ps, -, rfl⟩ := devWrite_ok h; rfl
  · rfl

theorem memWf_engineWrite {s : State} (source unit : Nat) (r : CmdRef) (va : Nat) (bs : List Byte) (h : memWf s.mem.cells = true) :
    memWf (engineWrite s source unit r va bs).mem.cells = true := by
  unfold engineWrite
  split
  · rename_i t e; exact memWf_devWrite e h
  · exact h

theorem writeStatus_frame (s : State) (q : Nat) :
    writeStatus s q = { s with mem := (writeStatus s q).mem, fc := (writeStatus s q).fc, sh := (writeStatus s q).sh } := by
  unfold writeStatus
  simp only []
  split
  · rename_i x hx
    rw [engineWrite_frame (sysRelease s), sysRelease_frame s]
  · exact sysRelease_frame s

theorem memWf_writeStatus {s : State} (q : Nat) (h : memWf s.mem.cells = true) : memWf (writeStatus s q).mem.cells = true := by
  unfold writeStatus
  simp only []
  split
  · exact memWf_engineWrite _ _ _ _ _ (memWf_sysRelease h)
  · exact memWf_sysRelease h

/-! ### Domain votes -/

/-- The state but for the voted domains. -/
def sameButDoms (s t : State) : Prop := t = { s with pw := { s.pw with doms := t.pw.doms } }

theorem sameButDoms_fold {α : Type} (f : State → α → State) (h : ∀ s a, sameButDoms s (f s a)) (l : List α) :
    ∀ s, sameButDoms s (l.foldl f s) := by
  induction l with
  | nil => intro s; rfl
  | cons a l ih =>
    intro s
    have h1 := ih (f s a)
    have h2 := h s a
    unfold sameButDoms at h1 h2 ⊢
    rw [List.foldl_cons, h1, h2]

theorem refreshDoms_frame (s : State) : sameButDoms s (refreshDoms s) := by
  unfold refreshDoms
  split
  · rfl
  · refine sameButDoms_fold _ (fun s d => ?_) _ s
    split <;> rfl

theorem dispatchVote_frame (s : State) (q unit : Nat) : sameButDoms s (dispatchVote s q unit).1 := by
  unfold dispatchVote
  simp only []
  split
  · exact sameButDoms_fold (fun s d => modDom s d fun x => { x with dispatch := x.dispatch.filter fun k => k != q }) (fun _ _ => rfl)
      (engineDomains unit) s
  · have h1 := sameButDoms_fold (fun s d => modDom s d fun x => { x with dispatch := sins x.dispatch q }) (fun _ _ => rfl)
      (engineDomains unit) s
    have h2 := refreshDoms_frame ((engineDomains unit).foldl (fun s d => modDom s d fun x => { x with dispatch := sins x.dispatch q }) s)
    unfold sameButDoms at h1 h2 ⊢
    rw [h2, h1]

theorem linkVote_frame (s : State) (d l : Nat) : sameButDoms s (linkVote s d l).1 := by
  unfold linkVote
  split
  · rfl
  · have h := refreshDoms_frame (modDom s d fun x => { x with held := sins x.held l })
    unfold sameButDoms at h ⊢
    rw [h]; rfl

end Sys2Proof.Machine
end

