-- ==== Sys2Proof/Laws/State.lean ====
section
/-! SUPPORT. The named updates of State, field by field: an update writes its own field and leaves every other one.
No later proof unfolds a record update. -/

namespace Sys2Proof.Machine
open Sys2Proof

/-! ### raise -/

@[simp] theorem raise_fc (s : State) (m : FaultMsg) :
    (raise s m).fc = { s.fc with wire := s.fc.wire ++ [m] } := rfl
@[simp] theorem raise_pending (s : State) (m : FaultMsg) : (raise s m).pending = s.pending := rfl
@[simp] theorem raise_now (s : State) (m : FaultMsg) : (raise s m).now = s.now := rfl
@[simp] theorem raise_free (s : State) (m : FaultMsg) : (raise s m).free = s.free := rfl
@[simp] theorem raise_pw (s : State) (m : FaultMsg) : (raise s m).pw = s.pw := rfl
@[simp] theorem raise_nw (s : State) (m : FaultMsg) : (raise s m).nw = s.nw := rfl
@[simp] theorem raise_sec (s : State) (m : FaultMsg) : (raise s m).sec = s.sec := rfl
@[simp] theorem raise_cx (s : State) (m : FaultMsg) : (raise s m).cx = s.cx := rfl
@[simp] theorem raise_cc (s : State) (m : FaultMsg) : (raise s m).cc = s.cc := rfl
@[simp] theorem raise_mem (s : State) (m : FaultMsg) : (raise s m).mem = s.mem := rfl
@[simp] theorem raise_ring (s : State) (m : FaultMsg) : (raise s m).ring = s.ring := rfl
@[simp] theorem raise_ob (s : State) (m : FaultMsg) : (raise s m).ob = s.ob := rfl
@[simp] theorem raise_num (s : State) (m : FaultMsg) : (raise s m).num = s.num := rfl
@[simp] theorem raise_mh (s : State) (m : FaultMsg) : (raise s m).mh = s.mh := rfl
@[simp] theorem raise_gal (s : State) (m : FaultMsg) : (raise s m).gal = s.gal := rfl
@[simp] theorem raise_tt (s : State) (m : FaultMsg) : (raise s m).tt = s.tt := rfl
@[simp] theorem raise_sh (s : State) (m : FaultMsg) : (raise s m).sh = s.sh := rfl
@[simp] theorem raise_hp (s : State) (m : FaultMsg) : (raise s m).hp = s.hp := rfl
@[simp] theorem raise_rs (s : State) (m : FaultMsg) : (raise s m).rs = s.rs := rfl
@[simp] theorem raise_cm (s : State) (m : FaultMsg) : (raise s m).cm = s.cm := rfl
@[simp] theorem raise_mc (s : State) (m : FaultMsg) : (raise s m).mc = s.mc := rfl
@[simp] theorem raise_ms (s : State) (m : FaultMsg) : (raise s m).ms = s.ms := rfl

/-! ### draw -/

@[simp] theorem draw_free (s : State) :
    (draw s).free = s.free + 1 := rfl
@[simp] theorem draw_pending (s : State) : (draw s).pending = s.pending := rfl
@[simp] theorem draw_now (s : State) : (draw s).now = s.now := rfl
@[simp] theorem draw_fc (s : State) : (draw s).fc = s.fc := rfl
@[simp] theorem draw_pw (s : State) : (draw s).pw = s.pw := rfl
@[simp] theorem draw_nw (s : State) : (draw s).nw = s.nw := rfl
@[simp] theorem draw_sec (s : State) : (draw s).sec = s.sec := rfl
@[simp] theorem draw_cx (s : State) : (draw s).cx = s.cx := rfl
@[simp] theorem draw_cc (s : State) : (draw s).cc = s.cc := rfl
@[simp] theorem draw_mem (s : State) : (draw s).mem = s.mem := rfl
@[simp] theorem draw_ring (s : State) : (draw s).ring = s.ring := rfl
@[simp] theorem draw_ob (s : State) : (draw s).ob = s.ob := rfl
@[simp] theorem draw_num (s : State) : (draw s).num = s.num := rfl
@[simp] theorem draw_mh (s : State) : (draw s).mh = s.mh := rfl
@[simp] theorem draw_gal (s : State) : (draw s).gal = s.gal := rfl
@[simp] theorem draw_tt (s : State) : (draw s).tt = s.tt := rfl
@[simp] theorem draw_sh (s : State) : (draw s).sh = s.sh := rfl
@[simp] theorem draw_hp (s : State) : (draw s).hp = s.hp := rfl
@[simp] theorem draw_rs (s : State) : (draw s).rs = s.rs := rfl
@[simp] theorem draw_cm (s : State) : (draw s).cm = s.cm := rfl
@[simp] theorem draw_mc (s : State) : (draw s).mc = s.mc := rfl
@[simp] theorem draw_ms (s : State) : (draw s).ms = s.ms := rfl

/-! ### setCtx -/

@[simp] theorem setCtx_cx (s : State) (id : Nat) (c : Ctx) :
    (setCtx s id c).cx = { s.cx with ctxs := tput s.cx.ctxs id c } := rfl
@[simp] theorem setCtx_pending (s : State) (id : Nat) (c : Ctx) : (setCtx s id c).pending = s.pending := rfl
@[simp] theorem setCtx_now (s : State) (id : Nat) (c : Ctx) : (setCtx s id c).now = s.now := rfl
@[simp] theorem setCtx_free (s : State) (id : Nat) (c : Ctx) : (setCtx s id c).free = s.free := rfl
@[simp] theorem setCtx_fc (s : State) (id : Nat) (c : Ctx) : (setCtx s id c).fc = s.fc := rfl
@[simp] theorem setCtx_pw (s : State) (id : Nat) (c : Ctx) : (setCtx s id c).pw = s.pw := rfl
@[simp] theorem setCtx_nw (s : State) (id : Nat) (c : Ctx) : (setCtx s id c).nw = s.nw := rfl
@[simp] theorem setCtx_sec (s : State) (id : Nat) (c : Ctx) : (setCtx s id c).sec = s.sec := rfl
@[simp] theorem setCtx_cc (s : State) (id : Nat) (c : Ctx) : (setCtx s id c).cc = s.cc := rfl
@[simp] theorem setCtx_mem (s : State) (id : Nat) (c : Ctx) : (setCtx s id c).mem = s.mem := rfl
@[simp] theorem setCtx_ring (s : State) (id : Nat) (c : Ctx) : (setCtx s id c).ring = s.ring := rfl
@[simp] theorem setCtx_ob (s : State) (id : Nat) (c : Ctx) : (setCtx s id c).ob = s.ob := rfl
@[simp] theorem setCtx_num (s : State) (id : Nat) (c : Ctx) : (setCtx s id c).num = s.num := rfl
@[simp] theorem setCtx_mh (s : State) (id : Nat) (c : Ctx) : (setCtx s id c).mh = s.mh := rfl
@[simp] theorem setCtx_gal (s : State) (id : Nat) (c : Ctx) : (setCtx s id c).gal = s.gal := rfl
@[simp] theorem setCtx_tt (s : State) (id : Nat) (c : Ctx) : (setCtx s id c).tt = s.tt := rfl
@[simp] theorem setCtx_sh (s : State) (id : Nat) (c : Ctx) : (setCtx s id c).sh = s.sh := rfl
@[simp] theorem setCtx_hp (s : State) (id : Nat) (c : Ctx) : (setCtx s id c).hp = s.hp := rfl
@[simp] theorem setCtx_rs (s : State) (id : Nat) (c : Ctx) : (setCtx s id c).rs = s.rs := rfl
@[simp] theorem setCtx_cm (s : State) (id : Nat) (c : Ctx) : (setCtx s id c).cm = s.cm := rfl
@[simp] theorem setCtx_mc (s : State) (id : Nat) (c : Ctx) : (setCtx s id c).mc = s.mc := rfl
@[simp] theorem setCtx_ms (s : State) (id : Nat) (c : Ctx) : (setCtx s id c).ms = s.ms := rfl

/-! ### modCtx -/

@[simp] theorem modCtx_cx (s : State) (id : Nat) (f : Ctx → Ctx) :
    (modCtx s id f).cx = { s.cx with ctxs := tmod s.cx.ctxs id f } := rfl
@[simp] theorem modCtx_pending (s : State) (id : Nat) (f : Ctx → Ctx) : (modCtx s id f).pending = s.pending := rfl
@[simp] theorem modCtx_now (s : State) (id : Nat) (f : Ctx → Ctx) : (modCtx s id f).now = s.now := rfl
@[simp] theorem modCtx_free (s : State) (id : Nat) (f : Ctx → Ctx) : (modCtx s id f).free = s.free := rfl
@[simp] theorem modCtx_fc (s : State) (id : Nat) (f : Ctx → Ctx) : (modCtx s id f).fc = s.fc := rfl
@[simp] theorem modCtx_pw (s : State) (id : Nat) (f : Ctx → Ctx) : (modCtx s id f).pw = s.pw := rfl
@[simp] theorem modCtx_nw (s : State) (id : Nat) (f : Ctx → Ctx) : (modCtx s id f).nw = s.nw := rfl
@[simp] theorem modCtx_sec (s : State) (id : Nat) (f : Ctx → Ctx) : (modCtx s id f).sec = s.sec := rfl
@[simp] theorem modCtx_cc (s : State) (id : Nat) (f : Ctx → Ctx) : (modCtx s id f).cc = s.cc := rfl
@[simp] theorem modCtx_mem (s : State) (id : Nat) (f : Ctx → Ctx) : (modCtx s id f).mem = s.mem := rfl
@[simp] theorem modCtx_ring (s : State) (id : Nat) (f : Ctx → Ctx) : (modCtx s id f).ring = s.ring := rfl
@[simp] theorem modCtx_ob (s : State) (id : Nat) (f : Ctx → Ctx) : (modCtx s id f).ob = s.ob := rfl
@[simp] theorem modCtx_num (s : State) (id : Nat) (f : Ctx → Ctx) : (modCtx s id f).num = s.num := rfl
@[simp] theorem modCtx_mh (s : State) (id : Nat) (f : Ctx → Ctx) : (modCtx s id f).mh = s.mh := rfl
@[simp] theorem modCtx_gal (s : State) (id : Nat) (f : Ctx → Ctx) : (modCtx s id f).gal = s.gal := rfl
@[simp] theorem modCtx_tt (s : State) (id : Nat) (f : Ctx → Ctx) : (modCtx s id f).tt = s.tt := rfl
@[simp] theorem modCtx_sh (s : State) (id : Nat) (f : Ctx → Ctx) : (modCtx s id f).sh = s.sh := rfl
@[simp] theorem modCtx_hp (s : State) (id : Nat) (f : Ctx → Ctx) : (modCtx s id f).hp = s.hp := rfl
@[simp] theorem modCtx_rs (s : State) (id : Nat) (f : Ctx → Ctx) : (modCtx s id f).rs = s.rs := rfl
@[simp] theorem modCtx_cm (s : State) (id : Nat) (f : Ctx → Ctx) : (modCtx s id f).cm = s.cm := rfl
@[simp] theorem modCtx_mc (s : State) (id : Nat) (f : Ctx → Ctx) : (modCtx s id f).mc = s.mc := rfl
@[simp] theorem modCtx_ms (s : State) (id : Nat) (f : Ctx → Ctx) : (modCtx s id f).ms = s.ms := rfl

/-! ### setObj -/

@[simp] theorem setObj_cx (s : State) (slot : Nat) (o : Obj) :
    (setObj s slot o).cx = { s.cx with objs := tput s.cx.objs slot o } := rfl
@[simp] theorem setObj_pending (s : State) (slot : Nat) (o : Obj) : (setObj s slot o).pending = s.pending := rfl
@[simp] theorem setObj_now (s : State) (slot : Nat) (o : Obj) : (setObj s slot o).now = s.now := rfl
@[simp] theorem setObj_free (s : State) (slot : Nat) (o : Obj) : (setObj s slot o).free = s.free := rfl
@[simp] theorem setObj_fc (s : State) (slot : Nat) (o : Obj) : (setObj s slot o).fc = s.fc := rfl
@[simp] theorem setObj_pw (s : State) (slot : Nat) (o : Obj) : (setObj s slot o).pw = s.pw := rfl
@[simp] theorem setObj_nw (s : State) (slot : Nat) (o : Obj) : (setObj s slot o).nw = s.nw := rfl
@[simp] theorem setObj_sec (s : State) (slot : Nat) (o : Obj) : (setObj s slot o).sec = s.sec := rfl
@[simp] theorem setObj_cc (s : State) (slot : Nat) (o : Obj) : (setObj s slot o).cc = s.cc := rfl
@[simp] theorem setObj_mem (s : State) (slot : Nat) (o : Obj) : (setObj s slot o).mem = s.mem := rfl
@[simp] theorem setObj_ring (s : State) (slot : Nat) (o : Obj) : (setObj s slot o).ring = s.ring := rfl
@[simp] theorem setObj_ob (s : State) (slot : Nat) (o : Obj) : (setObj s slot o).ob = s.ob := rfl
@[simp] theorem setObj_num (s : State) (slot : Nat) (o : Obj) : (setObj s slot o).num = s.num := rfl
@[simp] theorem setObj_mh (s : State) (slot : Nat) (o : Obj) : (setObj s slot o).mh = s.mh := rfl
@[simp] theorem setObj_gal (s : State) (slot : Nat) (o : Obj) : (setObj s slot o).gal = s.gal := rfl
@[simp] theorem setObj_tt (s : State) (slot : Nat) (o : Obj) : (setObj s slot o).tt = s.tt := rfl
@[simp] theorem setObj_sh (s : State) (slot : Nat) (o : Obj) : (setObj s slot o).sh = s.sh := rfl
@[simp] theorem setObj_hp (s : State) (slot : Nat) (o : Obj) : (setObj s slot o).hp = s.hp := rfl
@[simp] theorem setObj_rs (s : State) (slot : Nat) (o : Obj) : (setObj s slot o).rs = s.rs := rfl
@[simp] theorem setObj_cm (s : State) (slot : Nat) (o : Obj) : (setObj s slot o).cm = s.cm := rfl
@[simp] theorem setObj_mc (s : State) (slot : Nat) (o : Obj) : (setObj s slot o).mc = s.mc := rfl
@[simp] theorem setObj_ms (s : State) (slot : Nat) (o : Obj) : (setObj s slot o).ms = s.ms := rfl

/-! ### touchLines -/

@[simp] theorem touchLines_mem (s : State) (ps : List (Nat × Nat)) :
    (touchLines s ps).mem = { s.mem with mz := ps.foldl (fun t p => mzUse false t p.1 p.2) s.mem.mz } := rfl
@[simp] theorem touchLines_pending (s : State) (ps : List (Nat × Nat)) : (touchLines s ps).pending = s.pending := rfl
@[simp] theorem touchLines_now (s : State) (ps : List (Nat × Nat)) : (touchLines s ps).now = s.now := rfl
@[simp] theorem touchLines_free (s : State) (ps : List (Nat × Nat)) : (touchLines s ps).free = s.free := rfl
@[simp] theorem touchLines_fc (s : State) (ps : List (Nat × Nat)) : (touchLines s ps).fc = s.fc := rfl
@[simp] theorem touchLines_pw (s : State) (ps : List (Nat × Nat)) : (touchLines s ps).pw = s.pw := rfl
@[simp] theorem touchLines_nw (s : State) (ps : List (Nat × Nat)) : (touchLines s ps).nw = s.nw := rfl
@[simp] theorem touchLines_sec (s : State) (ps : List (Nat × Nat)) : (touchLines s ps).sec = s.sec := rfl
@[simp] theorem touchLines_cx (s : State) (ps : List (Nat × Nat)) : (touchLines s ps).cx = s.cx := rfl
@[simp] theorem touchLines_cc (s : State) (ps : List (Nat × Nat)) : (touchLines s ps).cc = s.cc := rfl
@[simp] theorem touchLines_ring (s : State) (ps : List (Nat × Nat)) : (touchLines s ps).ring = s.ring := rfl
@[simp] theorem touchLines_ob (s : State) (ps : List (Nat × Nat)) : (touchLines s ps).ob = s.ob := rfl
@[simp] theorem touchLines_num (s : State) (ps : List (Nat × Nat)) : (touchLines s ps).num = s.num := rfl
@[simp] theorem touchLines_mh (s : State) (ps : List (Nat × Nat)) : (touchLines s ps).mh = s.mh := rfl
@[simp] theorem touchLines_gal (s : State) (ps : List (Nat × Nat)) : (touchLines s ps).gal = s.gal := rfl
@[simp] theorem touchLines_tt (s : State) (ps : List (Nat × Nat)) : (touchLines s ps).tt = s.tt := rfl
@[simp] theorem touchLines_sh (s : State) (ps : List (Nat × Nat)) : (touchLines s ps).sh = s.sh := rfl
@[simp] theorem touchLines_hp (s : State) (ps : List (Nat × Nat)) : (touchLines s ps).hp = s.hp := rfl
@[simp] theorem touchLines_rs (s : State) (ps : List (Nat × Nat)) : (touchLines s ps).rs = s.rs := rfl
@[simp] theorem touchLines_cm (s : State) (ps : List (Nat × Nat)) : (touchLines s ps).cm = s.cm := rfl
@[simp] theorem touchLines_mc (s : State) (ps : List (Nat × Nat)) : (touchLines s ps).mc = s.mc := rfl
@[simp] theorem touchLines_ms (s : State) (ps : List (Nat × Nat)) : (touchLines s ps).ms = s.ms := rfl

/-! ### bumpSeal -/

@[simp] theorem bumpSeal_sec (s : State) (ident : Nat) :
    (bumpSeal s ident).sec = { s.sec with sess := tmod s.sec.sess ident fun x => if x.full ∧ x.keyed then { x with txSeq := x.txSeq + 1 } else x } := rfl
@[simp] theorem bumpSeal_pending (s : State) (ident : Nat) : (bumpSeal s ident).pending = s.pending := rfl
@[simp] theorem bumpSeal_now (s : State) (ident : Nat) : (bumpSeal s ident).now = s.now := rfl
@[simp] theorem bumpSeal_free (s : State) (ident : Nat) : (bumpSeal s ident).free = s.free := rfl
@[simp] theorem bumpSeal_fc (s : State) (ident : Nat) : (bumpSeal s ident).fc = s.fc := rfl
@[simp] theorem bumpSeal_pw (s : State) (ident : Nat) : (bumpSeal s ident).pw = s.pw := rfl
@[simp] theorem bumpSeal_nw (s : State) (ident : Nat) : (bumpSeal s ident).nw = s.nw := rfl
@[simp] theorem bumpSeal_cx (s : State) (ident : Nat) : (bumpSeal s ident).cx = s.cx := rfl
@[simp] theorem bumpSeal_cc (s : State) (ident : Nat) : (bumpSeal s ident).cc = s.cc := rfl
@[simp] theorem bumpSeal_mem (s : State) (ident : Nat) : (bumpSeal s ident).mem = s.mem := rfl
@[simp] theorem bumpSeal_ring (s : State) (ident : Nat) : (bumpSeal s ident).ring = s.ring := rfl
@[simp] theorem bumpSeal_ob (s : State) (ident : Nat) : (bumpSeal s ident).ob = s.ob := rfl
@[simp] theorem bumpSeal_num (s : State) (ident : Nat) : (bumpSeal s ident).num = s.num := rfl
@[simp] theorem bumpSeal_mh (s : State) (ident : Nat) : (bumpSeal s ident).mh = s.mh := rfl
@[simp] theorem bumpSeal_gal (s : State) (ident : Nat) : (bumpSeal s ident).gal = s.gal := rfl
@[simp] theorem bumpSeal_tt (s : State) (ident : Nat) : (bumpSeal s ident).tt = s.tt := rfl
@[simp] theorem bumpSeal_sh (s : State) (ident : Nat) : (bumpSeal s ident).sh = s.sh := rfl
@[simp] theorem bumpSeal_hp (s : State) (ident : Nat) : (bumpSeal s ident).hp = s.hp := rfl
@[simp] theorem bumpSeal_rs (s : State) (ident : Nat) : (bumpSeal s ident).rs = s.rs := rfl
@[simp] theorem bumpSeal_cm (s : State) (ident : Nat) : (bumpSeal s ident).cm = s.cm := rfl
@[simp] theorem bumpSeal_mc (s : State) (ident : Nat) : (bumpSeal s ident).mc = s.mc := rfl
@[simp] theorem bumpSeal_ms (s : State) (ident : Nat) : (bumpSeal s ident).ms = s.ms := rfl

/-! ### setQueue -/

@[simp] theorem setQueue_cc (s : State) (q : Nat) (x : Queue) :
    (setQueue s q x).cc = { s.cc with queues := tput s.cc.queues q x } := rfl
@[simp] theorem setQueue_pending (s : State) (q : Nat) (x : Queue) : (setQueue s q x).pending = s.pending := rfl
@[simp] theorem setQueue_now (s : State) (q : Nat) (x : Queue) : (setQueue s q x).now = s.now := rfl
@[simp] theorem setQueue_free (s : State) (q : Nat) (x : Queue) : (setQueue s q x).free = s.free := rfl
@[simp] theorem setQueue_fc (s : State) (q : Nat) (x : Queue) : (setQueue s q x).fc = s.fc := rfl
@[simp] theorem setQueue_pw (s : State) (q : Nat) (x : Queue) : (setQueue s q x).pw = s.pw := rfl
@[simp] theorem setQueue_nw (s : State) (q : Nat) (x : Queue) : (setQueue s q x).nw = s.nw := rfl
@[simp] theorem setQueue_sec (s : State) (q : Nat) (x : Queue) : (setQueue s q x).sec = s.sec := rfl
@[simp] theorem setQueue_cx (s : State) (q : Nat) (x : Queue) : (setQueue s q x).cx = s.cx := rfl
@[simp] theorem setQueue_mem (s : State) (q : Nat) (x : Queue) : (setQueue s q x).mem = s.mem := rfl
@[simp] theorem setQueue_ring (s : State) (q : Nat) (x : Queue) : (setQueue s q x).ring = s.ring := rfl
@[simp] theorem setQueue_ob (s : State) (q : Nat) (x : Queue) : (setQueue s q x).ob = s.ob := rfl
@[simp] theorem setQueue_num (s : State) (q : Nat) (x : Queue) : (setQueue s q x).num = s.num := rfl
@[simp] theorem setQueue_mh (s : State) (q : Nat) (x : Queue) : (setQueue s q x).mh = s.mh := rfl
@[simp] theorem setQueue_gal (s : State) (q : Nat) (x : Queue) : (setQueue s q x).gal = s.gal := rfl
@[simp] theorem setQueue_tt (s : State) (q : Nat) (x : Queue) : (setQueue s q x).tt = s.tt := rfl
@[simp] theorem setQueue_sh (s : State) (q : Nat) (x : Queue) : (setQueue s q x).sh = s.sh := rfl
@[simp] theorem setQueue_hp (s : State) (q : Nat) (x : Queue) : (setQueue s q x).hp = s.hp := rfl
@[simp] theorem setQueue_rs (s : State) (q : Nat) (x : Queue) : (setQueue s q x).rs = s.rs := rfl
@[simp] theorem setQueue_cm (s : State) (q : Nat) (x : Queue) : (setQueue s q x).cm = s.cm := rfl
@[simp] theorem setQueue_mc (s : State) (q : Nat) (x : Queue) : (setQueue s q x).mc = s.mc := rfl
@[simp] theorem setQueue_ms (s : State) (q : Nat) (x : Queue) : (setQueue s q x).ms = s.ms := rfl

/-! ### modQueue -/

@[simp] theorem modQueue_cc (s : State) (q : Nat) (f : Queue → Queue) :
    (modQueue s q f).cc = { s.cc with queues := tmod s.cc.queues q f } := rfl
@[simp] theorem modQueue_pending (s : State) (q : Nat) (f : Queue → Queue) : (modQueue s q f).pending = s.pending := rfl
@[simp] theorem modQueue_now (s : State) (q : Nat) (f : Queue → Queue) : (modQueue s q f).now = s.now := rfl
@[simp] theorem modQueue_free (s : State) (q : Nat) (f : Queue → Queue) : (modQueue s q f).free = s.free := rfl
@[simp] theorem modQueue_fc (s : State) (q : Nat) (f : Queue → Queue) : (modQueue s q f).fc = s.fc := rfl
@[simp] theorem modQueue_pw (s : State) (q : Nat) (f : Queue → Queue) : (modQueue s q f).pw = s.pw := rfl
@[simp] theorem modQueue_nw (s : State) (q : Nat) (f : Queue → Queue) : (modQueue s q f).nw = s.nw := rfl
@[simp] theorem modQueue_sec (s : State) (q : Nat) (f : Queue → Queue) : (modQueue s q f).sec = s.sec := rfl
@[simp] theorem modQueue_cx (s : State) (q : Nat) (f : Queue → Queue) : (modQueue s q f).cx = s.cx := rfl
@[simp] theorem modQueue_mem (s : State) (q : Nat) (f : Queue → Queue) : (modQueue s q f).mem = s.mem := rfl
@[simp] theorem modQueue_ring (s : State) (q : Nat) (f : Queue → Queue) : (modQueue s q f).ring = s.ring := rfl
@[simp] theorem modQueue_ob (s : State) (q : Nat) (f : Queue → Queue) : (modQueue s q f).ob = s.ob := rfl
@[simp] theorem modQueue_num (s : State) (q : Nat) (f : Queue → Queue) : (modQueue s q f).num = s.num := rfl
@[simp] theorem modQueue_mh (s : State) (q : Nat) (f : Queue → Queue) : (modQueue s q f).mh = s.mh := rfl
@[simp] theorem modQueue_gal (s : State) (q : Nat) (f : Queue → Queue) : (modQueue s q f).gal = s.gal := rfl
@[simp] theorem modQueue_tt (s : State) (q : Nat) (f : Queue → Queue) : (modQueue s q f).tt = s.tt := rfl
@[simp] theorem modQueue_sh (s : State) (q : Nat) (f : Queue → Queue) : (modQueue s q f).sh = s.sh := rfl
@[simp] theorem modQueue_hp (s : State) (q : Nat) (f : Queue → Queue) : (modQueue s q f).hp = s.hp := rfl
@[simp] theorem modQueue_rs (s : State) (q : Nat) (f : Queue → Queue) : (modQueue s q f).rs = s.rs := rfl
@[simp] theorem modQueue_cm (s : State) (q : Nat) (f : Queue → Queue) : (modQueue s q f).cm = s.cm := rfl
@[simp] theorem modQueue_mc (s : State) (q : Nat) (f : Queue → Queue) : (modQueue s q f).mc = s.mc := rfl
@[simp] theorem modQueue_ms (s : State) (q : Nat) (f : Queue → Queue) : (modQueue s q f).ms = s.ms := rfl

/-! ### modFence -/

@[simp] theorem modFence_cc (s : State) (f : Nat) (g : Fence → Fence) :
    (modFence s f g).cc = { s.cc with fences := tmod s.cc.fences f g } := rfl
@[simp] theorem modFence_pending (s : State) (f : Nat) (g : Fence → Fence) : (modFence s f g).pending = s.pending := rfl
@[simp] theorem modFence_now (s : State) (f : Nat) (g : Fence → Fence) : (modFence s f g).now = s.now := rfl
@[simp] theorem modFence_free (s : State) (f : Nat) (g : Fence → Fence) : (modFence s f g).free = s.free := rfl
@[simp] theorem modFence_fc (s : State) (f : Nat) (g : Fence → Fence) : (modFence s f g).fc = s.fc := rfl
@[simp] theorem modFence_pw (s : State) (f : Nat) (g : Fence → Fence) : (modFence s f g).pw = s.pw := rfl
@[simp] theorem modFence_nw (s : State) (f : Nat) (g : Fence → Fence) : (modFence s f g).nw = s.nw := rfl
@[simp] theorem modFence_sec (s : State) (f : Nat) (g : Fence → Fence) : (modFence s f g).sec = s.sec := rfl
@[simp] theorem modFence_cx (s : State) (f : Nat) (g : Fence → Fence) : (modFence s f g).cx = s.cx := rfl
@[simp] theorem modFence_mem (s : State) (f : Nat) (g : Fence → Fence) : (modFence s f g).mem = s.mem := rfl
@[simp] theorem modFence_ring (s : State) (f : Nat) (g : Fence → Fence) : (modFence s f g).ring = s.ring := rfl
@[simp] theorem modFence_ob (s : State) (f : Nat) (g : Fence → Fence) : (modFence s f g).ob = s.ob := rfl
@[simp] theorem modFence_num (s : State) (f : Nat) (g : Fence → Fence) : (modFence s f g).num = s.num := rfl
@[simp] theorem modFence_mh (s : State) (f : Nat) (g : Fence → Fence) : (modFence s f g).mh = s.mh := rfl
@[simp] theorem modFence_gal (s : State) (f : Nat) (g : Fence → Fence) : (modFence s f g).gal = s.gal := rfl
@[simp] theorem modFence_tt (s : State) (f : Nat) (g : Fence → Fence) : (modFence s f g).tt = s.tt := rfl
@[simp] theorem modFence_sh (s : State) (f : Nat) (g : Fence → Fence) : (modFence s f g).sh = s.sh := rfl
@[simp] theorem modFence_hp (s : State) (f : Nat) (g : Fence → Fence) : (modFence s f g).hp = s.hp := rfl
@[simp] theorem modFence_rs (s : State) (f : Nat) (g : Fence → Fence) : (modFence s f g).rs = s.rs := rfl
@[simp] theorem modFence_cm (s : State) (f : Nat) (g : Fence → Fence) : (modFence s f g).cm = s.cm := rfl
@[simp] theorem modFence_mc (s : State) (f : Nat) (g : Fence → Fence) : (modFence s f g).mc = s.mc := rfl
@[simp] theorem modFence_ms (s : State) (f : Nat) (g : Fence → Fence) : (modFence s f g).ms = s.ms := rfl

/-! ### finishCmd -/

@[simp] theorem finishCmd_cc (s : State) (r : CmdRef) (comp detail : Word) :
    (finishCmd s r comp detail).cc = { s.cc with done := s.cc.done ++ [(r, comp, detail)] } := rfl
@[simp] theorem finishCmd_pending (s : State) (r : CmdRef) (comp detail : Word) : (finishCmd s r comp detail).pending = s.pending := rfl
@[simp] theorem finishCmd_now (s : State) (r : CmdRef) (comp detail : Word) : (finishCmd s r comp detail).now = s.now := rfl
@[simp] theorem finishCmd_free (s : State) (r : CmdRef) (comp detail : Word) : (finishCmd s r comp detail).free = s.free := rfl
@[simp] theorem finishCmd_fc (s : State) (r : CmdRef) (comp detail : Word) : (finishCmd s r comp detail).fc = s.fc := rfl
@[simp] theorem finishCmd_pw (s : State) (r : CmdRef) (comp detail : Word) : (finishCmd s r comp detail).pw = s.pw := rfl
@[simp] theorem finishCmd_nw (s : State) (r : CmdRef) (comp detail : Word) : (finishCmd s r comp detail).nw = s.nw := rfl
@[simp] theorem finishCmd_sec (s : State) (r : CmdRef) (comp detail : Word) : (finishCmd s r comp detail).sec = s.sec := rfl
@[simp] theorem finishCmd_cx (s : State) (r : CmdRef) (comp detail : Word) : (finishCmd s r comp detail).cx = s.cx := rfl
@[simp] theorem finishCmd_mem (s : State) (r : CmdRef) (comp detail : Word) : (finishCmd s r comp detail).mem = s.mem := rfl
@[simp] theorem finishCmd_ring (s : State) (r : CmdRef) (comp detail : Word) : (finishCmd s r comp detail).ring = s.ring := rfl
@[simp] theorem finishCmd_ob (s : State) (r : CmdRef) (comp detail : Word) : (finishCmd s r comp detail).ob = s.ob := rfl
@[simp] theorem finishCmd_num (s : State) (r : CmdRef) (comp detail : Word) : (finishCmd s r comp detail).num = s.num := rfl
@[simp] theorem finishCmd_mh (s : State) (r : CmdRef) (comp detail : Word) : (finishCmd s r comp detail).mh = s.mh := rfl
@[simp] theorem finishCmd_gal (s : State) (r : CmdRef) (comp detail : Word) : (finishCmd s r comp detail).gal = s.gal := rfl
@[simp] theorem finishCmd_tt (s : State) (r : CmdRef) (comp detail : Word) : (finishCmd s r comp detail).tt = s.tt := rfl
@[simp] theorem finishCmd_sh (s : State) (r : CmdRef) (comp detail : Word) : (finishCmd s r comp detail).sh = s.sh := rfl
@[simp] theorem finishCmd_hp (s : State) (r : CmdRef) (comp detail : Word) : (finishCmd s r comp detail).hp = s.hp := rfl
@[simp] theorem finishCmd_rs (s : State) (r : CmdRef) (comp detail : Word) : (finishCmd s r comp detail).rs = s.rs := rfl
@[simp] theorem finishCmd_cm (s : State) (r : CmdRef) (comp detail : Word) : (finishCmd s r comp detail).cm = s.cm := rfl
@[simp] theorem finishCmd_mc (s : State) (r : CmdRef) (comp detail : Word) : (finishCmd s r comp detail).mc = s.mc := rfl
@[simp] theorem finishCmd_ms (s : State) (r : CmdRef) (comp detail : Word) : (finishCmd s r comp detail).ms = s.ms := rfl

/-! ### modDom -/

@[simp] theorem modDom_pw (s : State) (d : Nat) (f : Domain → Domain) :
    (modDom s d f).pw = { s.pw with doms := upd s.pw.doms d f } := rfl
@[simp] theorem modDom_pending (s : State) (d : Nat) (f : Domain → Domain) : (modDom s d f).pending = s.pending := rfl
@[simp] theorem modDom_now (s : State) (d : Nat) (f : Domain → Domain) : (modDom s d f).now = s.now := rfl
@[simp] theorem modDom_free (s : State) (d : Nat) (f : Domain → Domain) : (modDom s d f).free = s.free := rfl
@[simp] theorem modDom_fc (s : State) (d : Nat) (f : Domain → Domain) : (modDom s d f).fc = s.fc := rfl
@[simp] theorem modDom_nw (s : State) (d : Nat) (f : Domain → Domain) : (modDom s d f).nw = s.nw := rfl
@[simp] theorem modDom_sec (s : State) (d : Nat) (f : Domain → Domain) : (modDom s d f).sec = s.sec := rfl
@[simp] theorem modDom_cx (s : State) (d : Nat) (f : Domain → Domain) : (modDom s d f).cx = s.cx := rfl
@[simp] theorem modDom_cc (s : State) (d : Nat) (f : Domain → Domain) : (modDom s d f).cc = s.cc := rfl
@[simp] theorem modDom_mem (s : State) (d : Nat) (f : Domain → Domain) : (modDom s d f).mem = s.mem := rfl
@[simp] theorem modDom_ring (s : State) (d : Nat) (f : Domain → Domain) : (modDom s d f).ring = s.ring := rfl
@[simp] theorem modDom_ob (s : State) (d : Nat) (f : Domain → Domain) : (modDom s d f).ob = s.ob := rfl
@[simp] theorem modDom_num (s : State) (d : Nat) (f : Domain → Domain) : (modDom s d f).num = s.num := rfl
@[simp] theorem modDom_mh (s : State) (d : Nat) (f : Domain → Domain) : (modDom s d f).mh = s.mh := rfl
@[simp] theorem modDom_gal (s : State) (d : Nat) (f : Domain → Domain) : (modDom s d f).gal = s.gal := rfl
@[simp] theorem modDom_tt (s : State) (d : Nat) (f : Domain → Domain) : (modDom s d f).tt = s.tt := rfl
@[simp] theorem modDom_sh (s : State) (d : Nat) (f : Domain → Domain) : (modDom s d f).sh = s.sh := rfl
@[simp] theorem modDom_hp (s : State) (d : Nat) (f : Domain → Domain) : (modDom s d f).hp = s.hp := rfl
@[simp] theorem modDom_rs (s : State) (d : Nat) (f : Domain → Domain) : (modDom s d f).rs = s.rs := rfl
@[simp] theorem modDom_cm (s : State) (d : Nat) (f : Domain → Domain) : (modDom s d f).cm = s.cm := rfl
@[simp] theorem modDom_mc (s : State) (d : Nat) (f : Domain → Domain) : (modDom s d f).mc = s.mc := rfl
@[simp] theorem modDom_ms (s : State) (d : Nat) (f : Domain → Domain) : (modDom s d f).ms = s.ms := rfl

/-! ### setHall -/

@[simp] theorem setHall_mh (s : State) (h : Nat) (x : HallState) :
    (setHall s h x).mh = { s.mh with halls := s.mh.halls.set h x } := rfl
@[simp] theorem setHall_pending (s : State) (h : Nat) (x : HallState) : (setHall s h x).pending = s.pending := rfl
@[simp] theorem setHall_now (s : State) (h : Nat) (x : HallState) : (setHall s h x).now = s.now := rfl
@[simp] theorem setHall_free (s : State) (h : Nat) (x : HallState) : (setHall s h x).free = s.free := rfl
@[simp] theorem setHall_fc (s : State) (h : Nat) (x : HallState) : (setHall s h x).fc = s.fc := rfl
@[simp] theorem setHall_pw (s : State) (h : Nat) (x : HallState) : (setHall s h x).pw = s.pw := rfl
@[simp] theorem setHall_nw (s : State) (h : Nat) (x : HallState) : (setHall s h x).nw = s.nw := rfl
@[simp] theorem setHall_sec (s : State) (h : Nat) (x : HallState) : (setHall s h x).sec = s.sec := rfl
@[simp] theorem setHall_cx (s : State) (h : Nat) (x : HallState) : (setHall s h x).cx = s.cx := rfl
@[simp] theorem setHall_cc (s : State) (h : Nat) (x : HallState) : (setHall s h x).cc = s.cc := rfl
@[simp] theorem setHall_mem (s : State) (h : Nat) (x : HallState) : (setHall s h x).mem = s.mem := rfl
@[simp] theorem setHall_ring (s : State) (h : Nat) (x : HallState) : (setHall s h x).ring = s.ring := rfl
@[simp] theorem setHall_ob (s : State) (h : Nat) (x : HallState) : (setHall s h x).ob = s.ob := rfl
@[simp] theorem setHall_num (s : State) (h : Nat) (x : HallState) : (setHall s h x).num = s.num := rfl
@[simp] theorem setHall_gal (s : State) (h : Nat) (x : HallState) : (setHall s h x).gal = s.gal := rfl
@[simp] theorem setHall_tt (s : State) (h : Nat) (x : HallState) : (setHall s h x).tt = s.tt := rfl
@[simp] theorem setHall_sh (s : State) (h : Nat) (x : HallState) : (setHall s h x).sh = s.sh := rfl
@[simp] theorem setHall_hp (s : State) (h : Nat) (x : HallState) : (setHall s h x).hp = s.hp := rfl
@[simp] theorem setHall_rs (s : State) (h : Nat) (x : HallState) : (setHall s h x).rs = s.rs := rfl
@[simp] theorem setHall_cm (s : State) (h : Nat) (x : HallState) : (setHall s h x).cm = s.cm := rfl
@[simp] theorem setHall_mc (s : State) (h : Nat) (x : HallState) : (setHall s h x).mc = s.mc := rfl
@[simp] theorem setHall_ms (s : State) (h : Nat) (x : HallState) : (setHall s h x).ms = s.ms := rfl

/-! ### setCore -/

@[simp] theorem setCore_sh (s : State) (c : Nat) (x : Core) :
    (setCore s c x).sh = { s.sh with cores := s.sh.cores.set c x } := rfl
@[simp] theorem setCore_pending (s : State) (c : Nat) (x : Core) : (setCore s c x).pending = s.pending := rfl
@[simp] theorem setCore_now (s : State) (c : Nat) (x : Core) : (setCore s c x).now = s.now := rfl
@[simp] theorem setCore_free (s : State) (c : Nat) (x : Core) : (setCore s c x).free = s.free := rfl
@[simp] theorem setCore_fc (s : State) (c : Nat) (x : Core) : (setCore s c x).fc = s.fc := rfl
@[simp] theorem setCore_pw (s : State) (c : Nat) (x : Core) : (setCore s c x).pw = s.pw := rfl
@[simp] theorem setCore_nw (s : State) (c : Nat) (x : Core) : (setCore s c x).nw = s.nw := rfl
@[simp] theorem setCore_sec (s : State) (c : Nat) (x : Core) : (setCore s c x).sec = s.sec := rfl
@[simp] theorem setCore_cx (s : State) (c : Nat) (x : Core) : (setCore s c x).cx = s.cx := rfl
@[simp] theorem setCore_cc (s : State) (c : Nat) (x : Core) : (setCore s c x).cc = s.cc := rfl
@[simp] theorem setCore_mem (s : State) (c : Nat) (x : Core) : (setCore s c x).mem = s.mem := rfl
@[simp] theorem setCore_ring (s : State) (c : Nat) (x : Core) : (setCore s c x).ring = s.ring := rfl
@[simp] theorem setCore_ob (s : State) (c : Nat) (x : Core) : (setCore s c x).ob = s.ob := rfl
@[simp] theorem setCore_num (s : State) (c : Nat) (x : Core) : (setCore s c x).num = s.num := rfl
@[simp] theorem setCore_mh (s : State) (c : Nat) (x : Core) : (setCore s c x).mh = s.mh := rfl
@[simp] theorem setCore_gal (s : State) (c : Nat) (x : Core) : (setCore s c x).gal = s.gal := rfl
@[simp] theorem setCore_tt (s : State) (c : Nat) (x : Core) : (setCore s c x).tt = s.tt := rfl
@[simp] theorem setCore_hp (s : State) (c : Nat) (x : Core) : (setCore s c x).hp = s.hp := rfl
@[simp] theorem setCore_rs (s : State) (c : Nat) (x : Core) : (setCore s c x).rs = s.rs := rfl
@[simp] theorem setCore_cm (s : State) (c : Nat) (x : Core) : (setCore s c x).cm = s.cm := rfl
@[simp] theorem setCore_mc (s : State) (c : Nat) (x : Core) : (setCore s c x).mc = s.mc := rfl
@[simp] theorem setCore_ms (s : State) (c : Nat) (x : Core) : (setCore s c x).ms = s.ms := rfl

/-! ### setBatch -/

@[simp] theorem setBatch_mh (s : State) (b : Nat) (x : Batch) :
    (setBatch s b x).mh = { s.mh with batches := tput s.mh.batches b x } := rfl
@[simp] theorem setBatch_pending (s : State) (b : Nat) (x : Batch) : (setBatch s b x).pending = s.pending := rfl
@[simp] theorem setBatch_now (s : State) (b : Nat) (x : Batch) : (setBatch s b x).now = s.now := rfl
@[simp] theorem setBatch_free (s : State) (b : Nat) (x : Batch) : (setBatch s b x).free = s.free := rfl
@[simp] theorem setBatch_fc (s : State) (b : Nat) (x : Batch) : (setBatch s b x).fc = s.fc := rfl
@[simp] theorem setBatch_pw (s : State) (b : Nat) (x : Batch) : (setBatch s b x).pw = s.pw := rfl
@[simp] theorem setBatch_nw (s : State) (b : Nat) (x : Batch) : (setBatch s b x).nw = s.nw := rfl
@[simp] theorem setBatch_sec (s : State) (b : Nat) (x : Batch) : (setBatch s b x).sec = s.sec := rfl
@[simp] theorem setBatch_cx (s : State) (b : Nat) (x : Batch) : (setBatch s b x).cx = s.cx := rfl
@[simp] theorem setBatch_cc (s : State) (b : Nat) (x : Batch) : (setBatch s b x).cc = s.cc := rfl
@[simp] theorem setBatch_mem (s : State) (b : Nat) (x : Batch) : (setBatch s b x).mem = s.mem := rfl
@[simp] theorem setBatch_ring (s : State) (b : Nat) (x : Batch) : (setBatch s b x).ring = s.ring := rfl
@[simp] theorem setBatch_ob (s : State) (b : Nat) (x : Batch) : (setBatch s b x).ob = s.ob := rfl
@[simp] theorem setBatch_num (s : State) (b : Nat) (x : Batch) : (setBatch s b x).num = s.num := rfl
@[simp] theorem setBatch_gal (s : State) (b : Nat) (x : Batch) : (setBatch s b x).gal = s.gal := rfl
@[simp] theorem setBatch_tt (s : State) (b : Nat) (x : Batch) : (setBatch s b x).tt = s.tt := rfl
@[simp] theorem setBatch_sh (s : State) (b : Nat) (x : Batch) : (setBatch s b x).sh = s.sh := rfl
@[simp] theorem setBatch_hp (s : State) (b : Nat) (x : Batch) : (setBatch s b x).hp = s.hp := rfl
@[simp] theorem setBatch_rs (s : State) (b : Nat) (x : Batch) : (setBatch s b x).rs = s.rs := rfl
@[simp] theorem setBatch_cm (s : State) (b : Nat) (x : Batch) : (setBatch s b x).cm = s.cm := rfl
@[simp] theorem setBatch_mc (s : State) (b : Nat) (x : Batch) : (setBatch s b x).mc = s.mc := rfl
@[simp] theorem setBatch_ms (s : State) (b : Nat) (x : Batch) : (setBatch s b x).ms = s.ms := rfl

/-! ### setLaunch -/

@[simp] theorem setLaunch_sh (s : State) (l : Nat) (x : Launch) :
    (setLaunch s l x).sh = { s.sh with launches := tput s.sh.launches l x } := rfl
@[simp] theorem setLaunch_pending (s : State) (l : Nat) (x : Launch) : (setLaunch s l x).pending = s.pending := rfl
@[simp] theorem setLaunch_now (s : State) (l : Nat) (x : Launch) : (setLaunch s l x).now = s.now := rfl
@[simp] theorem setLaunch_free (s : State) (l : Nat) (x : Launch) : (setLaunch s l x).free = s.free := rfl
@[simp] theorem setLaunch_fc (s : State) (l : Nat) (x : Launch) : (setLaunch s l x).fc = s.fc := rfl
@[simp] theorem setLaunch_pw (s : State) (l : Nat) (x : Launch) : (setLaunch s l x).pw = s.pw := rfl
@[simp] theorem setLaunch_nw (s : State) (l : Nat) (x : Launch) : (setLaunch s l x).nw = s.nw := rfl
@[simp] theorem setLaunch_sec (s : State) (l : Nat) (x : Launch) : (setLaunch s l x).sec = s.sec := rfl
@[simp] theorem setLaunch_cx (s : State) (l : Nat) (x : Launch) : (setLaunch s l x).cx = s.cx := rfl
@[simp] theorem setLaunch_cc (s : State) (l : Nat) (x : Launch) : (setLaunch s l x).cc = s.cc := rfl
@[simp] theorem setLaunch_mem (s : State) (l : Nat) (x : Launch) : (setLaunch s l x).mem = s.mem := rfl
@[simp] theorem setLaunch_ring (s : State) (l : Nat) (x : Launch) : (setLaunch s l x).ring = s.ring := rfl
@[simp] theorem setLaunch_ob (s : State) (l : Nat) (x : Launch) : (setLaunch s l x).ob = s.ob := rfl
@[simp] theorem setLaunch_num (s : State) (l : Nat) (x : Launch) : (setLaunch s l x).num = s.num := rfl
@[simp] theorem setLaunch_mh (s : State) (l : Nat) (x : Launch) : (setLaunch s l x).mh = s.mh := rfl
@[simp] theorem setLaunch_gal (s : State) (l : Nat) (x : Launch) : (setLaunch s l x).gal = s.gal := rfl
@[simp] theorem setLaunch_tt (s : State) (l : Nat) (x : Launch) : (setLaunch s l x).tt = s.tt := rfl
@[simp] theorem setLaunch_hp (s : State) (l : Nat) (x : Launch) : (setLaunch s l x).hp = s.hp := rfl
@[simp] theorem setLaunch_rs (s : State) (l : Nat) (x : Launch) : (setLaunch s l x).rs = s.rs := rfl
@[simp] theorem setLaunch_cm (s : State) (l : Nat) (x : Launch) : (setLaunch s l x).cm = s.cm := rfl
@[simp] theorem setLaunch_mc (s : State) (l : Nat) (x : Launch) : (setLaunch s l x).mc = s.mc := rfl
@[simp] theorem setLaunch_ms (s : State) (l : Nat) (x : Launch) : (setLaunch s l x).ms = s.ms := rfl

/-! ### setRas -/

@[simp] theorem setRas_rs (s : State) (c : Nat) (x : RasCtx) :
    (setRas s c x).rs = { s.rs with ctx := tput s.rs.ctx c x } := rfl
@[simp] theorem setRas_pending (s : State) (c : Nat) (x : RasCtx) : (setRas s c x).pending = s.pending := rfl
@[simp] theorem setRas_now (s : State) (c : Nat) (x : RasCtx) : (setRas s c x).now = s.now := rfl
@[simp] theorem setRas_free (s : State) (c : Nat) (x : RasCtx) : (setRas s c x).free = s.free := rfl
@[simp] theorem setRas_fc (s : State) (c : Nat) (x : RasCtx) : (setRas s c x).fc = s.fc := rfl
@[simp] theorem setRas_pw (s : State) (c : Nat) (x : RasCtx) : (setRas s c x).pw = s.pw := rfl
@[simp] theorem setRas_nw (s : State) (c : Nat) (x : RasCtx) : (setRas s c x).nw = s.nw := rfl
@[simp] theorem setRas_sec (s : State) (c : Nat) (x : RasCtx) : (setRas s c x).sec = s.sec := rfl
@[simp] theorem setRas_cx (s : State) (c : Nat) (x : RasCtx) : (setRas s c x).cx = s.cx := rfl
@[simp] theorem setRas_cc (s : State) (c : Nat) (x : RasCtx) : (setRas s c x).cc = s.cc := rfl
@[simp] theorem setRas_mem (s : State) (c : Nat) (x : RasCtx) : (setRas s c x).mem = s.mem := rfl
@[simp] theorem setRas_ring (s : State) (c : Nat) (x : RasCtx) : (setRas s c x).ring = s.ring := rfl
@[simp] theorem setRas_ob (s : State) (c : Nat) (x : RasCtx) : (setRas s c x).ob = s.ob := rfl
@[simp] theorem setRas_num (s : State) (c : Nat) (x : RasCtx) : (setRas s c x).num = s.num := rfl
@[simp] theorem setRas_mh (s : State) (c : Nat) (x : RasCtx) : (setRas s c x).mh = s.mh := rfl
@[simp] theorem setRas_gal (s : State) (c : Nat) (x : RasCtx) : (setRas s c x).gal = s.gal := rfl
@[simp] theorem setRas_tt (s : State) (c : Nat) (x : RasCtx) : (setRas s c x).tt = s.tt := rfl
@[simp] theorem setRas_sh (s : State) (c : Nat) (x : RasCtx) : (setRas s c x).sh = s.sh := rfl
@[simp] theorem setRas_hp (s : State) (c : Nat) (x : RasCtx) : (setRas s c x).hp = s.hp := rfl
@[simp] theorem setRas_cm (s : State) (c : Nat) (x : RasCtx) : (setRas s c x).cm = s.cm := rfl
@[simp] theorem setRas_mc (s : State) (c : Nat) (x : RasCtx) : (setRas s c x).mc = s.mc := rfl
@[simp] theorem setRas_ms (s : State) (c : Nat) (x : RasCtx) : (setRas s c x).ms = s.ms := rfl

/-! ### modFeed -/

@[simp] theorem modFeed_rs (s : State) (f : Nat) (g : Feed → Feed) :
    (modFeed s f g).rs = { s.rs with feeds := tmod s.rs.feeds f g } := rfl
@[simp] theorem modFeed_pending (s : State) (f : Nat) (g : Feed → Feed) : (modFeed s f g).pending = s.pending := rfl
@[simp] theorem modFeed_now (s : State) (f : Nat) (g : Feed → Feed) : (modFeed s f g).now = s.now := rfl
@[simp] theorem modFeed_free (s : State) (f : Nat) (g : Feed → Feed) : (modFeed s f g).free = s.free := rfl
@[simp] theorem modFeed_fc (s : State) (f : Nat) (g : Feed → Feed) : (modFeed s f g).fc = s.fc := rfl
@[simp] theorem modFeed_pw (s : State) (f : Nat) (g : Feed → Feed) : (modFeed s f g).pw = s.pw := rfl
@[simp] theorem modFeed_nw (s : State) (f : Nat) (g : Feed → Feed) : (modFeed s f g).nw = s.nw := rfl
@[simp] theorem modFeed_sec (s : State) (f : Nat) (g : Feed → Feed) : (modFeed s f g).sec = s.sec := rfl
@[simp] theorem modFeed_cx (s : State) (f : Nat) (g : Feed → Feed) : (modFeed s f g).cx = s.cx := rfl
@[simp] theorem modFeed_cc (s : State) (f : Nat) (g : Feed → Feed) : (modFeed s f g).cc = s.cc := rfl
@[simp] theorem modFeed_mem (s : State) (f : Nat) (g : Feed → Feed) : (modFeed s f g).mem = s.mem := rfl
@[simp] theorem modFeed_ring (s : State) (f : Nat) (g : Feed → Feed) : (modFeed s f g).ring = s.ring := rfl
@[simp] theorem modFeed_ob (s : State) (f : Nat) (g : Feed → Feed) : (modFeed s f g).ob = s.ob := rfl
@[simp] theorem modFeed_num (s : State) (f : Nat) (g : Feed → Feed) : (modFeed s f g).num = s.num := rfl
@[simp] theorem modFeed_mh (s : State) (f : Nat) (g : Feed → Feed) : (modFeed s f g).mh = s.mh := rfl
@[simp] theorem modFeed_gal (s : State) (f : Nat) (g : Feed → Feed) : (modFeed s f g).gal = s.gal := rfl
@[simp] theorem modFeed_tt (s : State) (f : Nat) (g : Feed → Feed) : (modFeed s f g).tt = s.tt := rfl
@[simp] theorem modFeed_sh (s : State) (f : Nat) (g : Feed → Feed) : (modFeed s f g).sh = s.sh := rfl
@[simp] theorem modFeed_hp (s : State) (f : Nat) (g : Feed → Feed) : (modFeed s f g).hp = s.hp := rfl
@[simp] theorem modFeed_cm (s : State) (f : Nat) (g : Feed → Feed) : (modFeed s f g).cm = s.cm := rfl
@[simp] theorem modFeed_mc (s : State) (f : Nat) (g : Feed → Feed) : (modFeed s f g).mc = s.mc := rfl
@[simp] theorem modFeed_ms (s : State) (f : Nat) (g : Feed → Feed) : (modFeed s f g).ms = s.ms := rfl

/-! ### setComp -/

@[simp] theorem setComp_rs (s : State) (k tseq : Nat) (f : Comp → Comp) :
    (setComp s k tseq f).rs = { s.rs with comps := s.rs.comps.map fun c => if c.feed = k ∧ c.tseq = tseq then f c else c } := rfl
@[simp] theorem setComp_pending (s : State) (k tseq : Nat) (f : Comp → Comp) : (setComp s k tseq f).pending = s.pending := rfl
@[simp] theorem setComp_now (s : State) (k tseq : Nat) (f : Comp → Comp) : (setComp s k tseq f).now = s.now := rfl
@[simp] theorem setComp_free (s : State) (k tseq : Nat) (f : Comp → Comp) : (setComp s k tseq f).free = s.free := rfl
@[simp] theorem setComp_fc (s : State) (k tseq : Nat) (f : Comp → Comp) : (setComp s k tseq f).fc = s.fc := rfl
@[simp] theorem setComp_pw (s : State) (k tseq : Nat) (f : Comp → Comp) : (setComp s k tseq f).pw = s.pw := rfl
@[simp] theorem setComp_nw (s : State) (k tseq : Nat) (f : Comp → Comp) : (setComp s k tseq f).nw = s.nw := rfl
@[simp] theorem setComp_sec (s : State) (k tseq : Nat) (f : Comp → Comp) : (setComp s k tseq f).sec = s.sec := rfl
@[simp] theorem setComp_cx (s : State) (k tseq : Nat) (f : Comp → Comp) : (setComp s k tseq f).cx = s.cx := rfl
@[simp] theorem setComp_cc (s : State) (k tseq : Nat) (f : Comp → Comp) : (setComp s k tseq f).cc = s.cc := rfl
@[simp] theorem setComp_mem (s : State) (k tseq : Nat) (f : Comp → Comp) : (setComp s k tseq f).mem = s.mem := rfl
@[simp] theorem setComp_ring (s : State) (k tseq : Nat) (f : Comp → Comp) : (setComp s k tseq f).ring = s.ring := rfl
@[simp] theorem setComp_ob (s : State) (k tseq : Nat) (f : Comp → Comp) : (setComp s k tseq f).ob = s.ob := rfl
@[simp] theorem setComp_num (s : State) (k tseq : Nat) (f : Comp → Comp) : (setComp s k tseq f).num = s.num := rfl
@[simp] theorem setComp_mh (s : State) (k tseq : Nat) (f : Comp → Comp) : (setComp s k tseq f).mh = s.mh := rfl
@[simp] theorem setComp_gal (s : State) (k tseq : Nat) (f : Comp → Comp) : (setComp s k tseq f).gal = s.gal := rfl
@[simp] theorem setComp_tt (s : State) (k tseq : Nat) (f : Comp → Comp) : (setComp s k tseq f).tt = s.tt := rfl
@[simp] theorem setComp_sh (s : State) (k tseq : Nat) (f : Comp → Comp) : (setComp s k tseq f).sh = s.sh := rfl
@[simp] theorem setComp_hp (s : State) (k tseq : Nat) (f : Comp → Comp) : (setComp s k tseq f).hp = s.hp := rfl
@[simp] theorem setComp_cm (s : State) (k tseq : Nat) (f : Comp → Comp) : (setComp s k tseq f).cm = s.cm := rfl
@[simp] theorem setComp_mc (s : State) (k tseq : Nat) (f : Comp → Comp) : (setComp s k tseq f).mc = s.mc := rfl
@[simp] theorem setComp_ms (s : State) (k tseq : Nat) (f : Comp → Comp) : (setComp s k tseq f).ms = s.ms := rfl

/-! ### modFeedCode -/

@[simp] theorem modFeedCode_cm (s : State) (k : Nat) (f : FeedCode → FeedCode) :
    (modFeedCode s k f).cm = { s.cm with feeds := tmod s.cm.feeds k f } := rfl
@[simp] theorem modFeedCode_pending (s : State) (k : Nat) (f : FeedCode → FeedCode) : (modFeedCode s k f).pending = s.pending := rfl
@[simp] theorem modFeedCode_now (s : State) (k : Nat) (f : FeedCode → FeedCode) : (modFeedCode s k f).now = s.now := rfl
@[simp] theorem modFeedCode_free (s : State) (k : Nat) (f : FeedCode → FeedCode) : (modFeedCode s k f).free = s.free := rfl
@[simp] theorem modFeedCode_fc (s : State) (k : Nat) (f : FeedCode → FeedCode) : (modFeedCode s k f).fc = s.fc := rfl
@[simp] theorem modFeedCode_pw (s : State) (k : Nat) (f : FeedCode → FeedCode) : (modFeedCode s k f).pw = s.pw := rfl
@[simp] theorem modFeedCode_nw (s : State) (k : Nat) (f : FeedCode → FeedCode) : (modFeedCode s k f).nw = s.nw := rfl
@[simp] theorem modFeedCode_sec (s : State) (k : Nat) (f : FeedCode → FeedCode) : (modFeedCode s k f).sec = s.sec := rfl
@[simp] theorem modFeedCode_cx (s : State) (k : Nat) (f : FeedCode → FeedCode) : (modFeedCode s k f).cx = s.cx := rfl
@[simp] theorem modFeedCode_cc (s : State) (k : Nat) (f : FeedCode → FeedCode) : (modFeedCode s k f).cc = s.cc := rfl
@[simp] theorem modFeedCode_mem (s : State) (k : Nat) (f : FeedCode → FeedCode) : (modFeedCode s k f).mem = s.mem := rfl
@[simp] theorem modFeedCode_ring (s : State) (k : Nat) (f : FeedCode → FeedCode) : (modFeedCode s k f).ring = s.ring := rfl
@[simp] theorem modFeedCode_ob (s : State) (k : Nat) (f : FeedCode → FeedCode) : (modFeedCode s k f).ob = s.ob := rfl
@[simp] theorem modFeedCode_num (s : State) (k : Nat) (f : FeedCode → FeedCode) : (modFeedCode s k f).num = s.num := rfl
@[simp] theorem modFeedCode_mh (s : State) (k : Nat) (f : FeedCode → FeedCode) : (modFeedCode s k f).mh = s.mh := rfl
@[simp] theorem modFeedCode_gal (s : State) (k : Nat) (f : FeedCode → FeedCode) : (modFeedCode s k f).gal = s.gal := rfl
@[simp] theorem modFeedCode_tt (s : State) (k : Nat) (f : FeedCode → FeedCode) : (modFeedCode s k f).tt = s.tt := rfl
@[simp] theorem modFeedCode_sh (s : State) (k : Nat) (f : FeedCode → FeedCode) : (modFeedCode s k f).sh = s.sh := rfl
@[simp] theorem modFeedCode_hp (s : State) (k : Nat) (f : FeedCode → FeedCode) : (modFeedCode s k f).hp = s.hp := rfl
@[simp] theorem modFeedCode_rs (s : State) (k : Nat) (f : FeedCode → FeedCode) : (modFeedCode s k f).rs = s.rs := rfl
@[simp] theorem modFeedCode_mc (s : State) (k : Nat) (f : FeedCode → FeedCode) : (modFeedCode s k f).mc = s.mc := rfl
@[simp] theorem modFeedCode_ms (s : State) (k : Nat) (f : FeedCode → FeedCode) : (modFeedCode s k f).ms = s.ms := rfl

/-! ### setCmpSlot -/

@[simp] theorem setCmpSlot_cm (s : State) (k : Nat) (x : CmpSlot) :
    (setCmpSlot s k x).cm = { s.cm with slots := tput s.cm.slots k x } := rfl
@[simp] theorem setCmpSlot_pending (s : State) (k : Nat) (x : CmpSlot) : (setCmpSlot s k x).pending = s.pending := rfl
@[simp] theorem setCmpSlot_now (s : State) (k : Nat) (x : CmpSlot) : (setCmpSlot s k x).now = s.now := rfl
@[simp] theorem setCmpSlot_free (s : State) (k : Nat) (x : CmpSlot) : (setCmpSlot s k x).free = s.free := rfl
@[simp] theorem setCmpSlot_fc (s : State) (k : Nat) (x : CmpSlot) : (setCmpSlot s k x).fc = s.fc := rfl
@[simp] theorem setCmpSlot_pw (s : State) (k : Nat) (x : CmpSlot) : (setCmpSlot s k x).pw = s.pw := rfl
@[simp] theorem setCmpSlot_nw (s : State) (k : Nat) (x : CmpSlot) : (setCmpSlot s k x).nw = s.nw := rfl
@[simp] theorem setCmpSlot_sec (s : State) (k : Nat) (x : CmpSlot) : (setCmpSlot s k x).sec = s.sec := rfl
@[simp] theorem setCmpSlot_cx (s : State) (k : Nat) (x : CmpSlot) : (setCmpSlot s k x).cx = s.cx := rfl
@[simp] theorem setCmpSlot_cc (s : State) (k : Nat) (x : CmpSlot) : (setCmpSlot s k x).cc = s.cc := rfl
@[simp] theorem setCmpSlot_mem (s : State) (k : Nat) (x : CmpSlot) : (setCmpSlot s k x).mem = s.mem := rfl
@[simp] theorem setCmpSlot_ring (s : State) (k : Nat) (x : CmpSlot) : (setCmpSlot s k x).ring = s.ring := rfl
@[simp] theorem setCmpSlot_ob (s : State) (k : Nat) (x : CmpSlot) : (setCmpSlot s k x).ob = s.ob := rfl
@[simp] theorem setCmpSlot_num (s : State) (k : Nat) (x : CmpSlot) : (setCmpSlot s k x).num = s.num := rfl
@[simp] theorem setCmpSlot_mh (s : State) (k : Nat) (x : CmpSlot) : (setCmpSlot s k x).mh = s.mh := rfl
@[simp] theorem setCmpSlot_gal (s : State) (k : Nat) (x : CmpSlot) : (setCmpSlot s k x).gal = s.gal := rfl
@[simp] theorem setCmpSlot_tt (s : State) (k : Nat) (x : CmpSlot) : (setCmpSlot s k x).tt = s.tt := rfl
@[simp] theorem setCmpSlot_sh (s : State) (k : Nat) (x : CmpSlot) : (setCmpSlot s k x).sh = s.sh := rfl
@[simp] theorem setCmpSlot_hp (s : State) (k : Nat) (x : CmpSlot) : (setCmpSlot s k x).hp = s.hp := rfl
@[simp] theorem setCmpSlot_rs (s : State) (k : Nat) (x : CmpSlot) : (setCmpSlot s k x).rs = s.rs := rfl
@[simp] theorem setCmpSlot_mc (s : State) (k : Nat) (x : CmpSlot) : (setCmpSlot s k x).mc = s.mc := rfl
@[simp] theorem setCmpSlot_ms (s : State) (k : Nat) (x : CmpSlot) : (setCmpSlot s k x).ms = s.ms := rfl

/-! ### setJob -/

@[simp] theorem setJob_cm (s : State) (ref : CmdRef) (f : Job → Job) :
    (setJob s ref f).cm = { s.cm with jobs := s.cm.jobs.map fun j => if j.ref = ref then f j else j } := rfl
@[simp] theorem setJob_pending (s : State) (ref : CmdRef) (f : Job → Job) : (setJob s ref f).pending = s.pending := rfl
@[simp] theorem setJob_now (s : State) (ref : CmdRef) (f : Job → Job) : (setJob s ref f).now = s.now := rfl
@[simp] theorem setJob_free (s : State) (ref : CmdRef) (f : Job → Job) : (setJob s ref f).free = s.free := rfl
@[simp] theorem setJob_fc (s : State) (ref : CmdRef) (f : Job → Job) : (setJob s ref f).fc = s.fc := rfl
@[simp] theorem setJob_pw (s : State) (ref : CmdRef) (f : Job → Job) : (setJob s ref f).pw = s.pw := rfl
@[simp] theorem setJob_nw (s : State) (ref : CmdRef) (f : Job → Job) : (setJob s ref f).nw = s.nw := rfl
@[simp] theorem setJob_sec (s : State) (ref : CmdRef) (f : Job → Job) : (setJob s ref f).sec = s.sec := rfl
@[simp] theorem setJob_cx (s : State) (ref : CmdRef) (f : Job → Job) : (setJob s ref f).cx = s.cx := rfl
@[simp] theorem setJob_cc (s : State) (ref : CmdRef) (f : Job → Job) : (setJob s ref f).cc = s.cc := rfl
@[simp] theorem setJob_mem (s : State) (ref : CmdRef) (f : Job → Job) : (setJob s ref f).mem = s.mem := rfl
@[simp] theorem setJob_ring (s : State) (ref : CmdRef) (f : Job → Job) : (setJob s ref f).ring = s.ring := rfl
@[simp] theorem setJob_ob (s : State) (ref : CmdRef) (f : Job → Job) : (setJob s ref f).ob = s.ob := rfl
@[simp] theorem setJob_num (s : State) (ref : CmdRef) (f : Job → Job) : (setJob s ref f).num = s.num := rfl
@[simp] theorem setJob_mh (s : State) (ref : CmdRef) (f : Job → Job) : (setJob s ref f).mh = s.mh := rfl
@[simp] theorem setJob_gal (s : State) (ref : CmdRef) (f : Job → Job) : (setJob s ref f).gal = s.gal := rfl
@[simp] theorem setJob_tt (s : State) (ref : CmdRef) (f : Job → Job) : (setJob s ref f).tt = s.tt := rfl
@[simp] theorem setJob_sh (s : State) (ref : CmdRef) (f : Job → Job) : (setJob s ref f).sh = s.sh := rfl
@[simp] theorem setJob_hp (s : State) (ref : CmdRef) (f : Job → Job) : (setJob s ref f).hp = s.hp := rfl
@[simp] theorem setJob_rs (s : State) (ref : CmdRef) (f : Job → Job) : (setJob s ref f).rs = s.rs := rfl
@[simp] theorem setJob_mc (s : State) (ref : CmdRef) (f : Job → Job) : (setJob s ref f).mc = s.mc := rfl
@[simp] theorem setJob_ms (s : State) (ref : CmdRef) (f : Job → Job) : (setJob s ref f).ms = s.ms := rfl

/-! ### modStream -/

@[simp] theorem modStream_hp (s : State) (st : Nat) (f : Stream → Stream) :
    (modStream s st f).hp = { s.hp with streams := upd s.hp.streams st f } := rfl
@[simp] theorem modStream_pending (s : State) (st : Nat) (f : Stream → Stream) : (modStream s st f).pending = s.pending := rfl
@[simp] theorem modStream_now (s : State) (st : Nat) (f : Stream → Stream) : (modStream s st f).now = s.now := rfl
@[simp] theorem modStream_free (s : State) (st : Nat) (f : Stream → Stream) : (modStream s st f).free = s.free := rfl
@[simp] theorem modStream_fc (s : State) (st : Nat) (f : Stream → Stream) : (modStream s st f).fc = s.fc := rfl
@[simp] theorem modStream_pw (s : State) (st : Nat) (f : Stream → Stream) : (modStream s st f).pw = s.pw := rfl
@[simp] theorem modStream_nw (s : State) (st : Nat) (f : Stream → Stream) : (modStream s st f).nw = s.nw := rfl
@[simp] theorem modStream_sec (s : State) (st : Nat) (f : Stream → Stream) : (modStream s st f).sec = s.sec := rfl
@[simp] theorem modStream_cx (s : State) (st : Nat) (f : Stream → Stream) : (modStream s st f).cx = s.cx := rfl
@[simp] theorem modStream_cc (s : State) (st : Nat) (f : Stream → Stream) : (modStream s st f).cc = s.cc := rfl
@[simp] theorem modStream_mem (s : State) (st : Nat) (f : Stream → Stream) : (modStream s st f).mem = s.mem := rfl
@[simp] theorem modStream_ring (s : State) (st : Nat) (f : Stream → Stream) : (modStream s st f).ring = s.ring := rfl
@[simp] theorem modStream_ob (s : State) (st : Nat) (f : Stream → Stream) : (modStream s st f).ob = s.ob := rfl
@[simp] theorem modStream_num (s : State) (st : Nat) (f : Stream → Stream) : (modStream s st f).num = s.num := rfl
@[simp] theorem modStream_mh (s : State) (st : Nat) (f : Stream → Stream) : (modStream s st f).mh = s.mh := rfl
@[simp] theorem modStream_gal (s : State) (st : Nat) (f : Stream → Stream) : (modStream s st f).gal = s.gal := rfl
@[simp] theorem modStream_tt (s : State) (st : Nat) (f : Stream → Stream) : (modStream s st f).tt = s.tt := rfl
@[simp] theorem modStream_sh (s : State) (st : Nat) (f : Stream → Stream) : (modStream s st f).sh = s.sh := rfl
@[simp] theorem modStream_rs (s : State) (st : Nat) (f : Stream → Stream) : (modStream s st f).rs = s.rs := rfl
@[simp] theorem modStream_cm (s : State) (st : Nat) (f : Stream → Stream) : (modStream s st f).cm = s.cm := rfl
@[simp] theorem modStream_mc (s : State) (st : Nat) (f : Stream → Stream) : (modStream s st f).mc = s.mc := rfl
@[simp] theorem modStream_ms (s : State) (st : Nat) (f : Stream → Stream) : (modStream s st f).ms = s.ms := rfl

/-! ### setTiles -/

@[simp] theorem setTiles_hp (s : State) (f : Tile → Tile) :
    (setTiles s f).hp = { s.hp with tiles := s.hp.tiles.map f } := rfl
@[simp] theorem setTiles_pending (s : State) (f : Tile → Tile) : (setTiles s f).pending = s.pending := rfl
@[simp] theorem setTiles_now (s : State) (f : Tile → Tile) : (setTiles s f).now = s.now := rfl
@[simp] theorem setTiles_free (s : State) (f : Tile → Tile) : (setTiles s f).free = s.free := rfl
@[simp] theorem setTiles_fc (s : State) (f : Tile → Tile) : (setTiles s f).fc = s.fc := rfl
@[simp] theorem setTiles_pw (s : State) (f : Tile → Tile) : (setTiles s f).pw = s.pw := rfl
@[simp] theorem setTiles_nw (s : State) (f : Tile → Tile) : (setTiles s f).nw = s.nw := rfl
@[simp] theorem setTiles_sec (s : State) (f : Tile → Tile) : (setTiles s f).sec = s.sec := rfl
@[simp] theorem setTiles_cx (s : State) (f : Tile → Tile) : (setTiles s f).cx = s.cx := rfl
@[simp] theorem setTiles_cc (s : State) (f : Tile → Tile) : (setTiles s f).cc = s.cc := rfl
@[simp] theorem setTiles_mem (s : State) (f : Tile → Tile) : (setTiles s f).mem = s.mem := rfl
@[simp] theorem setTiles_ring (s : State) (f : Tile → Tile) : (setTiles s f).ring = s.ring := rfl
@[simp] theorem setTiles_ob (s : State) (f : Tile → Tile) : (setTiles s f).ob = s.ob := rfl
@[simp] theorem setTiles_num (s : State) (f : Tile → Tile) : (setTiles s f).num = s.num := rfl
@[simp] theorem setTiles_mh (s : State) (f : Tile → Tile) : (setTiles s f).mh = s.mh := rfl
@[simp] theorem setTiles_gal (s : State) (f : Tile → Tile) : (setTiles s f).gal = s.gal := rfl
@[simp] theorem setTiles_tt (s : State) (f : Tile → Tile) : (setTiles s f).tt = s.tt := rfl
@[simp] theorem setTiles_sh (s : State) (f : Tile → Tile) : (setTiles s f).sh = s.sh := rfl
@[simp] theorem setTiles_rs (s : State) (f : Tile → Tile) : (setTiles s f).rs = s.rs := rfl
@[simp] theorem setTiles_cm (s : State) (f : Tile → Tile) : (setTiles s f).cm = s.cm := rfl
@[simp] theorem setTiles_mc (s : State) (f : Tile → Tile) : (setTiles s f).mc = s.mc := rfl
@[simp] theorem setTiles_ms (s : State) (f : Tile → Tile) : (setTiles s f).ms = s.ms := rfl

/-! ### modAxis -/

@[simp] theorem modAxis_mc (s : State) (i : Nat) (f : Axis → Axis) :
    (modAxis s i f).mc = { s.mc with axes := upd s.mc.axes i f } := rfl
@[simp] theorem modAxis_pending (s : State) (i : Nat) (f : Axis → Axis) : (modAxis s i f).pending = s.pending := rfl
@[simp] theorem modAxis_now (s : State) (i : Nat) (f : Axis → Axis) : (modAxis s i f).now = s.now := rfl
@[simp] theorem modAxis_free (s : State) (i : Nat) (f : Axis → Axis) : (modAxis s i f).free = s.free := rfl
@[simp] theorem modAxis_fc (s : State) (i : Nat) (f : Axis → Axis) : (modAxis s i f).fc = s.fc := rfl
@[simp] theorem modAxis_pw (s : State) (i : Nat) (f : Axis → Axis) : (modAxis s i f).pw = s.pw := rfl
@[simp] theorem modAxis_nw (s : State) (i : Nat) (f : Axis → Axis) : (modAxis s i f).nw = s.nw := rfl
@[simp] theorem modAxis_sec (s : State) (i : Nat) (f : Axis → Axis) : (modAxis s i f).sec = s.sec := rfl
@[simp] theorem modAxis_cx (s : State) (i : Nat) (f : Axis → Axis) : (modAxis s i f).cx = s.cx := rfl
@[simp] theorem modAxis_cc (s : State) (i : Nat) (f : Axis → Axis) : (modAxis s i f).cc = s.cc := rfl
@[simp] theorem modAxis_mem (s : State) (i : Nat) (f : Axis → Axis) : (modAxis s i f).mem = s.mem := rfl
@[simp] theorem modAxis_ring (s : State) (i : Nat) (f : Axis → Axis) : (modAxis s i f).ring = s.ring := rfl
@[simp] theorem modAxis_ob (s : State) (i : Nat) (f : Axis → Axis) : (modAxis s i f).ob = s.ob := rfl
@[simp] theorem modAxis_num (s : State) (i : Nat) (f : Axis → Axis) : (modAxis s i f).num = s.num := rfl
@[simp] theorem modAxis_mh (s : State) (i : Nat) (f : Axis → Axis) : (modAxis s i f).mh = s.mh := rfl
@[simp] theorem modAxis_gal (s : State) (i : Nat) (f : Axis → Axis) : (modAxis s i f).gal = s.gal := rfl
@[simp] theorem modAxis_tt (s : State) (i : Nat) (f : Axis → Axis) : (modAxis s i f).tt = s.tt := rfl
@[simp] theorem modAxis_sh (s : State) (i : Nat) (f : Axis → Axis) : (modAxis s i f).sh = s.sh := rfl
@[simp] theorem modAxis_hp (s : State) (i : Nat) (f : Axis → Axis) : (modAxis s i f).hp = s.hp := rfl
@[simp] theorem modAxis_rs (s : State) (i : Nat) (f : Axis → Axis) : (modAxis s i f).rs = s.rs := rfl
@[simp] theorem modAxis_cm (s : State) (i : Nat) (f : Axis → Axis) : (modAxis s i f).cm = s.cm := rfl
@[simp] theorem modAxis_ms (s : State) (i : Nat) (f : Axis → Axis) : (modAxis s i f).ms = s.ms := rfl

/-! ### modHeater -/

@[simp] theorem modHeater_mc (s : State) (c : Nat) (f : Heater → Heater) :
    (modHeater s c f).mc = { s.mc with heaters := upd s.mc.heaters c f } := rfl
@[simp] theorem modHeater_pending (s : State) (c : Nat) (f : Heater → Heater) : (modHeater s c f).pending = s.pending := rfl
@[simp] theorem modHeater_now (s : State) (c : Nat) (f : Heater → Heater) : (modHeater s c f).now = s.now := rfl
@[simp] theorem modHeater_free (s : State) (c : Nat) (f : Heater → Heater) : (modHeater s c f).free = s.free := rfl
@[simp] theorem modHeater_fc (s : State) (c : Nat) (f : Heater → Heater) : (modHeater s c f).fc = s.fc := rfl
@[simp] theorem modHeater_pw (s : State) (c : Nat) (f : Heater → Heater) : (modHeater s c f).pw = s.pw := rfl
@[simp] theorem modHeater_nw (s : State) (c : Nat) (f : Heater → Heater) : (modHeater s c f).nw = s.nw := rfl
@[simp] theorem modHeater_sec (s : State) (c : Nat) (f : Heater → Heater) : (modHeater s c f).sec = s.sec := rfl
@[simp] theorem modHeater_cx (s : State) (c : Nat) (f : Heater → Heater) : (modHeater s c f).cx = s.cx := rfl
@[simp] theorem modHeater_cc (s : State) (c : Nat) (f : Heater → Heater) : (modHeater s c f).cc = s.cc := rfl
@[simp] theorem modHeater_mem (s : State) (c : Nat) (f : Heater → Heater) : (modHeater s c f).mem = s.mem := rfl
@[simp] theorem modHeater_ring (s : State) (c : Nat) (f : Heater → Heater) : (modHeater s c f).ring = s.ring := rfl
@[simp] theorem modHeater_ob (s : State) (c : Nat) (f : Heater → Heater) : (modHeater s c f).ob = s.ob := rfl
@[simp] theorem modHeater_num (s : State) (c : Nat) (f : Heater → Heater) : (modHeater s c f).num = s.num := rfl
@[simp] theorem modHeater_mh (s : State) (c : Nat) (f : Heater → Heater) : (modHeater s c f).mh = s.mh := rfl
@[simp] theorem modHeater_gal (s : State) (c : Nat) (f : Heater → Heater) : (modHeater s c f).gal = s.gal := rfl
@[simp] theorem modHeater_tt (s : State) (c : Nat) (f : Heater → Heater) : (modHeater s c f).tt = s.tt := rfl
@[simp] theorem modHeater_sh (s : State) (c : Nat) (f : Heater → Heater) : (modHeater s c f).sh = s.sh := rfl
@[simp] theorem modHeater_hp (s : State) (c : Nat) (f : Heater → Heater) : (modHeater s c f).hp = s.hp := rfl
@[simp] theorem modHeater_rs (s : State) (c : Nat) (f : Heater → Heater) : (modHeater s c f).rs = s.rs := rfl
@[simp] theorem modHeater_cm (s : State) (c : Nat) (f : Heater → Heater) : (modHeater s c f).cm = s.cm := rfl
@[simp] theorem modHeater_ms (s : State) (c : Nat) (f : Heater → Heater) : (modHeater s c f).ms = s.ms := rfl

/-! ### modPort -/

@[simp] theorem modPort_ring (s : State) (p : Nat) (f : Port → Port) :
    (modPort s p f).ring = { s.ring with ports := upd s.ring.ports p f } := rfl
@[simp] theorem modPort_pending (s : State) (p : Nat) (f : Port → Port) : (modPort s p f).pending = s.pending := rfl
@[simp] theorem modPort_now (s : State) (p : Nat) (f : Port → Port) : (modPort s p f).now = s.now := rfl
@[simp] theorem modPort_free (s : State) (p : Nat) (f : Port → Port) : (modPort s p f).free = s.free := rfl
@[simp] theorem modPort_fc (s : State) (p : Nat) (f : Port → Port) : (modPort s p f).fc = s.fc := rfl
@[simp] theorem modPort_pw (s : State) (p : Nat) (f : Port → Port) : (modPort s p f).pw = s.pw := rfl
@[simp] theorem modPort_nw (s : State) (p : Nat) (f : Port → Port) : (modPort s p f).nw = s.nw := rfl
@[simp] theorem modPort_sec (s : State) (p : Nat) (f : Port → Port) : (modPort s p f).sec = s.sec := rfl
@[simp] theorem modPort_cx (s : State) (p : Nat) (f : Port → Port) : (modPort s p f).cx = s.cx := rfl
@[simp] theorem modPort_cc (s : State) (p : Nat) (f : Port → Port) : (modPort s p f).cc = s.cc := rfl
@[simp] theorem modPort_mem (s : State) (p : Nat) (f : Port → Port) : (modPort s p f).mem = s.mem := rfl
@[simp] theorem modPort_ob (s : State) (p : Nat) (f : Port → Port) : (modPort s p f).ob = s.ob := rfl
@[simp] theorem modPort_num (s : State) (p : Nat) (f : Port → Port) : (modPort s p f).num = s.num := rfl
@[simp] theorem modPort_mh (s : State) (p : Nat) (f : Port → Port) : (modPort s p f).mh = s.mh := rfl
@[simp] theorem modPort_gal (s : State) (p : Nat) (f : Port → Port) : (modPort s p f).gal = s.gal := rfl
@[simp] theorem modPort_tt (s : State) (p : Nat) (f : Port → Port) : (modPort s p f).tt = s.tt := rfl
@[simp] theorem modPort_sh (s : State) (p : Nat) (f : Port → Port) : (modPort s p f).sh = s.sh := rfl
@[simp] theorem modPort_hp (s : State) (p : Nat) (f : Port → Port) : (modPort s p f).hp = s.hp := rfl
@[simp] theorem modPort_rs (s : State) (p : Nat) (f : Port → Port) : (modPort s p f).rs = s.rs := rfl
@[simp] theorem modPort_cm (s : State) (p : Nat) (f : Port → Port) : (modPort s p f).cm = s.cm := rfl
@[simp] theorem modPort_mc (s : State) (p : Nat) (f : Port → Port) : (modPort s p f).mc = s.mc := rfl
@[simp] theorem modPort_ms (s : State) (p : Nat) (f : Port → Port) : (modPort s p f).ms = s.ms := rfl

/-! ### modTs -/

@[simp] theorem modTs_ring (s : State) (k : Nat) (f : TSess → TSess) :
    (modTs s k f).ring = { s.ring with ts := tmod s.ring.ts k f } := rfl
@[simp] theorem modTs_pending (s : State) (k : Nat) (f : TSess → TSess) : (modTs s k f).pending = s.pending := rfl
@[simp] theorem modTs_now (s : State) (k : Nat) (f : TSess → TSess) : (modTs s k f).now = s.now := rfl
@[simp] theorem modTs_free (s : State) (k : Nat) (f : TSess → TSess) : (modTs s k f).free = s.free := rfl
@[simp] theorem modTs_fc (s : State) (k : Nat) (f : TSess → TSess) : (modTs s k f).fc = s.fc := rfl
@[simp] theorem modTs_pw (s : State) (k : Nat) (f : TSess → TSess) : (modTs s k f).pw = s.pw := rfl
@[simp] theorem modTs_nw (s : State) (k : Nat) (f : TSess → TSess) : (modTs s k f).nw = s.nw := rfl
@[simp] theorem modTs_sec (s : State) (k : Nat) (f : TSess → TSess) : (modTs s k f).sec = s.sec := rfl
@[simp] theorem modTs_cx (s : State) (k : Nat) (f : TSess → TSess) : (modTs s k f).cx = s.cx := rfl
@[simp] theorem modTs_cc (s : State) (k : Nat) (f : TSess → TSess) : (modTs s k f).cc = s.cc := rfl
@[simp] theorem modTs_mem (s : State) (k : Nat) (f : TSess → TSess) : (modTs s k f).mem = s.mem := rfl
@[simp] theorem modTs_ob (s : State) (k : Nat) (f : TSess → TSess) : (modTs s k f).ob = s.ob := rfl
@[simp] theorem modTs_num (s : State) (k : Nat) (f : TSess → TSess) : (modTs s k f).num = s.num := rfl
@[simp] theorem modTs_mh (s : State) (k : Nat) (f : TSess → TSess) : (modTs s k f).mh = s.mh := rfl
@[simp] theorem modTs_gal (s : State) (k : Nat) (f : TSess → TSess) : (modTs s k f).gal = s.gal := rfl
@[simp] theorem modTs_tt (s : State) (k : Nat) (f : TSess → TSess) : (modTs s k f).tt = s.tt := rfl
@[simp] theorem modTs_sh (s : State) (k : Nat) (f : TSess → TSess) : (modTs s k f).sh = s.sh := rfl
@[simp] theorem modTs_hp (s : State) (k : Nat) (f : TSess → TSess) : (modTs s k f).hp = s.hp := rfl
@[simp] theorem modTs_rs (s : State) (k : Nat) (f : TSess → TSess) : (modTs s k f).rs = s.rs := rfl
@[simp] theorem modTs_cm (s : State) (k : Nat) (f : TSess → TSess) : (modTs s k f).cm = s.cm := rfl
@[simp] theorem modTs_mc (s : State) (k : Nat) (f : TSess → TSess) : (modTs s k f).mc = s.mc := rfl
@[simp] theorem modTs_ms (s : State) (k : Nat) (f : TSess → TSess) : (modTs s k f).ms = s.ms := rfl

/-! ### modChannel -/

@[simp] theorem modChannel_mem (s : State) (c : Nat) (f : Channel → Channel) :
    (modChannel s c f).mem = { s.mem with chans := tput s.mem.chans c (f (channelOf s c)) } := rfl
@[simp] theorem modChannel_pending (s : State) (c : Nat) (f : Channel → Channel) : (modChannel s c f).pending = s.pending := rfl
@[simp] theorem modChannel_now (s : State) (c : Nat) (f : Channel → Channel) : (modChannel s c f).now = s.now := rfl
@[simp] theorem modChannel_free (s : State) (c : Nat) (f : Channel → Channel) : (modChannel s c f).free = s.free := rfl
@[simp] theorem modChannel_fc (s : State) (c : Nat) (f : Channel → Channel) : (modChannel s c f).fc = s.fc := rfl
@[simp] theorem modChannel_pw (s : State) (c : Nat) (f : Channel → Channel) : (modChannel s c f).pw = s.pw := rfl
@[simp] theorem modChannel_nw (s : State) (c : Nat) (f : Channel → Channel) : (modChannel s c f).nw = s.nw := rfl
@[simp] theorem modChannel_sec (s : State) (c : Nat) (f : Channel → Channel) : (modChannel s c f).sec = s.sec := rfl
@[simp] theorem modChannel_cx (s : State) (c : Nat) (f : Channel → Channel) : (modChannel s c f).cx = s.cx := rfl
@[simp] theorem modChannel_cc (s : State) (c : Nat) (f : Channel → Channel) : (modChannel s c f).cc = s.cc := rfl
@[simp] theorem modChannel_ring (s : State) (c : Nat) (f : Channel → Channel) : (modChannel s c f).ring = s.ring := rfl
@[simp] theorem modChannel_ob (s : State) (c : Nat) (f : Channel → Channel) : (modChannel s c f).ob = s.ob := rfl
@[simp] theorem modChannel_num (s : State) (c : Nat) (f : Channel → Channel) : (modChannel s c f).num = s.num := rfl
@[simp] theorem modChannel_mh (s : State) (c : Nat) (f : Channel → Channel) : (modChannel s c f).mh = s.mh := rfl
@[simp] theorem modChannel_gal (s : State) (c : Nat) (f : Channel → Channel) : (modChannel s c f).gal = s.gal := rfl
@[simp] theorem modChannel_tt (s : State) (c : Nat) (f : Channel → Channel) : (modChannel s c f).tt = s.tt := rfl
@[simp] theorem modChannel_sh (s : State) (c : Nat) (f : Channel → Channel) : (modChannel s c f).sh = s.sh := rfl
@[simp] theorem modChannel_hp (s : State) (c : Nat) (f : Channel → Channel) : (modChannel s c f).hp = s.hp := rfl
@[simp] theorem modChannel_rs (s : State) (c : Nat) (f : Channel → Channel) : (modChannel s c f).rs = s.rs := rfl
@[simp] theorem modChannel_cm (s : State) (c : Nat) (f : Channel → Channel) : (modChannel s c f).cm = s.cm := rfl
@[simp] theorem modChannel_mc (s : State) (c : Nat) (f : Channel → Channel) : (modChannel s c f).mc = s.mc := rfl
@[simp] theorem modChannel_ms (s : State) (c : Nat) (f : Channel → Channel) : (modChannel s c f).ms = s.ms := rfl

/-! ### setFlight -/

@[simp] theorem setFlight_nw (s : State) (f g : Flight) :
    (setFlight s f g).nw = { s.nw with flights := s.nw.flights.map fun x => if x = f then g else x } := rfl
@[simp] theorem setFlight_pending (s : State) (f g : Flight) : (setFlight s f g).pending = s.pending := rfl
@[simp] theorem setFlight_now (s : State) (f g : Flight) : (setFlight s f g).now = s.now := rfl
@[simp] theorem setFlight_free (s : State) (f g : Flight) : (setFlight s f g).free = s.free := rfl
@[simp] theorem setFlight_fc (s : State) (f g : Flight) : (setFlight s f g).fc = s.fc := rfl
@[simp] theorem setFlight_pw (s : State) (f g : Flight) : (setFlight s f g).pw = s.pw := rfl
@[simp] theorem setFlight_sec (s : State) (f g : Flight) : (setFlight s f g).sec = s.sec := rfl
@[simp] theorem setFlight_cx (s : State) (f g : Flight) : (setFlight s f g).cx = s.cx := rfl
@[simp] theorem setFlight_cc (s : State) (f g : Flight) : (setFlight s f g).cc = s.cc := rfl
@[simp] theorem setFlight_mem (s : State) (f g : Flight) : (setFlight s f g).mem = s.mem := rfl
@[simp] theorem setFlight_ring (s : State) (f g : Flight) : (setFlight s f g).ring = s.ring := rfl
@[simp] theorem setFlight_ob (s : State) (f g : Flight) : (setFlight s f g).ob = s.ob := rfl
@[simp] theorem setFlight_num (s : State) (f g : Flight) : (setFlight s f g).num = s.num := rfl
@[simp] theorem setFlight_mh (s : State) (f g : Flight) : (setFlight s f g).mh = s.mh := rfl
@[simp] theorem setFlight_gal (s : State) (f g : Flight) : (setFlight s f g).gal = s.gal := rfl
@[simp] theorem setFlight_tt (s : State) (f g : Flight) : (setFlight s f g).tt = s.tt := rfl
@[simp] theorem setFlight_sh (s : State) (f g : Flight) : (setFlight s f g).sh = s.sh := rfl
@[simp] theorem setFlight_hp (s : State) (f g : Flight) : (setFlight s f g).hp = s.hp := rfl
@[simp] theorem setFlight_rs (s : State) (f g : Flight) : (setFlight s f g).rs = s.rs := rfl
@[simp] theorem setFlight_cm (s : State) (f g : Flight) : (setFlight s f g).cm = s.cm := rfl
@[simp] theorem setFlight_mc (s : State) (f g : Flight) : (setFlight s f g).mc = s.mc := rfl
@[simp] theorem setFlight_ms (s : State) (f g : Flight) : (setFlight s f g).ms = s.ms := rfl

/-! ### modSink -/

@[simp] theorem modSink_ob (s : State) (k : Nat) (f : NvmeSink → NvmeSink) :
    (modSink s k f).ob = { s.ob with sinks := s.ob.sinks.map fun x => if x.feed = k then f x else x } := rfl
@[simp] theorem modSink_pending (s : State) (k : Nat) (f : NvmeSink → NvmeSink) : (modSink s k f).pending = s.pending := rfl
@[simp] theorem modSink_now (s : State) (k : Nat) (f : NvmeSink → NvmeSink) : (modSink s k f).now = s.now := rfl
@[simp] theorem modSink_free (s : State) (k : Nat) (f : NvmeSink → NvmeSink) : (modSink s k f).free = s.free := rfl
@[simp] theorem modSink_fc (s : State) (k : Nat) (f : NvmeSink → NvmeSink) : (modSink s k f).fc = s.fc := rfl
@[simp] theorem modSink_pw (s : State) (k : Nat) (f : NvmeSink → NvmeSink) : (modSink s k f).pw = s.pw := rfl
@[simp] theorem modSink_nw (s : State) (k : Nat) (f : NvmeSink → NvmeSink) : (modSink s k f).nw = s.nw := rfl
@[simp] theorem modSink_sec (s : State) (k : Nat) (f : NvmeSink → NvmeSink) : (modSink s k f).sec = s.sec := rfl
@[simp] theorem modSink_cx (s : State) (k : Nat) (f : NvmeSink → NvmeSink) : (modSink s k f).cx = s.cx := rfl
@[simp] theorem modSink_cc (s : State) (k : Nat) (f : NvmeSink → NvmeSink) : (modSink s k f).cc = s.cc := rfl
@[simp] theorem modSink_mem (s : State) (k : Nat) (f : NvmeSink → NvmeSink) : (modSink s k f).mem = s.mem := rfl
@[simp] theorem modSink_ring (s : State) (k : Nat) (f : NvmeSink → NvmeSink) : (modSink s k f).ring = s.ring := rfl
@[simp] theorem modSink_num (s : State) (k : Nat) (f : NvmeSink → NvmeSink) : (modSink s k f).num = s.num := rfl
@[simp] theorem modSink_mh (s : State) (k : Nat) (f : NvmeSink → NvmeSink) : (modSink s k f).mh = s.mh := rfl
@[simp] theorem modSink_gal (s : State) (k : Nat) (f : NvmeSink → NvmeSink) : (modSink s k f).gal = s.gal := rfl
@[simp] theorem modSink_tt (s : State) (k : Nat) (f : NvmeSink → NvmeSink) : (modSink s k f).tt = s.tt := rfl
@[simp] theorem modSink_sh (s : State) (k : Nat) (f : NvmeSink → NvmeSink) : (modSink s k f).sh = s.sh := rfl
@[simp] theorem modSink_hp (s : State) (k : Nat) (f : NvmeSink → NvmeSink) : (modSink s k f).hp = s.hp := rfl
@[simp] theorem modSink_rs (s : State) (k : Nat) (f : NvmeSink → NvmeSink) : (modSink s k f).rs = s.rs := rfl
@[simp] theorem modSink_cm (s : State) (k : Nat) (f : NvmeSink → NvmeSink) : (modSink s k f).cm = s.cm := rfl
@[simp] theorem modSink_mc (s : State) (k : Nat) (f : NvmeSink → NvmeSink) : (modSink s k f).mc = s.mc := rfl
@[simp] theorem modSink_ms (s : State) (k : Nat) (f : NvmeSink → NvmeSink) : (modSink s k f).ms = s.ms := rfl

/-! ### setXfer -/

@[simp] theorem setXfer_ob (s : State) (r : CmdRef) (f : Xfer → Xfer) :
    (setXfer s r f).ob = { s.ob with xfers := s.ob.xfers.map fun x => if x.ref = r then f x else x } := rfl
@[simp] theorem setXfer_pending (s : State) (r : CmdRef) (f : Xfer → Xfer) : (setXfer s r f).pending = s.pending := rfl
@[simp] theorem setXfer_now (s : State) (r : CmdRef) (f : Xfer → Xfer) : (setXfer s r f).now = s.now := rfl
@[simp] theorem setXfer_free (s : State) (r : CmdRef) (f : Xfer → Xfer) : (setXfer s r f).free = s.free := rfl
@[simp] theorem setXfer_fc (s : State) (r : CmdRef) (f : Xfer → Xfer) : (setXfer s r f).fc = s.fc := rfl
@[simp] theorem setXfer_pw (s : State) (r : CmdRef) (f : Xfer → Xfer) : (setXfer s r f).pw = s.pw := rfl
@[simp] theorem setXfer_nw (s : State) (r : CmdRef) (f : Xfer → Xfer) : (setXfer s r f).nw = s.nw := rfl
@[simp] theorem setXfer_sec (s : State) (r : CmdRef) (f : Xfer → Xfer) : (setXfer s r f).sec = s.sec := rfl
@[simp] theorem setXfer_cx (s : State) (r : CmdRef) (f : Xfer → Xfer) : (setXfer s r f).cx = s.cx := rfl
@[simp] theorem setXfer_cc (s : State) (r : CmdRef) (f : Xfer → Xfer) : (setXfer s r f).cc = s.cc := rfl
@[simp] theorem setXfer_mem (s : State) (r : CmdRef) (f : Xfer → Xfer) : (setXfer s r f).mem = s.mem := rfl
@[simp] theorem setXfer_ring (s : State) (r : CmdRef) (f : Xfer → Xfer) : (setXfer s r f).ring = s.ring := rfl
@[simp] theorem setXfer_num (s : State) (r : CmdRef) (f : Xfer → Xfer) : (setXfer s r f).num = s.num := rfl
@[simp] theorem setXfer_mh (s : State) (r : CmdRef) (f : Xfer → Xfer) : (setXfer s r f).mh = s.mh := rfl
@[simp] theorem setXfer_gal (s : State) (r : CmdRef) (f : Xfer → Xfer) : (setXfer s r f).gal = s.gal := rfl
@[simp] theorem setXfer_tt (s : State) (r : CmdRef) (f : Xfer → Xfer) : (setXfer s r f).tt = s.tt := rfl
@[simp] theorem setXfer_sh (s : State) (r : CmdRef) (f : Xfer → Xfer) : (setXfer s r f).sh = s.sh := rfl
@[simp] theorem setXfer_hp (s : State) (r : CmdRef) (f : Xfer → Xfer) : (setXfer s r f).hp = s.hp := rfl
@[simp] theorem setXfer_rs (s : State) (r : CmdRef) (f : Xfer → Xfer) : (setXfer s r f).rs = s.rs := rfl
@[simp] theorem setXfer_cm (s : State) (r : CmdRef) (f : Xfer → Xfer) : (setXfer s r f).cm = s.cm := rfl
@[simp] theorem setXfer_mc (s : State) (r : CmdRef) (f : Xfer → Xfer) : (setXfer s r f).mc = s.mc := rfl
@[simp] theorem setXfer_ms (s : State) (r : CmdRef) (f : Xfer → Xfer) : (setXfer s r f).ms = s.ms := rfl

end Sys2Proof.Machine
end

