-- ==== Sys2Proof/Laws/Reads.lean ====
section
/-! SUPPORT. What the reads and writes of engines can do, and how long a coded block is, said once. -/

namespace Sys2Proof.Machine
open Sys2Proof

/-! ### Reads where no stored bit has changed -/

theorem sawRead_quiet (s : State) (ps : List (Nat × Nat)) (h : s.mem.upsets = []) : sawRead s ps = touchLines s ps := by
  simp [sawRead, h]

theorem sawRange_quiet (s : State) (ctx va n need : Nat) (h : s.mem.upsets = []) :
    sawRange s ctx va n need = { s with mem := { s.mem with mz := (sawRange s ctx va n need).mem.mz } } := by
  unfold sawRange
  split
  · rw [sawRead_quiet s _ h]; rfl
  · rfl

theorem readAt_quiet (s t : State) (ctx va n : Nat) (bs : List Byte) (h : s.mem.upsets = [])
    (hr : readAt s ctx va n = .ok (t, bs)) : t = { s with mem := { s.mem with mz := t.mem.mz } } := by
  unfold readAt at hr
  split at hr
  · cases hr
  · cases hr; exact sawRange_quiet s ctx va n 1 h

/-! ### Writes and refused accesses -/

theorem writeAt_frame (s t : State) (ctx va : Nat) (bs : List Byte) (hw : writeAt s ctx va bs = .ok t) :
    t = { s with mem := { s.mem with cells := t.mem.cells, mz := t.mem.mz, upsets := t.mem.upsets } } := by
  unfold writeAt devWrite at hw
  cases h : translateN s ctx va bs.length 2 with
  | error c => simp [h, Except.map] at hw
  | ok ps => simp [h, Except.map] at hw; rw [← hw]; rfl

theorem raiseRefused_frame (s : State) (m : FaultMsg) :
    raiseRefused s m = { s with fc := (raiseRefused s m).fc } := rfl

/-! ### Coded blocks -/

@[simp] theorem leBytes_length (n v : Nat) : (leBytes n v).length = n := by
  induction n generalizing v with
  | zero => rfl
  | succ n ih => simp [leBytes, ih]

@[simp] theorem padBytes_length (n : Nat) (bs : List Byte) : (padBytes n bs).length = n := by
  simp [padBytes]

/-- A coded block has the size of its ratio and depth, whichever coding it holds (R242, R243). -/
theorem encodeBlock_length (ratio depth effort plane bx y : Nat) (hist : List (List Nat)) (samples : List Nat)
    (h : 2 ≤ codedSize ratio depth) :
    (encodeBlock ratio depth effort plane bx y hist samples).1.length = codedSize ratio depth := by
  unfold encodeBlock
  simp only []
  split <;> simp only [List.length_append, padBytes_length, leBytes_length] <;> omega

end Sys2Proof.Machine
end

