-- ==== Sys2Proof/Tests/Slice0.lean ====
section
/-! SUPPORT. Tests: for every statement with hypotheses one theorem that shows, clause by clause, a state and operands
that meet them all; an ill-formed command for each check; the manual's worked examples; single steps. -/


namespace Sys2Proof.Tests
open Sys2Proof Sys2Proof.Machine

set_option Elab.async false
set_option maxRecDepth 10000
set_option linter.unusedVariables false

/-! ### States and requests the witnesses use -/

/-- A request word of a mailbox with the parameter words after the size-and-version word. -/
def wReq (mbox : Nat) (ws : List Word) : ReqIn :=
  ⟨mbox, 0, 1, 0, ws.length + 1, sizeVer (4 * (ws.length + 1)) :: ws, false, ⟨true, true, true, true⟩⟩

/-- A request without parameters. -/
def wReq0 (mbox : Nat) : ReqIn := ⟨mbox, 0, 1, 0, 0, [], false, ⟨true, true, true, true⟩⟩

def wSess (full : Bool) (ts : Nat) : Session := ⟨full, ts, true, 0x0100, full, [], [], [], 0, 0, 0, false, false, 0, [], false, 0⟩
def wQuota : Quota := ⟨4, 64, 64, 0x1000000, 4, 4⟩
def wCtx (st : CtxSt) (n : Nat) : Ctx := ⟨st, wQuota, List.replicate 64 0, n, false, [], [], [], 0, 0, []⟩
def wObj (owner bytes : Nat) (runs : List (Nat × Nat)) : Obj := ⟨1, .live, owner, bytes, false, 0, runs, [], 0, 0⟩
def wQueue : Queue := ⟨.active, 5, 0x100000, 4, 0x101000, 1000, 0, 0, 0, 0, 0, [], [], none, 0, 0, 0, true, [], false⟩
def wHouse : List Word := [0x00400100, 0xB019, 0x04380780, 15000, 0, 0, 0x01000000, 0x10011D00, 0, 0, 2000, 0, 0, 0, 0, 0]

/-- A running part: the operator driver and tenant 5 with full sessions, tenant 6 opening one, tenant 7 CREATED; memory
objects, mappings, a queue and a fence of tenant 5. -/
def wS : State :=
  { State.reset with
    now := 1000000
    pw := { State.reset.pw with phase := 7, started := true, hbmReady := true, houseCtxReady := true }
    sec := { State.reset.sec with skeyReady := true, sess := [(5, wSess true 1), (6, wSess false 2), (0x300, wSess true 3)] }
    cx := { State.reset.cx with
      ctxs := [(5, wCtx .active 1), (6, wCtx .created 2), (7, wCtx .created 3), (0x200, wCtx .active 4)]
      objs := [(0, wObj 5 0x20000 [(0, 2)]), (1, wObj 0x300 0x10000 [(2, 1)]), (2, wObj 0x200 0x40000 [(3, 4)]),
               (3, wObj 0x300 0x100000 [(7, 16)])]
      maps := [(5, [⟨0x100000, 0x20000, 0, 0, 7⟩]), (0x300, [⟨0x200000, 0x10000, 1, 0, 3⟩])]
      freeFrames := [(23, 737257)], incarnNext := 5, keys := [5, 6, 7, 0x200].map fun k => (k, ⟨List.replicate 64 0, true⟩), reserve := 20 }
    cc := { State.reset.cc with queues := [(0, wQueue)], fences := [(0, ⟨5, 3, .ok, [(7, 3)], []⟩)] }
    hp := { State.reset.hp with poseRing := 2 } }

/-- A session-open block of tenant 6, and the state whose owner digest is that of its key. -/
def wOpen : ReqIn := wReq 6 ([6, 0x01000100] ++ List.replicate 397 0)
def wOpenS : State :=
  { wS with cx := { wS.cx with ctxs := [(6, { wCtx .created 2 with owner := Config.sha512 (blkBytes wOpen.block 0x230 0x204) })] } }

/-- A staged firmware image with an empty signature. -/
def wImage : List Host.Cell := memPutN [] 0 (wordBytes [0x06000100, 0x44594E56, 7, 1, 4096])

theorem wit_read (o : Option (State × List Word)) (w : List Word) (h : o.map Prod.snd = some w) : o = some ((o.map Prod.fst).getD wS, w) := by
  cases o with
  | none => simp at h
  | some p => simp at h; simp [← h]

theorem wit_some (o : Option (State × List Nat)) (h : o.isSome = true) : o = some ((o.map Prod.fst).getD wS, (o.map Prod.snd).getD []) := by
  cases o with
  | none => cases h
  | some p => rfl
/-- A timetable image without entries in the operator driver's object, a schedule image without tasks in the tenant's. -/
def wTtS : State :=
  { wS with
    hp := { wS.hp with cfg := some ⟨[wHouse, List.replicate 16 0], [2, 0], 0, 100, 0⟩ }
    mem := { wS.mem with cells := memPutN (memPutN [] 0 (wordBytes [0x00400100])) 0x20000 (wordBytes [0x00400100, 2, 0, 9, 1000000]) } }

/-- A boot configuration record: the reference stream, automatic start off. -/
def wBoot : List Word := [0x00A00100, 8, 1000000, 0] ++ wHouse ++ [0x00400100] ++ List.replicate 15 0 ++ [2, 0, 0, 0]

theorem wit_nvme : nvmeCheck { wS with ob := { wS.ob with mode := 1, link := true } } (wReq 0x208 [1, 0, 0, 1, 0x200000, 0]) = none := by
  simp [nvmeCheck, lbaSize, wReq, wd]
  cases Config.lbaBig 1 <;> decide


/-- The house pipeline runs the reference stream. -/
def wRun : State :=
  { wS with hp := { wS.hp with cfg := some ⟨[wHouse, List.replicate 16 0], [2, 0], 0, 100, 0⟩, running := true } }
def wStream : Stream := { noStream with opened := true, seen := true }
def wRunO : State := { wRun with hp := { wRun.hp with streams := [wStream, noStream] } }
def wTile (bands : List BandSt) (complete : Bool) (slot : Nat) (base net : Option Nat) : Tile :=
  ⟨0, 0, 2, 3, bands, complete, 1, 2, slot, false, false, 0, base, 0, net, 0, 256, false, [], [], none, none⟩
def wTiles (x : Tile) : State := { wRun with hp := { wRun.hp with tiles := [x], slots := 5 } }
def wPose : Pose := ⟨0, 0, 3, 10, false, List.replicate 11 0⟩
def wFeedW : List Word := [0x00400100, 0x420, 5, 0x10001D00, 0x10001D00] ++ List.replicate 11 0
def wPres : Present := ⟨⟨5, 0, 0, 0⟩, [0x00300100, 0, 0], true, []⟩
def wFeed (layer : Option Present) (surf : List Word) : Feed := ⟨true, false, wFeedW, [], layer, surf, List.replicate 11 0, false, none, [], 0, []⟩
def wComp (started skip : Bool) : Comp := ⟨0, 9, 5, 0, 0, 2, 3, 0, 64, 64, 0, false, skip, started, false⟩
def wFeeds (f : Feed) (c : Comp) : State := { wRun with rs := { wRun.rs with feeds := [(0, f)], comps := [c], poses := [wPose] } }
def wPassW : List Word := [0x00800100, 0, 0, 0x00010001] ++ List.replicate 8 0 ++ [0x100000] ++ List.replicate 19 0
def wPass (direct : Bool) (stalled : Option Nat) (resolving running : Bool) : RPass :=
  ⟨⟨5, 0, 0, 0⟩, wPassW, 0, 1, direct, 0, 0, 0, false, stalled, resolving, true, running, [], [], 0, 0, 0, [], [], 0, []⟩
/-- A pass whose last triangle is to be set up. -/
def wTriW : List Word :=
  [0x00800100, 1, 0x80008, 0x00010001, 0, 0, 0, 0, 0x110400, 0, 1, 3, 0x100000] ++ List.replicate 19 0
def wTriP : RPass :=
  { (wPass false none false true) with words := wTriW, verts := [(0, 0, 0), (1, 0x41000000, 0), (2, 0, 0x41000000)] }
def wFrag : Fragment := ⟨0, 0, 0, 0, 0, 0, 0, 0⟩
def wColour : List Host.Cell := memPutN [] 0 (wordBytes ([0x00400100, 0x42, 0x400040, 0x111000, 0] ++ List.replicate 11 0))
def wPasses (slot : Option Nat) (p : RPass) : State :=
  { wRun with
    mem := { wRun.mem with cells := memPutN wColour 0x10400 (wordBytes [0, 1, 2]) }
    rs := { wRun.rs with slot := slot, ctx := [(5, ⟨8, List.range 8, 8, 100, 0, [], [], [p]⟩)] } }
def wBack (s : State) : State := { s with rs := { s.rs with back := [wFrag] } }
def wImg (es : List TtEntry) : TtImage := ⟨0, 1, 0, 0, es, [], []⟩
def wSlotOf (unit : Nat) (s : State) : State :=
  { s with tt := { s.tt with set := true, active := some (wImg [⟨unit, 2, 5, 0, 100, 1000, 0, 1, false⟩]), cycle := 200 } }
/-- The Outbound Port in a mode with its link up; owner 5 has accepted. -/
def wOb (mode : Nat) : State := { wS with ob := { wS.ob with mode := mode, link := true, owner := 5, accepted := true } }
def wXfer : Xfer := ⟨⟨5, 0, 0, 3⟩, 0x900000, 0x100000, 8, 4, [(4, 4, 0)], false⟩
def wXfers : State := { wOb 2 with ob := { (wOb 2).ob with xfers := [wXfer] } }
def wSink : NvmeSink := ⟨0, 1, 100, 4096, 0, [], false⟩
def wCoded (ring : List (List Byte)) : FeedCode := ⟨1, 0, 0, 4, 0, 0, 0, 8, 0, [], 0, [], ring, none⟩
def wNvme : State :=
  { wOb 1 with ob := { (wOb 1).ob with sinks := [wSink] }, cm := { wS.cm with feeds := [(0, wCoded [List.replicate 131072 1])] } }
def wRead : Flight := ⟨0x208, 0x300, 0x42, ⟨0x208, 0, 1, 0, 7, [sizeVer 28, 1, 0, 0, 1, 0x200000, 0], false, ⟨true, true, true, true⟩⟩, .request, .engine, [], 9⟩
def wReads : State := { wOb 1 with ob := { (wOb 1).ob with cmds := [(9, 0)] }, nw := { wS.nw with flights := [wRead] } }
def wAx (a : Axis) : State := { wS with mc := { wS.mc with axes := List.replicate 6 a } }
def wHeat (h : Heater) : State := { wS with mc := { wS.mc with heaters := [h, h] } }
def wDom (p : Nat) : State := { wS with pw := { wS.pw with doms := List.replicate 12 ⟨p, 0, false, [], false, []⟩ } }

theorem wit_ring (t : List Byte) (n : Nat) (h : t.length = n + 1) : takeRing [t] (n + 1) = some (t, []) := by
  simp [takeRing, h]

/-- Structures of tenant 5 from VA 0x110000: a launch descriptor, its program object, a pass, a surface, a present. -/
def wLaunchW : List Word := [sizeVer 64, 0x110100, 0, 0x10001, 0x200001, 0x400801, 0x100, 0, 0] ++ List.replicate 7 0
def wProgW : List Word := [sizeVer 128, 0x10001, 0x400, 0x100, 0x10, 0, 0x208, 256, 64] ++ List.replicate 23 0
def wDrawW : List Word :=
  [sizeVer 128, 1, 0x80008, 0, 0x110100, 0, 0x110100, 0, 0, 0, 1, 0, 0x110300, 0, 0, 0, 0, 1, 0x100] ++ List.replicate 13 0
def wSurfW : List Word := [sizeVer 64, 0x42, 0x400040, 0x111000, 0] ++ List.replicate 11 0
def wPresW : List Word := [sizeVer 48, 0, 0, 0x110300, 0, 0, 0, 0, 0, 0, 0, 0]
def wMem (a : Nat) (ws : List Word) (m : List Host.Cell) : List Host.Cell := memPutN m a (wordBytes ws)
/-- A queue of tenant 5 that may run, with these structures, its domains on and core 8 granted to it. -/
def wQ (m : List Host.Cell) : State :=
  wSlotOf 24 { wDom 2 with mem := { wS.mem with cells := m },
                           rs := { wS.rs with feeds := [(0, wFeed none [])] },
                           mh := { wS.mh with batches := [(1, ⟨5, 2, 0, 256, 4, 0, 0, 8, 2, [(0, 0)], []⟩)] } }
def wMove : State :=
  { wQ [] with ob := { wS.ob with mode := 2, link := true, owner := 5, accepted := true },
               cx := { wS.cx with objs := wS.cx.objs ++ [(9, { wObj 5 0x10000 [] with policy := 2, bar := 0, barOff := 0 })]
                                  maps := [(5, [⟨0x100000, 0x20000, 0, 0, 7⟩, ⟨0x300000, 0x10000, 9, 0, 3⟩])] } }
/-- A core that runs a launch of tenant 5, with one group. -/
def wL : Launch := ⟨⟨5, 0, 0, 0⟩, 0x110100, 0x100, 0x10, 0, 0, 8, 2, 256, 1, 0x100, 0, (2, 1, 1), (32, 1, 1), 0, 0, 0, 0, true, []⟩
def wSub (lanes : Nat) (w : SWait) : Subset := ⟨lanes, 16, w, 0, 0⟩
def wBlk (subs : List Subset) (region : Option (Nat × Nat)) (bars : List (Nat × Barrier)) : Block :=
  ⟨0, 0, [⟨subs, region, 0⟩], List.replicate 32 [0x111000, 0, 128, 7, 1, 0, 0x110300, 0], bars, 0, []⟩
def wCore (b : List Block) (ts : List Token) : Core := ⟨1, 2, 5, 0, b, [], [], [], ts, [], [(0, false, false)]⟩
def wAt : ThreadsAt := ⟨8, 0, 0, 0⟩
def wShOf (l : Launch) (c : Core) (s : State) : State :=
  { s with sh := ⟨(List.replicate 32 resetCore).set 8 c, [(0, l)], 1⟩ }
def wShM (subs : List Subset) (region : Option (Nat × Nat)) (bars : List (Nat × Barrier)) : State :=
  wShOf wL (wCore [wBlk subs region bars] (List.replicate 16 ⟨0, false, 0, 0, none⟩)) wS
def wTok (word : Option Word) : State :=
  wShOf wL (wCore [{ wBlk [wSub 1 .run] none [] with regs := List.replicate 32 [tokenWord 8 1 0 5, 0, 0, 0, 0, 0, 0, 0] }]
    (⟨5, true, 1, 0, word⟩ :: List.replicate 15 ⟨0, false, 0, 0, none⟩)) wS
def wOne (s : State) : State := wShOf wL (wCore [wBlk [wSub 1 .run] none []] (List.replicate 16 ⟨0, false, 0, 0, none⟩)) s
def wCoh : State := { wOne wS with cx := { wS.cx with objs := tput wS.cx.objs 0 { wObj 5 0x20000 [(0, 2)] with policy := 1 } } }
def wSaved : State :=
  wSlotOf 24 (wShOf wL { wCore [] [] with kind := 0, ctx := 0, saved := [(5, ⟨1, [wBlk [wSub 1 .run] none []], [], []⟩)] } wS)
def mxW (func : Nat) : DWord := BitVec.ofNat 64 (0xE4 * 2 ^ 56 + func * 2 ^ 52 + 5 * 2 ^ 44)
def syW (func rest : Nat) : DWord := BitVec.ofNat 64 (0xE5 * 2 ^ 56 + func * 2 ^ 52 + rest)
/-- A core with one line in its data cache, one byte of it dirty; one whose launch sampled the NaN trap, with infinities to add. -/
def wLine : CacheLine := ⟨0x11000, 5, List.replicate 128 9, (List.replicate 128 false).set 3 true⟩
def wLined : State := wShOf wL { wCore [wBlk [wSub 1 .run] none []] (List.replicate 16 ⟨0, false, 0, 0, none⟩) with cache := [wLine] } wS
def wNan : State :=
  wShOf wL { wCore [{ wBlk [wSub 1 .run] none [] with regs := List.replicate 32 [0x7F800000, 0xFF800000, 0, 0, 0, 0, 0, 0] }] [] with modes := [(0, false, true)] } wS
/-- A core whose thread holds the address of a surface and an x coordinate of 3. -/
def wTex : State :=
  wShOf wL (wCore [{ wBlk [wSub 1 .run] none [] with regs := List.replicate 32 [0x111000, 0, 128, 7, 0x40400000, 0, 0x110300, 0] }] []) { wS with mem := { wS.mem with cells := wMem 0x10300 wSurfW [] } }

/-- A descriptor of a transfer, the Hall that serves it for tenant 5, and a MATMUL at the front of its queue. -/
def wMoveW (op : Nat) : List Word := ([sizeVer 128, BitVec.ofNat 32 (op + 2 ^ 23)] ++ List.replicate 17 0 ++ [256, 0x100000]) ++ List.replicate 11 0
def wMatW : List Word :=
  [sizeVer 128, BitVec.ofNat 32 (6 * 2 ^ 13 + 2 ^ 23), 1, 0x10100, 0, 0, 0, 0, 0, 0, 0, 0, 0, 0, 0, 0, 0, 0, 0, 0, 0, 0] ++ List.replicate 10 0
def wEnt (va : Nat) : HEntry := ⟨⟨5, 0, 0, 3⟩, [], 0, 0, 0, va, 0, 0, 1, none, false, 0, 0⟩
def wHall (kind : Nat) (es : List HEntry) (run : Option Running) (m : List Host.Cell) : State :=
  { wS with
    mem := { wS.mem with cells := m },
    mh := ⟨(List.replicate 4 resetHall).set 1 { resetHall with
      kind := kind, ctx := 5, busy := true, regions := [(5, ⟨0, 4, 0, 4, false⟩)],
      comp := if kind = 2 then [(5, ⟨es, run⟩)] else [], load := if kind = 3 then [(5, ⟨es, run⟩)] else [] }, []⟩ }
def wRunOp (op : Nat) : Running := ⟨wMoveW op, 1, 0, false, [], 0, none, false⟩
/-- An ENCODE of one plane of 32 by 8 samples, its slot, and a coder that tenant 5 holds. -/
def wJobW : List Word :=
  [sizeVer 128, 0x0804, 0, 0, 0x101000, 0, 4096, 0, 0, 0x102000, 0, 0, 0x100000, 0, 0x80020, 64] ++ List.replicate 16 0
def wJob (started susp : Bool) : Job := ⟨⟨5, 0, 0, 0⟩, 0x110000, true, if started then wJobW else [], started, 0, 0, 0, 0, 0, 0, 0, [], susp⟩
def wCoder (j : Job) (feeds : List (Nat × FeedCode)) : State :=
  wSlotOf 72 { wS with mem := { wS.mem with cells := wMem 0x10000 wJobW [] },
                       cm := { wS.cm with slots := [(0, ⟨5, .empty, false, 0, [], []⟩)], jobs := [j], feeds := feeds } }
def wTileE : MapEnt := ⟨3, 0, 0, 0, 0, 0, 0, 0, 0, 0, []⟩
def wFeedC (queue : List MapEnt) (coding : Option MapEnt) (sink : Nat) : FeedCode := ⟨0, 0, 0, 0, sink, 0, 0, 8, 0, [], 0, queue, [], coding⟩
/-- Queues of tenant 5 at the Concourse. -/
def wCc (x : Queue) (done : List (CmdRef × Word × Word)) (m : List Host.Cell) : State :=
  { wDom 2 with cc := { wS.cc with queues := [(0, x)], done := done }, mem := { wS.mem with cells := m } }
def wRef : CmdRef := ⟨5, 0, 0, 0⟩
def wOutQ : Queue := { wQueue with out := [⟨wRef, 5, 65, 0, 0, 0, 0, false⟩] }
def wEntry : Entry := ⟨0, 0x110000, [], 0, false, true, 56, 2, 0, 32, 0⟩
def wLink (s : State) : State :=
  { s with pw := { s.pw with pins := { s.pw.pins with bypHold := .high } },
           ring := { s.ring with ports := [{ resetPort with link := true }, { resetPort with link := true }] } }

/-- Links up, tenant 5 and the operator driver in full transport sessions without seal, an unbound session. -/
def wTs (st : TsSt) (ident : Nat) : TSess := ⟨st, ident, 0, 0, [], 0, 0⟩
def wUnacked : TxFrame := ⟨4, 0x14, 0x800, 0, 1, 0, false, 0, 0, [7], 3, 2, false, 0, 64, 0⟩
def wR : State :=
  { wLink wS with
    sec := { wS.sec with sess := [(5, { wSess true 1 with keyed := false }), (0x300, { wSess true 3 with keyed := false })] },
    ring := { (wLink wS).ring with ts := [(1, wTs .full 5), (3, wTs .full 0x300), (4, { wTs .unbound 0 with unacked := [wUnacked] })] } }
def wF (ts mbx : Nat) (payload : List Byte) : FrameIn :=
  ⟨0, 0, false, true, false, 0, true, false, false, false, ts, mbx, 0, 1, 0, 0, 0, payload⟩
def wRec (owner : Option Nat) (len got : Nat) : State :=
  { wR with sec := { wR.sec with recovery := true, recovOwner := owner, recovLen := len, recovGot := got } }
def wPay (w : DWord) (ws : List Word) : List Byte := leBytes 8 w.toNat ++ wordBytes ws
/-- Newel's mailbox of a block with one notice. -/
def wNote (mbx code arg : Nat) (s : State) : State :=
  { s with nw := { s.nw with mbx := [(mbx, ⟨stampWord ((mbxWriter mbx).getD 0) (fld 44 8 code + fld 0 44 arg), true, false, 0⟩)] } }
def wCmdW : DWord := requestWord 5 0x12 0 9 0 2
def wService : State :=
  { wS with nw := { wS.nw with rot := 3, mbx := [(5, ⟨wCmdW, true, false, 0⟩)], stage := [(80, ⟨true, wCmdW, [sizeVer 8, 1]⟩)] } }
def wFl (w : Wait) : Flight := ⟨5, 5, 1, default, .request, w, [], 0⟩
def wOut : State := { wR with nw := { wR.nw with mbx := [(0x805, ⟨eventWord 0x83 5 7, true, false, 0⟩)] } }
def wTrans : TransitIn := ⟨0, false, true, false, 0, true, false, 3, 7, true, false, [1]⟩
/-- A recovery part that has received a whole image, with these Grave faults standing. -/
def wGot (g : List (Nat × Nat)) : State :=
  let r := wRec (some 4) 5632 5632
  { r with sec := { r.sec with recovImage := wImage }, pw := { r.pw with grave := g } }
/-! ### Every statement with hypotheses is met, clause by clause -/

theorem witness_ReplyProtocol :
    (∃ (s : State) (op : Nat) (r : ReqIn) (fl : Bool) (st : Nat) (d : Nat) (ws : List Word),
    ((mbxOf s (outMbx r.mbox)).full = false)
    ∧ (tgetD s.nw.outq (outMbx r.mbox) [] = [])) := by
  refine ⟨wS, 0, wReq0 5, false, 0, 0, [1], ?_, ?_⟩ <;> decide +kernel

theorem witness_SessionRequests :
    (∃ (r : ReqIn) (s : State),
    (accepted specInfoGet r s = true))
    ∧ (∃ (r : ReqIn) (s : State),
    (accepted specSessionClose r s = true)
    ∧ (asker r ≠ 0x300))
    ∧ (∃ (r : ReqIn) (s : State) (x : _),
    (accepted specSessionRekey r s = true)
    ∧ (sessOf s (asker r) = some x)
    ∧ ((isCtx (asker r) = true → ctxState s (asker r) ≠ .teardown))
    ∧ (x.rekeyWait = false)
    ∧ (x.txSwitch = false))
    ∧ (∃ (r : ReqIn) (s : State),
    (accepted specAttest r s = true))
    ∧ (∃ (r : ReqIn) (s : State),
    (accepted specSessionClose r s = true)
    ∧ (asker r = 0x300)) := by
  refine ⟨⟨wReq0 5, wS, ?_⟩, ⟨wReq0 5, wS, ?_, ?_⟩, ⟨wReq0 5, wS, wSess true 1, ?_, ?_, ?_, ?_, ?_⟩, ⟨wReq 5 (List.replicate 16 7), wS, ?_⟩, ⟨wReq0 0x208, wS, ?_, ?_⟩⟩ <;> decide +kernel

theorem witness_SessionOpens :
    (∃ (r : ReqIn) (s : State) (x : Session),
    (accepted specSessionOpen r s = true)
    ∧ (sessOf s (asker r) = some x)
    ∧ (x.full = false)
    ∧ (bits (wd r.block 1) 11 0 = asker r)
    ∧ (s.sec.skeyReady = true)
    ∧ (pad 64 (Config.sha512 (blkBytes r.block 0x230 0x204)) = pad 64 (ownerDigest s (asker r)))
    ∧ (r.ver.sigOk = true)
    ∧ (r.ver.unwrapOk = true)
    ∧ (ifSelected s (bits (wd r.block 2) 15 0) (bits (wd r.block 2) 31 16) = true)) := by
  refine ⟨wOpen, wOpenS, wSess false 2, ?_, ?_, ?_, ?_, ?_, ?_, ?_, ?_, ?_⟩ <;> first | decide +kernel | rfl

theorem witness_SecurityRequests :
    (∃ (r : ReqIn) (s : State) (x : _),
    (accepted specOperatorEnrol r s = true)
    ∧ (asker r = 0x300)
    ∧ (sessOf s 0x300 = some x)
    ∧ (x.full = false)
    ∧ (enrolled s = false)
    ∧ (r.ver.sigOk = true))
    ∧ (∃ (r : ReqIn) (s : State),
    (accepted specOperatorRelease r s = true)
    ∧ (asker r = 0x300)
    ∧ (bound s 0x300 = true)
    ∧ (r.lenW < 2)
    ∧ (tenantsLive s = false))
    ∧ (∃ (r : ReqIn) (s : State),
    (accepted specSeccfgSet r s = true)
    ∧ (tenantsLive s = false)
    ∧ (wd r.block 2 = 0x01000100))
    ∧ (∃ (r : ReqIn) (s : State),
    (accepted specFwStage r s = true)
    ∧ ((wd r.block 2).toNat % 4 = 0)
    ∧ ((wd r.block 2).toNat ≤ 4084)
    ∧ ((wd r.block 1).toNat + (wd r.block 2).toNat ≤ 2 ^ 24))
    ∧ (∃ (r : ReqIn) (s : State) (im : FwImage),
    (accepted specFwCommit r s = true)
    ∧ (parseImage s s.sec.fwStage r.ver = some im))
    ∧ (∃ (r : ReqIn) (s : State),
    (accepted specSvnRaise r s = true))
    ∧ (∃ (r : ReqIn) (s : State),
    (accepted specMacsecCakSet r s = true)) := by
  refine ⟨⟨wReq 0x208 (List.replicate 257 0), { wS with sec := { wS.sec with sess := [(0x300, wSess false 1)] } }, wSess false 1, ?_, ?_, ?_, ?_, ?_, ?_⟩, ⟨wReq0 0x208, { wS with cx := { wS.cx with ctxs := [] } }, ?_, ?_, ?_, ?_, ?_⟩, ⟨wReq 0x208 [1, 0x01000100, 0x88B5], { wS with cx := { wS.cx with ctxs := [] } }, ?_, ?_, ?_⟩, ⟨wReq 0x208 [0x1000, 4, 7], wS, ?_, ?_, ?_, ?_⟩, ⟨wReq0 0x208, { wS with sec := { wS.sec with fwStage := wImage } }, ⟨true, 7, 1, 0, 4096, List.replicate 64 0⟩, ?_, ?_⟩, ⟨wReq0 0x208, wS, ?_⟩, ⟨wReq 0x208 (1 :: List.replicate 12 5), wS, ?_⟩⟩ <;> decide +kernel

theorem witness_ContextRequests :
    (∃ (r : ReqIn) (s : State),
    (accepted specCtxCreate r s = true)
    ∧ (deepEntry s = false)
    ∧ (isTenant (bits (wd (r.block) 1) 11 0) = true ∨ (0x201 ≤ (bits (wd (r.block) 1) 11 0) ∧ (bits (wd (r.block) 1) 11 0) ≤ 0x207))
    ∧ (ctxState s (bits (wd (r.block) 1) 11 0) = .free)
    ∧ (quotaOk ((⟨(wd (r.block) 18).toNat, (wd (r.block) 19).toNat, (wd (r.block) 20).toNat, dwd (r.block) 21, (wd (r.block) 23).toNat, (wd (r.block) 24).toNat⟩ : Quota)) = true)
    ∧ (quotaSumsOk s ((⟨(wd (r.block) 18).toNat, (wd (r.block) 19).toNat, (wd (r.block) 20).toNat, dwd (r.block) 21, (wd (r.block) 23).toNat, (wd (r.block) 24).toNat⟩ : Quota)) = true))
    ∧ (∃ (r : ReqIn) (s : State) (c : _),
    (accepted specCtxDestroy r s = true)
    ∧ (isTenant (bits (wd r.block 1) 11 0) = true ∨ (0x201 ≤ (bits (wd r.block 1) 11 0) ∧ (bits (wd r.block 1) 11 0) ≤ 0x207))
    ∧ (ctxOf s (bits (wd r.block 1) 11 0) = some c)
    ∧ (c.st = .created ∨ c.st = .active))
    ∧ (∃ (r : ReqIn) (s : State),
    (accepted specCtxNumeric r s = true))
    ∧ (∃ (r : ReqIn) (s : State) (c : _),
    (accepted specCtxFaultRead r s = true)
    ∧ (ctxOf s (asker r) = some c)
    ∧ (bits (wd r.block 1) 1 0 = 2)) := by
  refine ⟨⟨wReq 0x208 ([9] ++ List.replicate 16 1 ++ [2, 32, 32, 0x1000000, 0, 2, 2]), wS, ?_, ?_, ?_, ?_, ?_, ?_⟩, ⟨wReq 0x208 [5], wS, wCtx .active 1, ?_, ?_, ?_, ?_⟩, ⟨wReq 5 [1], wS, ?_⟩, ⟨wReq 5 [6], wS, wCtx .active 1, ?_, ?_, ?_⟩⟩ <;> decide +kernel

theorem witness_MemoryRequests :
    (∃ (r : ReqIn) (s : State) (slot : _) (runs : _) (rest : _),
    (accepted specMemAlloc r s = true)
    ∧ (bit (wd r.block 3) 0 = false)
    ∧ (bits (wd r.block 3) 2 1 < 2)
    ∧ ((dwd r.block 1) ≠ 0)
    ∧ ((dwd r.block 1) % 65536 = 0)
    ∧ (s.pw.hbmReady = true)
    ∧ (objQuotaOk s (asker r) (dwd r.block 1) = true)
    ∧ (nextObjSlot s = some slot)
    ∧ (takeFrames s.cx.freeFrames ((dwd r.block 1) / 65536) = some (runs, rest)))
    ∧ (∃ (r : ReqIn) (s : State) (slot : _) (o : _),
    (accepted specMemMap r s = true)
    ∧ (needObj s (asker r) (wd r.block 1).toNat = .ok (slot, o))
    ∧ (0x10000 ≤ (dwd r.block 3))
    ∧ ((dwd r.block 3) + (if dwd r.block 7 = 0 then o.bytes - (dwd r.block 5) else dwd r.block 7) ≤ 0xFFFF00000000)
    ∧ ((dwd r.block 3) % pageOf o = 0)
    ∧ ((dwd r.block 5) % pageOf o = 0)
    ∧ ((if dwd r.block 7 = 0 then o.bytes - (dwd r.block 5) else dwd r.block 7) % pageOf o = 0)
    ∧ ((dwd r.block 5) < o.bytes)
    ∧ ((dwd r.block 5) + (if dwd r.block 7 = 0 then o.bytes - (dwd r.block 5) else dwd r.block 7) ≤ o.bytes)
    ∧ (((tgetD s.cx.maps (asker r) []).any fun m => overlaps m (dwd r.block 3) (if dwd r.block 7 = 0 then o.bytes - (dwd r.block 5) else dwd r.block 7)) = false)
    ∧ (¬ ((bits (wd r.block 2) 2 0) / 4 = 1 ∧ (bits (wd r.block 2) 2 0) / 2 % 2 = 1))
    ∧ (mayMap o (asker r) (bits (wd r.block 2) 2 0) = true))
    ∧ (∃ (r : ReqIn) (s : State),
    (accepted specMemUnmap r s = true)
    ∧ ((dwd r.block 1) % 65536 = 0)
    ∧ ((dwd r.block 3) % 65536 = 0)
    ∧ (0x10000 ≤ (dwd r.block 1))
    ∧ ((dwd r.block 1) + (dwd r.block 3) ≤ 0xFFFF00000000)
    ∧ (((tgetD s.cx.maps (asker r) []).any fun m => splitsBig s m (dwd r.block 1) || splitsBig s m ((dwd r.block 1) + (dwd r.block 3))) = false))
    ∧ (∃ (r : ReqIn) (s : State),
    (accepted specMemUnmap r s = true)
    ∧ ((dwd r.block 1) % 65536 = 0)
    ∧ ((dwd r.block 3) % 65536 = 0)
    ∧ (0x10000 ≤ (dwd r.block 1))
    ∧ ((dwd r.block 1) + (dwd r.block 3) ≤ 0xFFFF00000000)
    ∧ (((tgetD s.cx.maps (asker r) []).any fun m => splitsBig s m (dwd r.block 1) || splitsBig s m ((dwd r.block 1) + (dwd r.block 3))) = false)
    ∧ (((List.range 8).all fun k => (hq (hallOf s (k / 2)) (k % 2 == 1) (asker r)).run == none) = true)
    ∧ ((s.sh.cores.all fun c => c.cache == [] && c.tex == []) = true))
    ∧ (∃ (r : ReqIn) (s : State) (slot : _) (o : _),
    (accepted specMemFree r s = true)
    ∧ (needOwn s (asker r) (wd r.block 1).toNat = .ok (slot, o))
    ∧ (holdsQueue s slot = false))
    ∧ (∃ (r : ReqIn) (s : State) (slot : _) (o : _),
    (accepted specMemGrant r s = true)
    ∧ (needOwn s (asker r) (wd r.block 1).toNat = .ok (slot, o))
    ∧ (granteeCheck s (asker r) (bits (wd r.block 2) 11 0) = none)
    ∧ ((bits (wd r.block 3) 1 0) = 1 ∨ (bits (wd r.block 3) 1 0) = 3)
    ∧ (((tgetD s.cx.maps (bits (wd r.block 2) 11 0) []).all fun m => m.slot != slot || (m.perm &&& (bits (wd r.block 3) 1 0)) == m.perm) = true))
    ∧ (∃ (r : ReqIn) (s : State) (slot : _) (o : _),
    (accepted specMemGrant r s = true)
    ∧ (needOwn s (asker r) (wd r.block 1).toNat = .ok (slot, o))
    ∧ (granteeCheck s (asker r) (bits (wd r.block 2) 11 0) = none)
    ∧ ((bits (wd r.block 3) 1 0) = 1 ∨ (bits (wd r.block 3) 1 0) = 3)
    ∧ (((tgetD s.cx.maps (bits (wd r.block 2) 11 0) []).any fun m => m.slot == slot && (m.perm &&& (bits (wd r.block 3) 1 0)) != m.perm) = true))
    ∧ (∃ (r : ReqIn) (s : State) (slot : _) (o : _),
    (accepted specMemRevoke r s = true)
    ∧ (needOwn s (asker r) (wd r.block 1).toNat = .ok (slot, o))
    ∧ ((bits (wd r.block 2) 11 0) ≠ 0xFFF)
    ∧ ((o.grants.map Prod.fst).filter (fun x => x == (bits (wd r.block 2) 11 0)) = [(bits (wd r.block 2) 11 0)])) := by
  refine ⟨⟨wReq 5 [0x10000, 0, 0], wS, 4, [(23, 1)], [(24, 737256)], ?_, ?_, ?_, ?_, ?_, ?_, ?_, ?_, ?_⟩, ⟨wReq 5 [0x10000, 3, 0x200000, 0, 0, 0, 0, 0], wS, 0, wObj 5 0x20000 [(0, 2)], ?_, ?_, ?_, ?_, ?_, ?_, ?_, ?_, ?_, ?_, ?_, ?_⟩, ⟨wReq 5 [0x100000, 0, 0x10000, 0], wS, ?_, ?_, ?_, ?_, ?_, ?_⟩, ⟨wReq 5 [0x100000, 0, 0x10000, 0], wS, ?_, ?_, ?_, ?_, ?_, ?_, ?_, ?_⟩, ⟨wReq 5 [0x10000], { wS with cc := { wS.cc with queues := [] } }, 0, wObj 5 0x20000 [(0, 2)], ?_, ?_, ?_⟩, ⟨wReq 5 [0x10000, 7, 3], wS, 0, wObj 5 0x20000 [(0, 2)], ?_, ?_, ?_, ?_, ?_⟩, ⟨wReq 5 [0x10000, 7, 1], { wS with cx := { wS.cx with maps := [(7, [⟨0x100000, 0x20000, 0, 0, 3⟩])] } }, 0, wObj 5 0x20000 [(0, 2)], ?_, ?_, ?_, ?_, ?_⟩, ⟨wReq 5 [0x10000, 7], { wS with cx := { wS.cx with objs := [(0, { wObj 5 0x20000 [(0, 2)] with grants := [(7, 3)] })] } }, 0, { wObj 5 0x20000 [(0, 2)] with grants := [(7, 3)] }, ?_, ?_, ?_, ?_⟩⟩ <;> first | decide +kernel | rfl

theorem witness_OperatorObjects :
    (∃ (r : ReqIn) (s : State) (sl : _) (o : _),
    (accepted specSysGrant r s = true)
    ∧ (houseObject s (wd r.block 1).toNat = some sl)
    ∧ (objOf s sl = some o)
    ∧ (granteeCheck s 0x300 (bits (wd r.block 2) 11 0) = none))
    ∧ (∃ (r : ReqIn) (s : State),
    (accepted specErrqSet r s = true)
    ∧ (namesRing s (wd r.block 1).toNat 131072 = true))
    ∧ (∃ (r : ReqIn) (s : State),
    (accepted specTlmSet r s = true)
    ∧ (namesRing s (wd r.block 1).toNat 1048576 = true))
    ∧ (∃ (r : ReqIn) (s : State) (os : List (Nat × Obj)),
    (accepted specDsRetain r s = true)
    ∧ ((wd r.block 1).toNat ≤ 96)
    ∧ ((((r.block.drop 2).take (wd r.block 1).toNat).map BitVec.toNat).map (findObj s) = os.map some)
    ∧ ((∀ p ∈ os, p.2.owner = 0x300 ∧ p.2.big = false ∧ p.2.policy ≠ 2))
    ∧ ((os.map fun p => p.2.bytes / 65536).sum ≤ 96)) := by
  refine ⟨⟨wReq 0x208 [2, 5], wS, 2, wObj 0x200 0x40000 [(3, 4)], ?_, ?_, ?_, ?_⟩, ⟨wReq 0x208 [0x10003], wS, ?_, ?_⟩, ⟨wReq 0x208 [0x10003], wS, ?_, ?_⟩, ⟨wReq 0x208 [1, 0x10001], wS, [(1, wObj 0x300 0x10000 [(2, 1)])], ?_, ?_, ?_, ?_, ?_⟩⟩ <;> decide +kernel

theorem witness_BinStorage :
    (∃ (r : ReqIn) (s : State) (slot : _) (o : _),
    (accepted specBinDonate r s = true)
    ∧ (needOwn s (asker r) (wd r.block 1).toNat = .ok (slot, o))
    ∧ (o.big = false)
    ∧ (o.policy ≠ 2)
    ∧ (holdsQueue s slot = false)
    ∧ (objRefd s slot = false)
    ∧ (noStall s = true)
    ∧ (settleObj s slot none = s))
    ∧ (∃ (r : ReqIn) (s : State),
    (accepted specBinPoolSet r s = true)
    ∧ (isCtx (bits (wd r.block 1) 11 0) = true)
    ∧ (((wd r.block 2).toNat) ≤ 65535)
    ∧ (((wd r.block 2).toNat) = 0 ∨ 16 ≤ ((wd r.block 2).toNat))
    ∧ (ctxState s (bits (wd r.block 1) 11 0) = .created ∨ ctxState s (bits (wd r.block 1) 11 0) = .active)
    ∧ (noStall s = true)
    ∧ ((rasOf s (bits (wd r.block 1) 11 0)).passes = []))
    ∧ (∃ (r : ReqIn) (s : State),
    (accepted specRasBaysSet r s = true)
    ∧ (isCtx (bits (wd r.block 1) 11 0) = true)
    ∧ (((wd r.block 2).toNat) ≤ 256)
    ∧ (ctxState s (bits (wd r.block 1) 11 0) = .created ∨ ctxState s (bits (wd r.block 1) 11 0) = .active)
    ∧ ((rasOf s (bits (wd r.block 1) 11 0)).bays.length ≤ ((wd r.block 2).toNat))
    ∧ (((wd r.block 2).toNat) - (rasOf s (bits (wd r.block 1) 11 0)).bays.length ≤ (freeBays s).length))
    ∧ (∃ (r : ReqIn) (s : State),
    (accepted specRasBaysSet r s = true)
    ∧ (isCtx (bits (wd r.block 1) 11 0) = true)
    ∧ (ctxState s (bits (wd r.block 1) 11 0) = .created ∨ ctxState s (bits (wd r.block 1) 11 0) = .active)
    ∧ (((wd r.block 2).toNat) < (rasOf s (bits (wd r.block 1) 11 0)).bays.length)
    ∧ ((rasOf s (bits (wd r.block 1) 11 0)).bays.length ≤ 256)
    ∧ (tiledRuns (rasOf s (bits (wd r.block 1) 11 0)) = false)) := by
  refine ⟨⟨wReq 0x208 [0x10001], wS, 1, wObj 0x300 0x10000 [(2, 1)], ?_, ?_, ?_, ?_, ?_, ?_, ?_, ?_⟩, ⟨wReq 0x208 [5, 18], wS, ?_, ?_, ?_, ?_, ?_, ?_, ?_⟩, ⟨wReq 0x208 [5, 3], wS, ?_, ?_, ?_, ?_, ?_, ?_⟩, ⟨wReq 0x208 [5, 1], { wS with rs := { wS.rs with ctx := [(5, ⟨2, [3, 4], 2, 0, 0, [], [], []⟩)] }, gal := ⟨[(3, ⟨5, []⟩), (4, ⟨5, []⟩)], 0⟩ }, ?_, ?_, ?_, ?_, ?_, ?_⟩⟩ <;> first | decide +kernel | rfl

theorem witness_QueueRequests :
    (∃ (r : ReqIn) (s : State) (q : _) (ro : _) (so : _),
    (accepted specQueueCreate r s = true)
    ∧ (dwd (r.block) 1 % 4096 = 0)
    ∧ (4 ≤ (wd (r.block) 3).toNat)
    ∧ ((wd (r.block) 3).toNat ≤ 16)
    ∧ (dwd (r.block) 4 % 64 = 0)
    ∧ (1 ≤ (wd (r.block) 6).toNat)
    ∧ ((wd (r.block) 6).toNat ≤ 600000)
    ∧ (liveRange s (asker r) (dwd (r.block) 1) (32 * 2 ^ (wd (r.block) 3).toNat) = some ro)
    ∧ (liveRange s (asker r) (dwd (r.block) 4) 64 = some so)
    ∧ (asker r = 0x300 ∨ ownedQueues s (asker r) < ((ctxOf s (asker r)).map fun c => c.quota.queues).getD 0)
    ∧ (tfree s.cc.queues 2048 = some q))
    ∧ (∃ (r : ReqIn) (s : State) (x : _),
    (accepted specQueueDestroy r s = true)
    ∧ (needQueue s (asker r) (wd r.block 1).toNat = .ok x)
    ∧ (x.st ≠ .destroying)
    ∧ ((∃ o ∈ x.out, o.op ≠ 0x11))) := by
  refine ⟨⟨wReq 5 [0x102000, 0, 4, 0x103000, 0, 1000], wS, 1, 0, 0, ?_, ?_, ?_, ?_, ?_, ?_, ?_, ?_, ?_, ?_, ?_⟩, ⟨wReq 5 [0], { wS with cc := { wS.cc with queues := [(0, { wQueue with out := [⟨⟨5, 0, 0, 0⟩, 2, 16, 0, 0, 0, 0, false⟩] })] } }, { wQueue with out := [⟨⟨5, 0, 0, 0⟩, 2, 16, 0, 0, 0, 0, false⟩] }, ?_, ?_, ?_, ?_⟩⟩ <;> first | decide +kernel | rfl

theorem witness_FenceRequests :
    (∃ (r : ReqIn) (s : State) (f : _),
    (accepted specFenceCreate r s = true)
    ∧ (asker r = 0x300 ∨ ownedFences s (asker r) < ((ctxOf s (asker r)).map fun c => c.quota.fences).getD 0)
    ∧ (tfree s.cc.fences 16384 = some f))
    ∧ (∃ (r : ReqIn) (s : State) (x : Fence),
    (accepted specFenceDestroy r s = true)
    ∧ (needFence s (asker r) (wd r.block 1).toNat true = .ok x)
    ∧ (fenceNamed s (wd r.block 1).toNat = false))
    ∧ (∃ (r : ReqIn) (s : State) (x : Fence),
    (accepted specFenceSet r s = true)
    ∧ (needFence s (asker r) (wd r.block 1).toNat false = .ok x)
    ∧ (fenceRight x (asker r) / 2 = 1))
    ∧ (∃ (r : ReqIn) (s : State) (x : Fence),
    (accepted specFenceClear r s = true)
    ∧ (needFence s (asker r) (wd r.block 1).toNat true = .ok x))
    ∧ (∃ (r : ReqIn) (s : State) (x : Fence),
    (accepted specFenceExport r s = true)
    ∧ (needFence s (asker r) (wd r.block 1).toNat true = .ok x)
    ∧ (granteeCheck s (asker r) (bits (wd r.block 2) 11 0) = none)
    ∧ ((bits (wd r.block 3) 1 0) = 1 ∨ (bits (wd r.block 3) 1 0) = 3))
    ∧ (∃ (r : ReqIn) (s : State) (x : Fence) (p : _),
    (accepted specFenceImport r s = true)
    ∧ (fenceOf s (wd r.block 1).toNat = some x)
    ∧ (tget x.exports (asker r) = some p))
    ∧ (∃ (r : ReqIn) (s : State) (x : Fence),
    (accepted specFenceQuery r s = true)
    ∧ (needFence s (asker r) (wd r.block 1).toNat false = .ok x)) := by
  refine ⟨⟨wReq 5 [7, 0], wS, 1, ?_, ?_, ?_⟩, ⟨wReq 5 [0], wS, ⟨5, 3, .ok, [(7, 3)], []⟩, ?_, ?_, ?_⟩, ⟨wReq 5 [0, 9, 0], wS, ⟨5, 3, .ok, [(7, 3)], []⟩, ?_, ?_, ?_⟩, ⟨wReq 5 [0], wS, ⟨5, 3, .ok, [(7, 3)], []⟩, ?_, ?_⟩, ⟨wReq 5 [0, 6, 3], wS, ⟨5, 3, .ok, [(7, 3)], []⟩, ?_, ?_, ?_, ?_⟩, ⟨wReq 5 [0], { wS with cc := { wS.cc with fences := [(0, ⟨7, 3, .ok, [(5, 3)], []⟩)] } }, ⟨7, 3, .ok, [(5, 3)], []⟩, 3, ?_, ?_, ?_⟩, ⟨wReq 5 [0], wS, ⟨5, 3, .ok, [(7, 3)], []⟩, ?_, ?_⟩⟩ <;> first | decide +kernel | rfl

theorem witness_BatchAndSlotRequests :
    (∃ (r : ReqIn) (s : State) (k : _),
    (accepted specSeqBatchCreate r s = true)
    ∧ (((⟨asker r, (wd (r.block) 1).toNat, (wd (r.block) 2).toNat, (wd (r.block) 3).toNat, (wd (r.block) 4).toNat, (wd (r.block) 5).toNat, (wd (r.block) 6).toNat, (wd (r.block) 7).toNat, (wd (r.block) 8).toNat, [], []⟩ : Batch)).hall < 4)
    ∧ (256 ≤ ((⟨asker r, (wd (r.block) 1).toNat, (wd (r.block) 2).toNat, (wd (r.block) 3).toNat, (wd (r.block) 4).toNat, (wd (r.block) 5).toNat, (wd (r.block) 6).toNat, (wd (r.block) 7).toNat, (wd (r.block) 8).toNat, [], []⟩ : Batch)).s)
    ∧ (((⟨asker r, (wd (r.block) 1).toNat, (wd (r.block) 2).toNat, (wd (r.block) 3).toNat, (wd (r.block) 4).toNat, (wd (r.block) 5).toNat, (wd (r.block) 6).toNat, (wd (r.block) 7).toNat, (wd (r.block) 8).toNat, [], []⟩ : Batch)).s ≤ 4096)
    ∧ (((⟨asker r, (wd (r.block) 1).toNat, (wd (r.block) 2).toNat, (wd (r.block) 3).toNat, (wd (r.block) 4).toNat, (wd (r.block) 5).toNat, (wd (r.block) 6).toNat, (wd (r.block) 7).toNat, (wd (r.block) 8).toNat, [], []⟩ : Batch)).s % 256 = 0)
    ∧ (1 ≤ ((⟨asker r, (wd (r.block) 1).toNat, (wd (r.block) 2).toNat, (wd (r.block) 3).toNat, (wd (r.block) 4).toNat, (wd (r.block) 5).toNat, (wd (r.block) 6).toNat, (wd (r.block) 7).toNat, (wd (r.block) 8).toNat, [], []⟩ : Batch)).p)
    ∧ (((⟨asker r, (wd (r.block) 1).toNat, (wd (r.block) 2).toNat, (wd (r.block) 3).toNat, (wd (r.block) 4).toNat, (wd (r.block) 5).toNat, (wd (r.block) 6).toNat, (wd (r.block) 7).toNat, (wd (r.block) 8).toNat, [], []⟩ : Batch)).p ≤ ((⟨asker r, (wd (r.block) 1).toNat, (wd (r.block) 2).toNat, (wd (r.block) 3).toNat, (wd (r.block) 4).toNat, (wd (r.block) 5).toNat, (wd (r.block) 6).toNat, (wd (r.block) 7).toNat, (wd (r.block) 8).toNat, [], []⟩ : Batch)).q)
    ∧ (((⟨asker r, (wd (r.block) 1).toNat, (wd (r.block) 2).toNat, (wd (r.block) 3).toNat, (wd (r.block) 4).toNat, (wd (r.block) 5).toNat, (wd (r.block) 6).toNat, (wd (r.block) 7).toNat, (wd (r.block) 8).toNat, [], []⟩ : Batch)).q ≤ 1024)
    ∧ (1 ≤ ((⟨asker r, (wd (r.block) 1).toNat, (wd (r.block) 2).toNat, (wd (r.block) 3).toNat, (wd (r.block) 4).toNat, (wd (r.block) 5).toNat, (wd (r.block) 6).toNat, (wd (r.block) 7).toNat, (wd (r.block) 8).toNat, [], []⟩ : Batch)).jmax)
    ∧ (((⟨asker r, (wd (r.block) 1).toNat, (wd (r.block) 2).toNat, (wd (r.block) 3).toNat, (wd (r.block) 4).toNat, (wd (r.block) 5).toNat, (wd (r.block) 6).toNat, (wd (r.block) 7).toNat, (wd (r.block) 8).toNat, [], []⟩ : Batch)).jmax ≤ 1024)
    ∧ (((⟨asker r, (wd (r.block) 1).toNat, (wd (r.block) 2).toNat, (wd (r.block) 3).toNat, (wd (r.block) 4).toNat, (wd (r.block) 5).toNat, (wd (r.block) 6).toNat, (wd (r.block) 7).toNat, (wd (r.block) 8).toNat, [], []⟩ : Batch)).pool % 256 = 0)
    ∧ (((⟨asker r, (wd (r.block) 1).toNat, (wd (r.block) 2).toNat, (wd (r.block) 3).toNat, (wd (r.block) 4).toNat, (wd (r.block) 5).toNat, (wd (r.block) 6).toNat, (wd (r.block) 7).toNat, (wd (r.block) 8).toNat, [], []⟩ : Batch)).tab % 256 = 0)
    ∧ (((⟨asker r, (wd (r.block) 1).toNat, (wd (r.block) 2).toNat, (wd (r.block) 3).toNat, (wd (r.block) 4).toNat, (wd (r.block) 5).toNat, (wd (r.block) 6).toNat, (wd (r.block) 7).toNat, (wd (r.block) 8).toNat, [], []⟩ : Batch)).tpl = 0xFFFFFFFF ∨ (((⟨asker r, (wd (r.block) 1).toNat, (wd (r.block) 2).toNat, (wd (r.block) 3).toNat, (wd (r.block) 4).toNat, (wd (r.block) 5).toNat, (wd (r.block) 6).toNat, (wd (r.block) 7).toNat, (wd (r.block) 8).toNat, [], []⟩ : Batch)).tpl % 256 = 0 ∧ ((⟨asker r, (wd (r.block) 1).toNat, (wd (r.block) 2).toNat, (wd (r.block) 3).toNat, (wd (r.block) 4).toNat, (wd (r.block) 5).toNat, (wd (r.block) 6).toNat, (wd (r.block) 7).toNat, (wd (r.block) 8).toNat, [], []⟩ : Batch)).tpl + ((⟨asker r, (wd (r.block) 1).toNat, (wd (r.block) 2).toNat, (wd (r.block) 3).toNat, (wd (r.block) 4).toNat, (wd (r.block) 5).toNat, (wd (r.block) 6).toNat, (wd (r.block) 7).toNat, (wd (r.block) 8).toNat, [], []⟩ : Batch)).s ≤ ((regionOf s ((⟨asker r, (wd (r.block) 1).toNat, (wd (r.block) 2).toNat, (wd (r.block) 3).toNat, (wd (r.block) 4).toNat, (wd (r.block) 5).toNat, (wd (r.block) 6).toNat, (wd (r.block) 7).toNat, (wd (r.block) 8).toNat, [], []⟩ : Batch)).hall (asker r)).aSize * 65536)))
    ∧ (((⟨asker r, (wd (r.block) 1).toNat, (wd (r.block) 2).toNat, (wd (r.block) 3).toNat, (wd (r.block) 4).toNat, (wd (r.block) 5).toNat, (wd (r.block) 6).toNat, (wd (r.block) 7).toNat, (wd (r.block) 8).toNat, [], []⟩ : Batch)).pool + ((⟨asker r, (wd (r.block) 1).toNat, (wd (r.block) 2).toNat, (wd (r.block) 3).toNat, (wd (r.block) 4).toNat, (wd (r.block) 5).toNat, (wd (r.block) 6).toNat, (wd (r.block) 7).toNat, (wd (r.block) 8).toNat, [], []⟩ : Batch)).p * ((⟨asker r, (wd (r.block) 1).toNat, (wd (r.block) 2).toNat, (wd (r.block) 3).toNat, (wd (r.block) 4).toNat, (wd (r.block) 5).toNat, (wd (r.block) 6).toNat, (wd (r.block) 7).toNat, (wd (r.block) 8).toNat, [], []⟩ : Batch)).s ≤ ((regionOf s ((⟨asker r, (wd (r.block) 1).toNat, (wd (r.block) 2).toNat, (wd (r.block) 3).toNat, (wd (r.block) 4).toNat, (wd (r.block) 5).toNat, (wd (r.block) 6).toNat, (wd (r.block) 7).toNat, (wd (r.block) 8).toNat, [], []⟩ : Batch)).hall (asker r)).aSize * 65536))
    ∧ (((⟨asker r, (wd (r.block) 1).toNat, (wd (r.block) 2).toNat, (wd (r.block) 3).toNat, (wd (r.block) 4).toNat, (wd (r.block) 5).toNat, (wd (r.block) 6).toNat, (wd (r.block) 7).toNat, (wd (r.block) 8).toNat, [], []⟩ : Batch)).tab + 4 + 2 * ((⟨asker r, (wd (r.block) 1).toNat, (wd (r.block) 2).toNat, (wd (r.block) 3).toNat, (wd (r.block) 4).toNat, (wd (r.block) 5).toNat, (wd (r.block) 6).toNat, (wd (r.block) 7).toNat, (wd (r.block) 8).toNat, [], []⟩ : Batch)).q ≤ ((regionOf s ((⟨asker r, (wd (r.block) 1).toNat, (wd (r.block) 2).toNat, (wd (r.block) 3).toNat, (wd (r.block) 4).toNat, (wd (r.block) 5).toNat, (wd (r.block) 6).toNat, (wd (r.block) 7).toNat, (wd (r.block) 8).toNat, [], []⟩ : Batch)).hall (asker r)).aSize * 65536))
    ∧ ((s.mh.batches.filter fun p => p.2.ctx == asker r).length < ((ctxOf s (asker r)).map fun c => c.quota.batches).getD 0)
    ∧ (tfree s.mh.batches 64 = some k))
    ∧ (∃ (r : ReqIn) (s : State) (x : Batch),
    (accepted specSeqBatchDestroy r s = true)
    ∧ (batchOf s (wd r.block 1).toNat = some x)
    ∧ (x.ctx = asker r))
    ∧ (∃ (r : ReqIn) (s : State) (k : _),
    (accepted specCmpSlotAlloc r s = true)
    ∧ ((s.cm.slots.filter fun p => p.2.owner == asker r).length < ((ctxOf s (asker r)).map fun c => c.quota.cmpSlots).getD 0)
    ∧ (tfree s.cm.slots 256 = some k))
    ∧ (∃ (r : ReqIn) (s : State) (x : CmpSlot),
    (accepted specCmpSlotFree r s = true)
    ∧ (cmpSlotOf s (wd r.block 1).toNat = some x)
    ∧ (x.owner = asker r)
    ∧ (x.freeing = false)) := by
  refine ⟨⟨wReq 5 [0, 256, 1, 1, 1, 0, 256, 0xFFFFFFFF], { wS with mh := { wS.mh with halls := [{ resetHall with regions := [(5, ⟨128, 1, 16, 1, false⟩)] }, resetHall, resetHall, resetHall] } }, 0, ?_, ?_, ?_, ?_, ?_, ?_, ?_, ?_, ?_, ?_, ?_, ?_, ?_, ?_, ?_, ?_, ?_⟩, ⟨wReq 5 [0], { wS with mh := { wS.mh with batches := [(0, ⟨5, 0, 256, 1, 1, 1, 0, 256, 0, [], [⟨⟨5, 0, 0, 0⟩, true, 1, false⟩]⟩)] } }, ⟨5, 0, 256, 1, 1, 1, 0, 256, 0, [], [⟨⟨5, 0, 0, 0⟩, true, 1, false⟩]⟩, ?_, ?_, ?_⟩, ⟨wReq0 5, wS, 0, ?_, ?_, ?_⟩, ⟨wReq 5 [0], { wS with cm := { wS.cm with slots := [(0, ⟨5, .empty, false, 0, [], []⟩)] } }, ⟨5, .empty, false, 0, [], []⟩, ?_, ?_, ?_, ?_⟩⟩ <;> decide +kernel

theorem witness_HouseRequests :
    (∃ (r : ReqIn) (s : State) (u : _),
    (accepted specHouseConfig r s = true)
    ∧ (wd r.block 34 = 0)
    ∧ (s.hp.running = false)
    ∧ (s.hp.starting = false)
    ∧ (streamStruct r.block 1 = none)
    ∧ (streamStruct r.block 17 = none)
    ∧ (houseCheck [((r.block.drop 1).take 16), ((r.block.drop 17).take 16)] [(bits (wd r.block 33) 3 0), (bits (wd r.block 33) 7 4)] = none)
    ∧ (makeRings [((bits (wd r.block 33) 3 0), ((r.block.drop 1).take 16)), ((bits (wd r.block 33) 7 4), ((r.block.drop 17).take 16))] (dropRings s) = some u))
    ∧ (∃ (r : ReqIn) (s : State),
    (accepted specHouseStart r s = true)
    ∧ (s.hp.cfg.isSome = true)
    ∧ (s.tt.set = true)
    ∧ (s.hp.running = false)
    ∧ (s.hp.starting = false)
    ∧ (s.pw.st = .run)
    ∧ (s.ring.gSync = true ∨ bit (wd r.block 1) 0 = true))
    ∧ (∃ (r : ReqIn) (s : State),
    (accepted specHouseStop r s = true)
    ∧ (s.hp.running = true))
    ∧ (∃ (r : ReqIn) (s : State),
    (accepted specTestMode r s = true)
    ∧ (s.hp.running = false)
    ∧ (s.hp.starting = false))
    ∧ (∃ (r : ReqIn) (s : State),
    (accepted specSetNumMode r s = true)
    ∧ (s.num.svc ≠ 0)) := by
  refine ⟨⟨wReq 0x208 (wHouse ++ [0x00400100] ++ List.replicate 15 0 ++ [2, 0]), wS, ((makeRings [(2, wHouse), (0, [0x00400100] ++ List.replicate 15 0)] (dropRings wS)).getD wS), ?_, ?_, ?_, ?_, ?_, ?_, ?_, ?_⟩, ⟨wReq 0x208 [1], { wS with hp := { wS.hp with cfg := some ⟨[wHouse, List.replicate 16 0], [2, 0], 0, 100, 0⟩ }, tt := { wS.tt with set := true } }, ?_, ?_, ?_, ?_, ?_, ?_, ?_⟩, ⟨wReq0 0x208, { wS with hp := { wS.hp with running := true } }, ?_, ?_⟩, ⟨wReq0 0x208, wS, ?_, ?_, ?_⟩, ⟨wReq 0x208 [1], wS, ?_, ?_⟩⟩ <;> decide +kernel

theorem witness_TimetableRequests :
    (∃ (r : ReqIn) (s : State) (slot : _) (o : _) (h : List Word) (es : List TtEntry) (place : List (Nat × Nat × Region)) (u : State),
    (accepted specTtLoad r s = true)
    ∧ (needOwn s (asker r) (wd r.block 1).toNat = .ok (slot, o))
    ∧ (s.hp.cfg.isSome = true)
    ∧ (objStruct s o ((wd r.block 2).toNat) 64 ttHeadRsv = .ok h)
    ∧ ((bits (wd h 2) 13 0) ≤ 8192)
    ∧ (((wd r.block 2).toNat) + 64 + 16 * (bits (wd h 2) 13 0) ≤ o.bytes)
    ∧ ((readEntries s o ((wd r.block 2).toNat) (bits (wd h 2) 13 0) 0 []).toOption = some es)
    ∧ ((bits (wd h 1) 2 0) ≤ 5)
    ∧ (s.tt.set = false ∨ ((bits (wd h 1) 2 0) = s.tt.rate ∧ (dwd h 4) = s.tt.epoch))
    ∧ ((admitted { s with tt := { s.tt with rate := (bits (wd h 1) 2 0) } } (bits (wd h 1) 2 0) (bits (wd h 6) 20 0) es).toOption = some place)
    ∧ (reserveSaves s (saveKeys s es) = some u))
    ∧ (∃ (r : ReqIn) (s : State) (slot : _) (o : _) (x : _),
    (accepted specSchedLoad r s = true)
    ∧ (needOwn s (asker r) (wd r.block 1).toNat = .ok (slot, o))
    ∧ ((readSched false s (asker r) o (wd r.block 2).toNat).toOption = some x)) := by
  refine ⟨⟨wReq 0x208 [0x10001, 0], wTtS, 1, wObj 0x300 0x10000 [(2, 1)], ([0x00400100, 2, 0, 9, 1000000, 0] ++ List.replicate 10 0), [], [], wTtS, ?_, ?_, ?_, ?_, ?_, ?_, ?_, ?_, ?_, ?_, ?_⟩, ⟨wReq 5 [0x10000, 0], wTtS, 0, wObj 5 0x20000 [(0, 2)], ⟨[], 0, [(0, 0), (0, 0), (0, 0), (0, 0)], wordBytes (0x00400100 :: List.replicate 15 0)⟩, ?_, ?_, ?_⟩⟩ <;> first | decide +kernel | rfl

theorem witness_FeedRequests :
    (∃ (r : ReqIn) (s : State),
    (accepted specFeedBind r s = true)
    ∧ (deepEntry s = false)
    ∧ (structOk ((r.block.drop 1).take 16) 64 feedRsv = none)
    ∧ (fEn ((r.block.drop 1).take 16) = true)
    ∧ (fdDiv ((r.block.drop 1).take 16) ≠ 3)
    ∧ (1 ≤ fSpan8 ((r.block.drop 1).take 16))
    ∧ (fSpan8 ((r.block.drop 1).take 16) ≤ 12)
    ∧ (isCtx (fOwner ((r.block.drop 1).take 16)) = true)
    ∧ (ctxState s (fOwner ((r.block.drop 1).take 16)) = .created ∨ ctxState s (fOwner ((r.block.drop 1).take 16)) = .active)
    ∧ (feedOf s (fFeed ((r.block.drop 1).take 16)) = none)
    ∧ (hEn (hdesc s (fStream ((r.block.drop 1).take 16))) = true)
    ∧ (((s.hp.cfg.map HouseCfg.exports).getD []).getD (fStream ((r.block.drop 1).take 16)) 0 ≠ 0)
    ∧ ((winOf (wd ((r.block.drop 1).take 16) 3)).1 ≤ (winOf (wd ((r.block.drop 1).take 16) 3)).2.1)
    ∧ ((winOf (wd ((r.block.drop 1).take 16) 3)).2.2.1 ≤ (winOf (wd ((r.block.drop 1).take 16) 3)).2.2.2)
    ∧ ((winOf (wd ((r.block.drop 1).take 16) 3)).2.1 < hCols (hdesc s (fStream ((r.block.drop 1).take 16))))
    ∧ ((winOf (wd ((r.block.drop 1).take 16) 3)).2.2.2 < hRows (hdesc s (fStream ((r.block.drop 1).take 16))))
    ∧ (galleryFits s ((((r.block.drop 1).take 16), []) :: boundFeeds s) = true)
    ∧ (s.rs.compRing = [])
    ∧ (8 ≤ (freeBays s).length))
    ∧ (∃ (r : ReqIn) (s : State) (f : Feed),
    (accepted specFeedBind r s = true)
    ∧ (deepEntry s = false)
    ∧ (structOk ((r.block.drop 1).take 16) 64 feedRsv = none)
    ∧ (fEn ((r.block.drop 1).take 16) = false)
    ∧ (feedOf s (fFeed ((r.block.drop 1).take 16)) = some f)
    ∧ (s.tt.set = true))
    ∧ (∃ (r : ReqIn) (s : State) (f : Feed) (c : _),
    (accepted specFeedCode r s = true)
    ∧ (feedOf s (bits (wd r.block 1) 4 0) = some f)
    ∧ (bit (wd r.block 1) 5 = true)
    ∧ (bits (wd r.block 1) 8 6 < 6)
    ∧ (bits (wd r.block 1) 15 14 = 0)
    ∧ (wd r.block 4 ≠ 0)
    ∧ (feedCodeOf s (bits (wd r.block 1) 4 0) = none)
    ∧ (pickCoder s (bits (wd r.block 1) 4 0) = some c)
    ∧ (qLe (qAdd (coderLoad s c (bits (wd r.block 1) 4 0)) (feedLoad s (bits (wd r.block 1) 4 0) (bits (wd r.block 1) 13 11))) (qInt 1080000000) = true)
    ∧ (qLe (s.cm.feeds.foldl (fun q p => qAdd q (qMul (feedTps s p.1) (qInt 16384))) (qMul (feedTps s (bits (wd r.block 1) 4 0)) (qInt 16384))) (qInt 81920000000) = true)
    ∧ (qLe (s.cm.feeds.foldl (fun q p => if p.2.sink = 0 ∧ p.2.port = bits (wd r.block 1) 16 16 then qAdd q (wireRate s p.1 p.2.ratio p.2.depth) else q) (wireRate s (bits (wd r.block 1) 4 0) (bits (wd r.block 1) 8 6) (bits (wd r.block 1) 10 9))) (qInt 8000000000) = true))
    ∧ (∃ (r : ReqIn) (s : State) (f : Feed) (g : FeedCode),
    (accepted specFeedCode r s = true)
    ∧ (feedOf s (bits (wd r.block 1) 4 0) = some f)
    ∧ (bit (wd r.block 1) 5 = false)
    ∧ (feedCodeOf s (bits (wd r.block 1) 4 0) = some g)) := by
  refine ⟨⟨wReq 0x208 ([0x00400100, 0x420, 5, 0x10001D00] ++ List.replicate 12 0), { wS with hp := { wS.hp with cfg := some ⟨[wHouse, List.replicate 16 0], [2, 0], 0, 100, 0⟩ } }, ?_, ?_, ?_, ?_, ?_, ?_, ?_, ?_, ?_, ?_, ?_, ?_, ?_, ?_, ?_, ?_, ?_, ?_, ?_⟩, ⟨wReq 0x208 ([0x00400100, 0, 5, 0x10001D00] ++ List.replicate 12 0), { wS with tt := { wS.tt with set := true }, rs := { wS.rs with feeds := [(0, ⟨true, false, ([0x00400100, 0x420, 5, 0x10001D00] ++ List.replicate 12 0), [], none, [], [], false, none, [], 0, []⟩)] } }, ⟨true, false, ([0x00400100, 0x420, 5, 0x10001D00] ++ List.replicate 12 0), [], none, [], [], false, none, [], 0, []⟩, ?_, ?_, ?_, ?_, ?_, ?_⟩, ⟨wReq 0x208 ([0x20, 7, 0, 4] ++ List.replicate 5 0), { wS with tt := { wS.tt with set := true }, rs := { wS.rs with feeds := [(0, ⟨true, false, ([0x00400100, 0x420, 5, 0x10001D00] ++ List.replicate 12 0), [], none, [], [], false, none, [], 0, []⟩)] } }, ⟨true, false, ([0x00400100, 0x420, 5, 0x10001D00] ++ List.replicate 12 0), [], none, [], [], false, none, [], 0, []⟩, 0, ?_, ?_, ?_, ?_, ?_, ?_, ?_, ?_, ?_, ?_, ?_⟩, ⟨wReq 0x208 (List.replicate 9 0), { wS with rs := { wS.rs with feeds := [(0, ⟨true, false, ([0x00400100, 0x420, 5, 0x10001D00] ++ List.replicate 12 0), [], none, [], [], false, none, [], 0, []⟩)] }, cm := { wS.cm with feeds := [(0, ⟨1, 0, 0, 0, 0, 0, 0, 4, 0, [], 0, [], [], none⟩)] } }, ⟨true, false, ([0x00400100, 0x420, 5, 0x10001D00] ++ List.replicate 12 0), [], none, [], [], false, none, [], 0, []⟩, ⟨1, 0, 0, 0, 0, 0, 0, 4, 0, [], 0, [], [], none⟩, ?_, ?_, ?_, ?_⟩⟩ <;> decide +kernel

theorem witness_OutboundRequests :
    (∃ (r : ReqIn) (s : State),
    (accepted specObConfig r s = true)
    ∧ (deepEntry s = false)
    ∧ (obBusy s = false)
    ∧ ((bits (wd r.block 1) 1 0) < 3)
    ∧ ((bits (wd r.block 1) 1 0) ≠ s.ob.mode)
    ∧ (((bits (wd r.block 1) 1 0) = 2 → isCtx (bits (wd r.block 1) 27 16) = true ∧ ctxLives s (bits (wd r.block 1) 27 16) = true)))
    ∧ (∃ (r : ReqIn) (s : State) (slot : _),
    (accepted specObWindowGrant r s = true)
    ∧ (s.ob.mode = 2)
    ∧ (isCtx (bits (wd r.block 1) 11 0) = true)
    ∧ ((dwd r.block 5) ≠ 0)
    ∧ ((dwd r.block 3) % 65536 = 0)
    ∧ ((dwd r.block 5) % 65536 = 0)
    ∧ (ctxLives s (bits (wd r.block 1) 11 0) = true)
    ∧ ((s.ob.windows.any fun w => w.bar == (bits (wd r.block 2) 2 0) && decide (w.off < (dwd r.block 3) + (dwd r.block 5) ∧ (dwd r.block 3) < w.off + w.len)) = false)
    ∧ (objQuotaOk s (bits (wd r.block 1) 11 0) 0 = true)
    ∧ (nextObjSlot s = some slot))
    ∧ (∃ (r : ReqIn) (data : List Byte) (s : State) (ps : _),
    (accepted (specNvmeRead true data) r s = true)
    ∧ (nvmeCheck s r = none)
    ∧ ((translateN s 0x300 (dwd r.block 5) data.length 2).toOption = some ps))
    ∧ (∃ (r : ReqIn) (s : State),
    (accepted specObOwnerAccept r s = true)
    ∧ (s.ob.mode = 2)
    ∧ (s.ob.owner = asker r)) := by
  refine ⟨⟨wReq 0x208 [0x50002], wS, ?_, ?_, ?_, ?_, ?_, ?_⟩, ⟨wReq 0x208 [5, 1, 0x10000, 0, 0x20000, 0], { wS with ob := { wS.ob with mode := 2 } }, 4, ?_, ?_, ?_, ?_, ?_, ?_, ?_, ?_, ?_, ?_⟩, ⟨wReq 0x208 [1, 0, 0, 1, 0x200000, 0], [1, 2], { wS with ob := { wS.ob with mode := 1, link := true } }, [(0x20000, 0x300), (0x20001, 0x300)], ?_, ?_, ?_⟩, ⟨wReq 5 [1], { wS with ob := { wS.ob with mode := 2, owner := 5 } }, ?_, ?_, ?_⟩⟩ <;> first | decide +kernel | (exact wit_nvme)

theorem witness_MotionRequests :
    (∃ (r : ReqIn) (s : State),
    (accepted specAxisEnable r s = true)
    ∧ (deepEntry s = false)
    ∧ ((maskAxes (wd r.block 1)).all (fun i => axisRecordOk i (calRec s 2 i) && encRecordOk (calRec s 3 i) && (!encBiss (calRec s 3 i) || r.ver.bissOk)) = true)
    ∧ ((maskAxes (wd r.block 1)).all (fun i => (axisOf s i).st == 0) = true)
    ∧ (s.mc.crit = false)
    ∧ (s.mc.lockout = false))
    ∧ (∃ (r : ReqIn) (s : State),
    (accepted specAxisDisable r s = true)
    ∧ ((maskAxes (wd r.block 1)).all (fun i => live (axisOf s i)) = true))
    ∧ (∃ (r : ReqIn) (s : State),
    (accepted specAxisClear r s = true)
    ∧ ((maskAxes (wd r.block 1)).all (fun i => (axisOf s i).st == 4) = true))
    ∧ (∃ (r : ReqIn) (s : State),
    (accepted specAxisMove r s = true)
    ∧ ((maskAxes (wd r.block 1)).all (fun i => f32Finite (wd r.block (2 + i)).toNat && !towardLimit (axisOf s i) (prmQ r.block (2 + i)) && !(axisOf s i).auto) = true))
    ∧ (∃ (r : ReqIn) (s : State),
    (accepted specAxisMode r s = true))
    ∧ (∃ (r : ReqIn) (s : State),
    (accepted specHeatConfig r s = true)
    ∧ (heatRanges r.block = true))
    ∧ (∃ (r : ReqIn) (s : State),
    (accepted specExposureSet r s = true)
    ∧ (64 ≤ bits (wd r.block 1) 27 16)
    ∧ (bits (wd r.block 1) 27 16 ≤ 2048)
    ∧ (bit (wd r.block 1) 0 = true))
    ∧ (∃ (r : ReqIn) (s : State),
    (accepted specExposureSet r s = true)
    ∧ (64 ≤ bits (wd r.block 1) 27 16)
    ∧ (bits (wd r.block 1) 27 16 ≤ 2048)
    ∧ (bit (wd r.block 1) 0 = false)) := by
  refine ⟨⟨wReq 0x208 [1], { wS with nw := { wS.nw with calEff := [(2, [⟨0, 0, [0x3F800000, 0x3F800000, 0x3F800000, 0x3F800000, 0x3F800000, 0x3F800000, 0xBF800000, 0x3F800000, 0x3F800000, 0x3F800000, 0x3F800000, 0x0FA00064, 0, 0, 0, 0]⟩]), (3, [⟨0, 0, [0, 0]⟩])] } }, ?_, ?_, ?_, ?_, ?_, ?_⟩, ⟨wReq 0x208 [3], { wS with mc := { wS.mc with axes := List.replicate 6 { resetAxis with st := 2 } } }, ?_, ?_⟩, ⟨wReq 0x208 [3], { wS with mc := { wS.mc with axes := List.replicate 6 { resetAxis with st := 4 } } }, ?_, ?_⟩, ⟨wReq 0x208 [3, 0x3F800000, 0, 0, 0, 0, 0], wS, ?_, ?_⟩, ⟨wReq 0x208 [3], wS, ?_⟩, ⟨wReq 0x208 [3, 0x41200000, 0x3F800000, 0x3F800000, 0x3F800000, 0x42C80000, 0x3F800000, 0x3F000000, 0x42700000], wS, ?_, ?_⟩, ⟨wReq 0x208 [0x00400001], wS, ?_, ?_, ?_, ?_⟩, ⟨wReq 0x208 [0x00400000], wS, ?_, ?_, ?_, ?_⟩⟩ <;> decide +kernel

theorem witness_PowerRequests :
    (∃ (r : ReqIn) (s : State),
    (accepted specPwrSet r s = true)
    ∧ (s.pw.st = .run)
    ∧ (bits (wd r.block 1) 2 0 = 0))
    ∧ (∃ (r : ReqIn) (s : State),
    (accepted specPwrSet r s = true)
    ∧ (s.pw.st = .run)
    ∧ (bits (wd r.block 1) 2 0 = 1)
    ∧ (entryRefused s r.mbox 1 = none)
    ∧ (s.pw.entering = none))
    ∧ (∃ (r : ReqIn) (s : State),
    (accepted specPwrSet r s = true)
    ∧ (s.pw.st = .run)
    ∧ (bits (wd r.block 1) 2 0 = 2)
    ∧ (entryRefused s r.mbox 2 = none)
    ∧ (s.pw.entering = none))
    ∧ (∃ (r : ReqIn) (s : State),
    (accepted specPwrSet r s = true)
    ∧ (s.pw.st = .run)
    ∧ (bits (wd r.block 1) 2 0 = 3)
    ∧ (entryRefused s r.mbox 3 = none)
    ∧ (s.pw.entering = none))
    ∧ (∃ (r : ReqIn) (s : State),
    (accepted specPwrSet r s = true)
    ∧ (s.pw.st = .run)
    ∧ (bits (wd r.block 1) 2 0 = 4)
    ∧ (entryRefused s r.mbox 4 = none)
    ∧ (s.pw.entering = none))
    ∧ (∃ (r : ReqIn) (s : State),
    (accepted specPwrVote r s = true))
    ∧ (∃ (r : ReqIn) (s : State),
    (accepted specPartReset r s = true)
    ∧ (s.pw.grave = []))
    ∧ (∃ (r : ReqIn) (s : State),
    (accepted specBootCfgSet r s = true)
    ∧ (structOk ((r.block.drop 1).take 40) 160 bootRsv = none)
    ∧ (streamStruct ((((r.block.drop 1).take 40).drop 4).take 16) 0 = none)
    ∧ (streamStruct ((((r.block.drop 1).take 40).drop 20).take 16) 0 = none)
    ∧ (bits (wd ((r.block.drop 1).take 40) 1) 4 2 ≤ 5)
    ∧ (houseCheck [(((r.block.drop 1).take 40).drop 4).take 16, (((r.block.drop 1).take 40).drop 20).take 16] [bits (wd ((r.block.drop 1).take 40) 36) 3 0, bits (wd ((r.block.drop 1).take 40) 36) 7 4] = none)) := by
  refine ⟨⟨wReq 0x208 [0], wS, ?_, ?_, ?_⟩, ⟨wReq 0x208 [1], wS, ?_, ?_, ?_, ?_, ?_⟩, ⟨wReq 0x208 [2], wS, ?_, ?_, ?_, ?_, ?_⟩, ⟨wReq 0x208 [3], { wS with cx := { wS.cx with ctxs := [] } }, ?_, ?_, ?_, ?_, ?_⟩, ⟨wReq 0x208 [4], { wS with cx := { wS.cx with ctxs := [] } }, ?_, ?_, ?_, ?_, ?_⟩, ⟨wReq 0x208 [0x10003], wS, ?_⟩, ⟨wReq0 0x208, wS, ?_, ?_⟩, ⟨wReq 0x208 wBoot, wS, ?_, ?_, ?_, ?_, ?_, ?_⟩⟩ <;> decide +kernel

theorem witness_CalibrationAndFaultRequests :
    (∃ (r : ReqIn) (s : State) (x : _),
    (accepted specCalRead r s = true)
    ∧ (calTable (bits (wd r.block 1) 7 0) = some x)
    ∧ (bits (wd r.block 1) 9 8 = 2))
    ∧ (∃ (r : ReqIn) (s : State) (sz : _) (lim : _) (recs : List CalRec) (rest : List Word),
    (accepted specCalWrite r s = true)
    ∧ (calTable (bits (wd r.block 1) 7 0) = some (sz, lim, true))
    ∧ (calRecs r.block = some (recs, rest))
    ∧ (recs.all (fun x => bits x.flags 31 1 == 0) = true)
    ∧ ((layOver (factoryTable s (bits (wd r.block 1) 7 0)) (recs.foldl putRec (tgetD (userTables s) (bits (wd r.block 1) 7 0) []))).length ≤ lim)
    ∧ (recs.all (fun x => !recDelete x || (factoryTable s (bits (wd r.block 1) 7 0)).any fun y => y.key == x.key) = true)
    ∧ (recs.all (fun x => calKeyOk (bits (wd r.block 1) 7 0) x.key) = true)
    ∧ ((bits (wd r.block 1) 7 0) ≠ 1 ∨ lensGridOk (layOver (factoryTable s (bits (wd r.block 1) 7 0)) (recs.foldl putRec (tgetD (userTables s) (bits (wd r.block 1) 7 0) []))) = true))
    ∧ (∃ (r : ReqIn) (s : State),
    (accepted specRestoreFactory r s = true))
    ∧ (∃ (r : ReqIn) (s : State),
    (accepted specFaultClear r s = true)
    ∧ (bit (wd r.block 1) 16 = true))
    ∧ (∃ (r : ReqIn) (s : State),
    (accepted specFaultClear r s = true)
    ∧ (bit (wd r.block 1) 16 = false)
    ∧ ((sourceOf s (bits (wd r.block 1) 7 0) (bits (wd r.block 1) 15 8)).cls ≠ 3))
    ∧ (∃ (r : ReqIn) (s : State),
    (accepted specMapRead r s = true)
    ∧ (bits (wd r.block 1) 1 0 < 2)
    ∧ ((wd r.block 2).toNat < 4))
    ∧ (∃ (r : ReqIn) (s : State),
    (accepted specMapRead r s = true)
    ∧ (bits (wd r.block 1) 1 0 = 2)
    ∧ (128 ≤ (wd r.block 2).toNat)
    ∧ ((wd r.block 2).toNat < 192)) := by
  refine ⟨⟨wReq 0x208 [0x202, 0, 1], { wS with nw := { wS.nw with calEff := [(2, [⟨0, 0, [0x3F800000, 0x3F800000, 0x3F800000, 0x3F800000, 0x3F800000, 0x3F800000, 0xBF800000, 0x3F800000, 0x3F800000, 0x3F800000, 0x3F800000, 0x0FA00064, 0, 0, 0, 0]⟩]), (3, [⟨0, 0, [0, 0]⟩])] } }, (72, 6, true), ?_, ?_, ?_⟩, ⟨wReq 0x208 [3, 1, 0, 0, 5, 6], wS, 16, 6, [⟨0, 0, [5, 6]⟩], [], ?_, ?_, ?_, ?_, ?_, ?_, ?_, ?_⟩, ⟨wReq0 0x208, wS, ?_⟩, ⟨wReq 0x208 [0x10000], { wS with fc := { wS.fc with sources := [⟨0x66, 70, 3, [], 1⟩] } }, ?_, ?_⟩, ⟨wReq 0x208 [0x4005], wS, ?_, ?_, ?_⟩, ⟨wReq 0x208 [0, 3, 0], wS, ?_, ?_, ?_⟩, ⟨wReq 0x208 [2, 128, 0], wS, ?_, ?_, ?_, ?_⟩⟩ <;> decide +kernel

theorem witness_CsiPackets :
    (∃ (s : State) (port : Nat) (vc : Nat) (fnum : Nat) (hdr : Nat) (st : Nat),
    (s.hp.running = true)
    ∧ (s.hp.streams.length = 2)
    ∧ (streamOfPort s port = some st)
    ∧ (hdr ≤ 1)
    ∧ (vc = hVc (hdesc s st))
    ∧ ((streamOf s st).opened = false))
    ∧ (∃ (s : State) (port : Nat) (vc : Nat) (hdr : Nat) (time : Nat) (st : Nat),
    (s.hp.running = true)
    ∧ (s.hp.streams.length = 2)
    ∧ (streamOfPort s port = some st)
    ∧ (hdr ≤ 1)
    ∧ (vc = hVc (hdesc s st))
    ∧ ((streamOf s st).opened = true)
    ∧ ((hPorts (hdesc s st)).all (fun p => p == port || (streamOf s st).ended.contains p) = true))
    ∧ (∃ (s : State) (port : Nat) (vc : Nat) (line : Nat) (hdr : Nat) (time : Nat) (st : Nat),
    (s.hp.running = true)
    ∧ (s.hp.streams.length = 2)
    ∧ (streamOfPort s port = some st)
    ∧ (hdr ≤ 1)
    ∧ (vc = hVc (hdesc s st))
    ∧ ((streamOf s st).opened = true)
    ∧ ((streamOf s st).counts.length = 4)
    ∧ ((streamOf s st).counts.getD port 0 < (if hGang (hdesc s st) = 1 then line / (hPorts (hdesc s st)).length else line)))
    ∧ (∃ (s : State) (st : Nat),
    (s.hp.running = true)
    ∧ (streamOn s st = true))
    ∧ (∃ (s : State) (port : Nat) (vc : Nat) (dt : Nat) (hdr : Nat) (px : List Nat) (time : Nat) (st : Nat),
    (s.hp.running = true)
    ∧ (s.hp.streams.length = 2)
    ∧ (streamOfPort s port = some st)
    ∧ (hdr ≤ 1)
    ∧ (vc = hVc (hdesc s st))
    ∧ (dt = hDt (hdesc s st))
    ∧ (dt ≠ 0x12)
    ∧ ((streamOf s st).opened = true)
    ∧ ((streamOf s st).counts.length = 4)
    ∧ (hGang (hdesc s st) ≠ 2)
    ∧ (((packetLine (hdesc s st) port ((streamOf s st).counts.getD port 0)).1) < hH (hdesc s st))
    ∧ (hW (hdesc s st) ≠ 0)
    ∧ (px.length = hW (hdesc s st))
    ∧ ((streamOf s st).held = [])
    ∧ ((streamOf s st).stripes = [])
    ∧ ((List.range (min ((streamOf s st).counts.getD port 0) (portPackets (hdesc s st) port))).all (fun i => (tget (streamOf s st).lines (packetLine (hdesc s st) port i).1).isSome) = true)) := by
  refine ⟨⟨wRun, 0, 0, 1, 0, 0, ?_, ?_, ?_, ?_, ?_, ?_⟩, ⟨wRunO, 0, 0, 0, 9, 0, ?_, ?_, ?_, ?_, ?_, ?_, ?_⟩, ⟨wRunO, 0, 0, 5, 1, 9, 0, ?_, ?_, ?_, ?_, ?_, ?_, ?_, ?_⟩, ⟨wRunO, 0, ?_, ?_⟩, ⟨wRunO, 0, 0, 0x2C, 0, (List.replicate 1920 7), 9, 0, ?_, ?_, ?_, ?_, ?_, ?_, ?_, ?_, ?_, ?_, ?_, ?_, ?_, ?_, ?_, ?_⟩⟩ <;> decide +kernel

theorem witness_ReceiverEvents :
    (∃ (s : State) (port : Nat) (clk : Bool) (data : Bool) (lanes : Nat) (rate : Nat),
    (port < 4))
    ∧ (∃ (s : State) (st : Nat) (e : _),
    (s.hp.fsync.find? (fun e => e.1 == st) = some e)) := by
  refine ⟨⟨wRun, 3, true, true, 15, 4000, ?_⟩, ⟨{ wRun with hp := { wRun.hp with fsync := [(0, true, 5)] } }, 0, (0, true, 5), ?_⟩⟩ <;> decide +kernel

theorem witness_Tiles :
    (∃ (s : State) (h : Nat) (m : Nat) (n : Nat) (corr : Nat) (tag : Nat) (reads : List (Nat × Nat)) (writes : List (Nat × Nat)) (x : _) (k : _),
    (h < 4)
    ∧ (s.mh.halls.length = 4)
    ∧ ((s.hp.tiles.findSome? fun t => ((List.range 4).find? fun k => t.bands.getD k .absent == .hall h).map fun k => (t, k)) = some (x, k))
    ∧ (findTile s x.stream x.frame x.col x.row = some x)
    ∧ ((reads.any fun r => (hallOf s h).badRows.contains r) = false))
    ∧ (∃ (s : State) (h : Nat) (m : Nat) (n : Nat) (corr : Nat) (tag : Nat) (reads : List (Nat × Nat)) (writes : List (Nat × Nat)) (x : _) (k : _),
    ((s.hp.tiles.findSome? fun t => ((List.range 4).find? fun k => t.bands.getD k .absent == .hall h).map fun k => (t, k)) = some (x, k)))
    ∧ (∃ (s : State) (st : Nat) (frame : Nat) (col : Nat) (row : Nat) (k : _) (x : _),
    (findTile s st frame col row = some x)
    ∧ (x.bands.getD k .absent = .shader))
    ∧ (∃ (s : State) (st : Nat) (frame : Nat) (col : Nat) (row : Nat) (x : _),
    (findTile s st frame col row = some x)
    ∧ (x.complete = true)
    ∧ (x.base = none)
    ∧ (slotPassed s x = false))
    ∧ (∃ (s : State) (st : Nat) (frame : Nat) (col : Nat) (row : Nat) (x : _),
    (findTile s st frame col row = some x)
    ∧ (x.net = none)
    ∧ (x.faulted = false)
    ∧ (slotPassed s x = false)
    ∧ (x.bands.all (fun b => b == .colour || b == .absent) = true))
    ∧ (∃ (s : State) (x : _),
    (s.hp.running = true)
    ∧ (s.hp.tiles.find? (fun t => t.slot != 0 && t.slot == s.hp.slots) = some x)
    ∧ (x.net.isSome = true)
    ∧ ((s.hp.rings.getD x.stream ⟨0, 0, []⟩).frames = 0)
    ∧ (s.rs.feeds = [])
    ∧ (s.rs.comps = []))
    ∧ (∃ (s : State) (x : _),
    (s.hp.running = true)
    ∧ (s.hp.tiles.find? (fun t => t.slot != 0 && t.slot == s.hp.slots) = some x)
    ∧ (x.net = none)
    ∧ (x.base.isSome = true)
    ∧ (inMeter s x.stream x.col x.row = false)
    ∧ ((s.hp.rings.getD x.stream ⟨0, 0, []⟩).frames = 0)
    ∧ (s.rs.feeds = [])
    ∧ (s.rs.comps = [])) := by
  refine ⟨⟨wTiles (wTile [.hall 2, .waiting, .waiting, .waiting] false 0 none none), 2, 0, 0, 0, 0, [], [], (wTile [.hall 2, .waiting, .waiting, .waiting] false 0 none none), 0, ?_, ?_, ?_, ?_, ?_⟩, ⟨wTiles (wTile [.hall 2, .waiting, .waiting, .waiting] false 0 none none), 2, 0, 0, 0, 0, [], [], (wTile [.hall 2, .waiting, .waiting, .waiting] false 0 none none), 0, ?_⟩, ⟨wTiles (wTile [.shader, .waiting, .waiting, .waiting] false 0 none none), 0, 0, 2, 3, 0, (wTile [.shader, .waiting, .waiting, .waiting] false 0 none none), ?_, ?_⟩, ⟨wTiles (wTile [.done, .done, .colour, .colour] true 0 none none), 0, 0, 2, 3, (wTile [.done, .done, .colour, .colour] true 0 none none), ?_, ?_, ?_, ?_⟩, ⟨wTiles (wTile [.colour, .colour, .colour, .absent] true 0 none none), 0, 0, 2, 3, (wTile [.colour, .colour, .colour, .absent] true 0 none none), ?_, ?_, ?_, ?_, ?_⟩, ⟨{ wTiles (wTile [.done, .done, .colour, .colour] true 5 none (some 7)) with rs := wRun.rs, hp := { (wTiles (wTile [.done, .done, .colour, .colour] true 5 none (some 7))).hp with rings := [] } }, (wTile [.done, .done, .colour, .colour] true 5 none (some 7)), ?_, ?_, ?_, ?_, ?_, ?_⟩, ⟨{ wTiles (wTile [.done, .done, .colour, .colour] true 5 (some 9) none) with hp := { (wTiles (wTile [.done, .done, .colour, .colour] true 5 (some 9) none)).hp with cfg := none } }, (wTile [.done, .done, .colour, .colour] true 5 (some 9) none), ?_, ?_, ?_, ?_, ?_, ?_, ?_, ?_⟩⟩ <;> decide +kernel

theorem witness_GalleryMotionMessages :
    (∃ (s : State) (x : Nat × List Nat × List Int × Nat) (r : List (Nat × List Nat × List Int × Nat)),
    (s.hp.sent = x :: r)
    ∧ (s.mc.halted = false))
    ∧ (∃ (s : State) (x : Nat × Nat × Nat × Nat × Nat) (r : List (Nat × Nat × Nat × Nat × Nat)),
    (s.hp.tm = x :: r)
    ∧ ((domOf s 11).pwr = 2))
    ∧ (∃ (s : State) (p : _) (r : List Pose),
    (s.mc.posesSent = p :: r)
    ∧ (poseAt s p.stream p.frame p.row = none)
    ∧ ((domOf s 8).pwr = 2)) := by
  refine ⟨⟨{ wRun with hp := { wRun.hp with sent := [(1, List.replicate 16 0, List.replicate 16 0, 4)] } }, (1, List.replicate 16 0, List.replicate 16 0, 4), [], ?_, ?_⟩, ⟨{ wRun with hp := { wRun.hp with tm := [(0, 1, 2, 3, 4)] }, pw := { wRun.pw with doms := List.replicate 12 ⟨2, 0, false, [], false, []⟩ } }, (0, 1, 2, 3, 4), [], ?_, ?_⟩, ⟨{ wRun with mc := { wRun.mc with posesSent := [wPose] }, pw := { wRun.pw with doms := List.replicate 12 ⟨2, 0, false, [], false, []⟩ } }, wPose, [], ?_, ?_, ?_⟩⟩ <;> decide +kernel

theorem witness_Composition :
    (∃ (s : State) (k : _) (tseq : Nat) (f : _) (c : _),
    (feedOf s k = some f)
    ∧ (compOf s k tseq = some c)
    ∧ (c.started = false)
    ∧ (hasLayer f = false))
    ∧ (∃ (s : State) (k : _) (tseq : Nat) (f : _) (c : _) (p : _),
    (feedOf s k = some f)
    ∧ (compOf s k tseq = some c)
    ∧ (c.started = false)
    ∧ (hasLayer f = true)
    ∧ (poseAt s c.stream c.frame c.row = some p))
    ∧ (∃ (s : State) (k : _) (tseq : Nat) (f : _) (c : _),
    (feedOf s k = some f)
    ∧ (compOf s k tseq = some c)
    ∧ (c.started = true)
    ∧ (hasLayer f = false ∨ c.skip = true))
    ∧ (∃ (s : State) (k : _) (tseq : Nat) (f : _) (c : _) (p : _),
    (feedOf s k = some f)
    ∧ (compOf s k tseq = some c)
    ∧ (c.started = true)
    ∧ (hasLayer f = true)
    ∧ (c.skip = false)
    ∧ (poseAt s c.stream c.frame c.row = some p)) := by
  refine ⟨⟨wFeeds (wFeed none []) (wComp false false), 0, 9, (wFeed none []), (wComp false false), ?_, ?_, ?_, ?_⟩, ⟨wFeeds (wFeed (some wPres) [0x00400100]) (wComp false false), 0, 9, (wFeed (some wPres) [0x00400100]), (wComp false false), wPose, ?_, ?_, ?_, ?_, ?_⟩, ⟨wFeeds (wFeed none []) (wComp true false), 0, 9, (wFeed none []), (wComp true false), ?_, ?_, ?_, ?_⟩, ⟨wFeeds (wFeed (some wPres) [0x00400100]) (wComp true false), 0, 9, (wFeed (some wPres) [0x00400100]), (wComp true false), wPose, ?_, ?_, ?_, ?_, ?_, ?_⟩⟩ <;> decide +kernel

theorem witness_RasterEvents :
    (∃ (s : State) (verts : List (Nat × Nat × Nat)) (clipped : List Nat) (back : List Fragment) (c : Nat) (p : _) (ps : List RPass),
    (s.rs.slot = none)
    ∧ (slotCtx s uGallery = some c)
    ∧ ((rasOf s c).passes = p :: ps)
    ∧ (p.running = true)
    ∧ ((wd p.words 10).toNat ≤ p.next ∨ p.resolving = true ∨ p.stalledAt.isSome = true))
    ∧ (∃ (s : State) (verts : List (Nat × Nat × Nat)) (clipped : List Nat) (back : List Fragment) (c : Nat) (p : _) (ps : List RPass) (col : List Word),
    (s.rs.slot = none)
    ∧ (slotCtx s uGallery = some c)
    ∧ ((rasOf s c).passes = p :: ps)
    ∧ (p.running = false)
    ∧ ((readStruct s c (pColour p.words) 64 1).toOption = some col)
    ∧ (surfCheck col = none)
    ∧ (p.direct = true ∨ passBays p.cores (fmtBytes (sFmt col)) ≤ (rasOf s c).grant)
    ∧ ((wd p.words 10).toNat ≤ p.next)
    ∧ (s.mem.upsets = []))
    ∧ (∃ (s : State) (verts : List (Nat × Nat × Nat)) (clipped : List Nat) (back : List Fragment) (c : Nat) (p : _) (ps : List RPass) (ix : List Byte) (t : List (Nat × Nat)),
    (s.rs.slot = none)
    ∧ (slotCtx s uGallery = some c)
    ∧ ((rasOf s c).passes = p :: ps)
    ∧ (p.running = true)
    ∧ (p.direct = false)
    ∧ (p.resolving = false)
    ∧ (p.stalledAt = none)
    ∧ (p.next + 1 = (wd p.words 10).toNat)
    ∧ (s.mem.upsets = [])
    ∧ ((devRead s c (va48 p.words 8 + 12 * p.next) 12).toOption = some ix)
    ∧ (p.clipped.contains p.next = false)
    ∧ (setupTri p.verts (wd p.words 11).toNat (pFrontCw p.words) (pCullBack p.words) ((bytesWords ix).map BitVec.toNat) = some t)
    ∧ (tilesOf t (pW p.words) (pH p.words) ≠ [])
    ∧ ((passPages (storeTri p ⟨p.next, t⟩) - (p.pagesOwn + p.pagesRes)) ≤ poolFree (rasOf s c)))
    ∧ (∃ (s : State),
    (s.rs.back = []))
    ∧ (∃ (s : State) (c : Nat) (p : _) (ps : List RPass) (u : State),
    (s.rs.slot = some c)
    ∧ ((rasOf s c).passes = p :: ps)
    ∧ (p.direct = false)
    ∧ (shading p = true)
    ∧ (s.rs.back ≠ [])
    ∧ ((tilePhase s c p s.rs.back false (!p.resolving)).toOption = some u))
    ∧ (∃ (s : State) (c : Nat) (p : _) (ps : List RPass),
    ((rasOf s c).passes = p :: ps)
    ∧ (p.stalledAt.isSome = true)
    ∧ (p.resolving = false))
    ∧ (∃ (s : State) (c : Nat) (frags : List Fragment) (p : _) (ps : List RPass) (u : State),
    ((rasOf s c).passes = p :: ps)
    ∧ (p.resolving = true)
    ∧ (s.rs.slot = some c)
    ∧ ((resolveFrags s c p frags false).toOption = some u))
    ∧ (∃ (s : State) (c : Nat) (core : Nat) (va : Nat) (extra : List Nat) (frags : List Fragment) (p : _) (ps : List RPass) (u : State) (q : RPass) (qs : List RPass),
    ((rasOf s c).passes = p :: ps)
    ∧ (s.rs.slot = some c)
    ∧ (shading p = true)
    ∧ (p.resolving = false)
    ∧ ((resolveFrags s c p frags true).toOption = some u)
    ∧ ((rasOf u c).passes = q :: qs)
    ∧ (noStall u = true))
    ∧ (∃ (s : State) (c : Nat) (code : Nat) (core : Nat) (va : Nat) (extra : List Nat) (frags : List Fragment) (p : _) (ps : List RPass),
    ((rasOf s c).passes = p :: ps)
    ∧ (s.rs.slot = some c)
    ∧ (shading p = true)
    ∧ (p.resolving = false)
    ∧ (code ≠ 0)
    ∧ (code ≠ 0x15 ∨ s.mem.upsets = [])
    ∧ (noStall s = true)) := by
  refine ⟨⟨wSlotOf 64 (wPasses none (wPass true none false true)), [], [], [], 5, wPass true none false true, [], ?_, ?_, ?_, ?_, ?_⟩, ⟨wSlotOf 64 (wPasses none (wPass true none false false)), [], [], [], 5, wPass true none false false, [], ([0x00400100, 0x42, 0x400040, 0x111000, 0] ++ List.replicate 11 0), ?_, ?_, ?_, ?_, ?_, ?_, ?_, ?_, ?_⟩, ⟨wSlotOf 64 (wPasses none (wTriP)), [], [], [], 5, wTriP, [], (wordBytes [0, 1, 2]), [(0, 0), (0x41000000, 0), (0, 0x41000000)], ?_, ?_, ?_, ?_, ?_, ?_, ?_, ?_, ?_, ?_, ?_, ?_, ?_, ?_⟩, ⟨wPasses (some 5) (wPass true none false false), ?_⟩, ⟨wBack (wPasses (some 5) (wPass false none false true)), 5, wPass false none false true, [], ((tilePhase (wBack (wPasses (some 5) (wPass false none false true))) 5 (wPass false none false true) [wFrag] false (!false)).toOption.getD wS), ?_, ?_, ?_, ?_, ?_, ?_⟩, ⟨wPasses (some 5) (wPass false (some 3) false true), 5, wPass false (some 3) false true, [], ?_, ?_, ?_⟩, ⟨wPasses (some 5) (wPass false (some 3) true true), 5, [], wPass false (some 3) true true, [], ((resolveFrags (wPasses (some 5) (wPass false (some 3) true true)) 5 (wPass false (some 3) true true) [] false).toOption.getD wS), ?_, ?_, ?_, ?_⟩, ⟨wPasses (some 5) (wPass false none false true), 5, 0, 0, [], [], wPass false none false true, [], ((resolveFrags (wPasses (some 5) (wPass false none false true)) 5 (wPass false none false true) [] true).toOption.getD wS), ((rasOf ((resolveFrags (wPasses (some 5) (wPass false none false true)) 5 (wPass false none false true) [] true).toOption.getD wS) 5).passes.headD (wPass false none false true)), [], ?_, ?_, ?_, ?_, ?_, ?_, ?_⟩, ⟨wPasses (some 5) (wPass false none false true), 5, 9, 0, 0, [], [], wPass false none false true, [], ?_, ?_, ?_, ?_, ?_, ?_, ?_⟩⟩ <;> decide +kernel

theorem witness_OutboundDevice :
    (∃ (s : State) (addr : Nat) (n : Nat) (data : List Byte) (ps : _),
    (s.ob.mode = 2)
    ∧ (s.ob.link = true)
    ∧ (s.ob.accepted = true)
    ∧ ((translateN s s.ob.owner addr data.length 2).toOption = some ps))
    ∧ (∃ (s : State) (addr : Nat) (n : _) (data : List Byte) (bs : _),
    (s.ob.mode = 2)
    ∧ (s.ob.link = true)
    ∧ (s.ob.accepted = true)
    ∧ ((devRead s s.ob.owner addr n).toOption = some bs))
    ∧ (∃ (s : State) (v : Nat),
    (s.ob.mode = 2)
    ∧ (s.ob.link = true))
    ∧ (∃ (s : State) (rate : Nat) (width : Nat),
    (s.ob.mode ≠ 0))
    ∧ (∃ (s : State),
    (s.ob.link = true))
    ∧ (∃ (s : State) (r : CmdRef) (off : Nat) (data : List Byte) (x : _) (ps : _),
    (readOf s r off = some x)
    ∧ (x.stopped = false)
    ∧ (x.moved + xferPart x = x.bytes)
    ∧ (data.length = xferPart x)
    ∧ ((translateN s r.ctx (x.dst + x.moved) (xferPart x) 2).toOption = some ps))
    ∧ (∃ (s : State) (r : CmdRef) (off : Nat) (data : List Byte) (x : _),
    (readOf s r off = some x)
    ∧ (x.stopped = false))
    ∧ (∃ (s : State) (r : CmdRef) (off : Nat) (x : _),
    (readOf s r off = some x)
    ∧ (x.stopped = false)) := by
  refine ⟨⟨wOb 2, 0x100000, 2, [1, 2], [(0, 5), (1, 5)], ?_, ?_, ?_, ?_⟩, ⟨wOb 2, 0x100000, 2, [], [0, 0], ?_, ?_, ?_, ?_⟩, ⟨wOb 2, 7, ?_, ?_⟩, ⟨wOb 2, 3, 4, ?_⟩, ⟨wXfers, ?_⟩, ⟨wXfers, ⟨5, 0, 0, 3⟩, 4, [1, 2, 3, 4], wXfer, [(4, 5), (5, 5), (6, 5), (7, 5)], ?_, ?_, ?_, ?_, ?_⟩, ⟨wXfers, ⟨5, 0, 0, 3⟩, 4, [], wXfer, ?_, ?_⟩, ⟨wXfers, ⟨5, 0, 0, 3⟩, 4, wXfer, ?_, ?_⟩⟩ <;> decide +kernel

theorem witness_NvmeEvents :
    (∃ (s : State) (k : _) (x : _) (f : _) (bs : _) (rest : _),
    (s.ob.sinks.find? (fun y => y.feed == k) = some x)
    ∧ (feedCodeOf s k = some f)
    ∧ (s.ob.mode = 1)
    ∧ (s.ob.link = true)
    ∧ (x.paused = false)
    ∧ (takeRing f.ring 131072 = some (bs, rest)))
    ∧ (∃ (s : State) (tag : Nat) (data : List Byte),
    (s.ob.mode = 1)
    ∧ ((s.ob.cmds.any fun c => c.1 == tag) = false))
    ∧ (∃ (s : State) (tag : Nat) (data : List Byte) (f : _) (ps : _),
    (s.ob.mode = 1)
    ∧ ((s.ob.cmds.any fun c => c.1 == tag) = true)
    ∧ (s.nw.flights.find? (tagFlight tag) = some f)
    ∧ ((translateN s 0x300 (dwd f.r.block 5) data.length 2).toOption = some ps))
    ∧ (∃ (s : State) (tag : Nat),
    ((s.ob.cmds.any fun c => c.1 == tag) = true)) := by
  refine ⟨⟨wNvme, 0, wSink, (wCoded [List.replicate 131072 1]), (List.replicate 131072 1), [], rfl, rfl, rfl, rfl, rfl, (wit_ring (List.replicate 131072 1) 131071 List.length_replicate)⟩, ⟨wNvme, 3, [], ?_, ?_⟩, ⟨wReads, 9, [1, 2], wRead, [(0x20000, 0x300), (0x20001, 0x300)], ?_, ?_, ?_, ?_⟩, ⟨wReads, 9, ?_⟩⟩ <;> decide +kernel

theorem witness_AxisEvents :
    (∃ (s : State) (i : _) (pos : Bool),
    (live (axisOf s i) = true)
    ∧ ((if pos then (axisOf s i).limp else (axisOf s i).limn) = false))
    ∧ (∃ (s : State) (i : _),
    ((axisOf s i).st = 1)
    ∧ ((axisOf s i).ready = false))
    ∧ (∃ (s : State) (i : _),
    ((axisOf s i).st = 1)
    ∧ ((axisOf s i).ready = true))
    ∧ (∃ (s : State) (i : _),
    ((axisOf s i).st = 3)
    ∧ ((axisOf s i).braking = true))
    ∧ (∃ (s : State),
    (s.mc.axes.length = 6))
    ∧ (∃ (s : State) (ins : List AxisIn),
    (s.mc.halted = false)
    ∧ (s.mc.axes.length = 6)) := by
  refine ⟨⟨wAx { resetAxis with st := 2 }, 3, true, ?_, ?_⟩, ⟨wAx { resetAxis with st := 1 }, 3, ?_, ?_⟩, ⟨wAx { resetAxis with st := 1, ready := true }, 3, ?_, ?_⟩, ⟨wAx { resetAxis with st := 3, braking := true, cause := 2 }, 3, ?_, ?_⟩, ⟨wAx { resetAxis with st := 2 }, ?_⟩, ⟨wAx { resetAxis with st := 2 }, [], ?_, ?_⟩⟩ <;> decide +kernel

theorem witness_HeaterPeriods :
    (∃ (s : State) (c : _) (code : Nat),
    ((takeParams (heaterOf s c)).en = false)
    ∧ (s.mc.heaters.length = 2)
    ∧ (c < 2))
    ∧ (∃ (s : State) (c : _) (code : Nat),
    ((takeParams (heaterOf s c)).en = true)
    ∧ (ntcOpen code = true)
    ∧ (s.mc.heaters.length = 2)
    ∧ (c < 2))
    ∧ (∃ (s : State) (c : _) (code : Nat),
    ((takeParams (heaterOf s c)).en = true)
    ∧ ((takeParams (heaterOf s c)).overs = false)
    ∧ (ntcOpen code = false)
    ∧ (s.mc.crit = false)
    ∧ (s.mc.heaters.length = 2)
    ∧ (c < 2)) := by
  refine ⟨⟨wHeat resetHeater, 1, 2000, ?_, ?_, ?_⟩, ⟨wHeat { resetHeater with en := true }, 1, 4090, ?_, ?_, ?_, ?_⟩, ⟨wHeat { resetHeater with en := true }, 1, 2000, ?_, ?_, ?_, ?_, ?_, ?_⟩⟩ <;> decide +kernel

theorem witness_ThermalEvents :
    (∃ (s : State) (q : Int),
    (q < 432))
    ∧ (∃ (s : State) (q : Int),
    (432 ≤ q)
    ∧ (s.mc.crit = false)
    ∧ (s.mc.axes.length = 6))
    ∧ (∃ (s : State),
    (s.mc.level ≠ 0)
    ∧ (levelHolds s s.mc.level ⟨2, 1⟩ ⟨1, 20⟩ = false))
    ∧ (∃ (s : State),
    (qLt s.mc.tj (qInt 100) = true)) := by
  refine ⟨⟨wS, 300, ?_⟩, ⟨wAx { resetAxis with st := 2 }, 432, ?_, ?_, ?_⟩, ⟨{ wS with mc := { wS.mc with level := 1 } }, ?_, ?_⟩, ⟨{ wS with mc := { wS.mc with lockout := true } }, ?_⟩⟩ <;> decide +kernel

theorem witness_Resets :
    (∃ (s : State),
    (inert s = false))
    ∧ (∃ (s : State),
    (inert s = false)
    ∧ (s.pw.resetLow = true))
    ∧ (∃ (s : State),
    (inert s = false)
    ∧ (s.pw.pins.pwrenMain = true))
    ∧ (∃ (s : State),
    (inert s = false))
    ∧ (∃ (s : State),
    (s.pw.partReset = true)) := by
  refine ⟨⟨wS, ?_⟩, ⟨{ wS with pw := { wS.pw with resetLow := true } }, ?_, ?_⟩, ⟨wS, ?_, ?_⟩, ⟨wS, ?_⟩, ⟨{ wS with pw := { wS.pw with partReset := true } }, ?_⟩⟩ <;> decide +kernel

theorem witness_StartUp :
    (∃ (s : State),
    (inert s = false)
    ∧ (s.pw.st ≠ .off)
    ∧ (s.pw.st ≠ .deepSleep)
    ∧ (s.pw.resetLow = false)
    ∧ (s.pw.started = false)
    ∧ (s.pw.cause ≠ 32)
    ∧ (imageValid s true = true))
    ∧ (∃ (s : State),
    (inert s = false)
    ∧ (s.pw.st ≠ .off)
    ∧ (s.pw.st ≠ .deepSleep)
    ∧ (s.pw.resetLow = false)
    ∧ (s.pw.started = false)
    ∧ (s.pw.cause ≠ 32))
    ∧ (∃ (s : State),
    (s.pw.started = true)
    ∧ (s.pw.phase = 0)
    ∧ (s.pw.cause ≠ 32)
    ∧ (s.pw.boot.present = true))
    ∧ (∃ (s : State) (ch : Nat) (lane : Nat) (lanes : List (Nat × Nat)),
    (s.pw.phase = 3))
    ∧ (∃ (s : State) (ch : Nat) (lane : Nat) (lanes : List (Nat × Nat)),
    (s.pw.phase = 3))
    ∧ (∃ (s : State),
    (s.pw.phase = 4)
    ∧ (s.pw.cause ≠ 32)
    ∧ (bootAuto s = false)
    ∧ (s.fc.pscFailed = []))
    ∧ (∃ (s : State),
    (bootAuto s = true)
    ∧ (bootFree s = true)
    ∧ (s.ring.gSync = false)
    ∧ (s.hp.running = false)
    ∧ (s.hp.freeRun = false)
    ∧ (s.pw.started = true)
    ∧ (s.pw.phase = 5)) := by
  refine ⟨⟨State.reset, ?_, ?_, ?_, ?_, ?_, ?_, ?_⟩, ⟨State.reset, ?_, ?_, ?_, ?_, ?_, ?_⟩, ⟨{ wS with pw := { wS.pw with phase := 0, boot := ⟨true, wBoot⟩ } }, ?_, ?_, ?_, ?_⟩, ⟨{ wS with pw := { wS.pw with phase := 3 } }, 0, 0, [], ?_⟩, ⟨{ wS with pw := { wS.pw with phase := 3 } }, 1, 4, [(1, 2)], ?_⟩, ⟨{ wS with pw := { wS.pw with phase := 4 } }, ?_, ?_, ?_, ?_⟩, ⟨{ wS with pw := { wS.pw with phase := 5, boot := ⟨true, wBoot.set 1 11⟩ } }, ?_, ?_, ?_, ?_, ?_, ?_, ?_⟩⟩ <;> decide +kernel

theorem witness_WakesAndDomains :
    (∃ (s : State),
    (s.pw.entering = none)
    ∧ (s.pw.st = .sleep))
    ∧ (∃ (s : State),
    (s.pw.entering = none)
    ∧ (s.pw.st = .deepSleep))
    ∧ (∃ (s : State),
    (s.pw.entering = none)
    ∧ (s.pw.st = .off))
    ∧ (∃ (s : State) (p : _),
    (p < 7))
    ∧ (∃ (s : State) (d : _),
    ((domOf s d).pwr = 2)
    ∧ (domVoted s d = false)
    ∧ (domsLive s = true))
    ∧ (∃ (s : State) (d : Nat),
    ((domOf s d).pwr = 4))
    ∧ (∃ (s : State) (d : Nat),
    ((domOf s d).pwr = 1)) := by
  refine ⟨⟨{ wS with pw := { wS.pw with st := .sleep } }, ?_, ?_⟩, ⟨{ wS with pw := { wS.pw with st := .deepSleep } }, ?_, ?_⟩, ⟨{ wS with pw := { wS.pw with st := .off } }, ?_, ?_⟩, ⟨wS, 2, ?_⟩, ⟨wDom 2, 6, ?_, ?_, ?_⟩, ⟨wDom 4, 6, ?_⟩, ⟨wDom 1, 6, ?_⟩⟩ <;> decide +kernel

theorem witness_FaultCollector :
    (∃ (s : State) (m : FaultMsg),
    ((countSource s.now (sourceOf s (nextOf s m).kind (nextOf s m).unit)).cls ≠ 3)
    ∧ (s.fc.pending.length < 60))
    ∧ (∃ (s : State) (p : Pending),
    (s.pw.newelHalt = false)
    ∧ ((s.fc.pending.find? fun p => p.cls == 3).or s.fc.pending.head? = some p))
    ∧ (∃ (s : State) (w : Word),
    (bit w 31 = true))
    ∧ (∃ (s : State) (w : Word),
    (bit w 31 = false))
    ∧ (∃ (s : State) (v : Word),
    ((s.fc.errqW - v).toNat ≤ 4096))
    ∧ (∃ (s : State) (v : Word),
    (4096 < (s.fc.errqW - v).toNat)) := by
  refine ⟨⟨wS, ⟨0x350, 0x03, 72, 0xFFF, 0x7FF, 1, 2, 0xFFFF, 0, []⟩, ?_, ?_⟩, ⟨{ wS with fc := { wS.fc with pending := [⟨⟨0x350, 0x03, 72, 0xFFF, 0x7FF, 1, 2, 0xFFFF, 0, []⟩, 0, 1, 1⟩] } }, ⟨⟨0x350, 0x03, 72, 0xFFF, 0x7FF, 1, 2, 0xFFFF, 0, []⟩, 0, 1, 1⟩, ?_, ?_⟩, ⟨wS, 0x80000000, ?_⟩, ⟨wS, 7, ?_⟩, ⟨wS, 0xFFFFFFFF, ?_⟩, ⟨wS, 1, ?_⟩⟩ <;> decide +kernel

theorem witness_TileCycles :
    (∃ (s : State),
    (s.tt.set = false))
    ∧ (∃ (s : State),
    (s.tt.set = true)
    ∧ (s.pw.st = .run)
    ∧ (s.tt.epoch ≤ s.now)) := by
  refine ⟨⟨wS, ?_⟩, ⟨{ wS with tt := { wS.tt with set := true, epoch := 5000 } }, ?_, ?_, ?_⟩⟩ <;> decide +kernel

theorem witness_QueueCommands :
    (∃ (s : State) (q : Nat) (e : Nat) (k : Nat) (after : Bool) (va : Nat) (h : Nat) (load : Bool) (list : Nat) (cw : Nat) (x : Queue),
    (freeToRun s q after x (.mxList h load list cw) = true)
    ∧ (h < 4)
    ∧ (s.mh.halls.length = 4)
    ∧ (x.owner ≠ 0x300))
    ∧ (∃ (s : State) (q : Nat) (e : Nat) (k : Nat) (after : Bool) (va : Nat) (b : Nat) (list : Nat) (cw : Nat) (x : Queue) (y : Batch),
    (freeToRun s q after x (.seqStep b list cw) = true)
    ∧ (batchOf s b = some y)
    ∧ (y.ctx = x.owner)
    ∧ (y.hall < 4)
    ∧ (s.mh.halls.length = 4)
    ∧ (x.owner ≠ 0x300))
    ∧ (∃ (s : State) (q : Nat) (e : Nat) (k : Nat) (after : Bool) (va : Nat) (b : Nat) (j : Nat) (x : Queue) (y : Batch),
    (freeToRun s q after x (.seqJoin b j) = true)
    ∧ (batchOf s b = some y)
    ∧ (y.ctx = x.owner)
    ∧ (y.hall < 4)
    ∧ (x.owner ≠ 0x300)
    ∧ (j < y.q)
    ∧ ((y.active.any fun p => p.1 == j) = false)
    ∧ ((y.waiting.any fun w => w.join && w.seq == j) = false))
    ∧ (∃ (s : State) (q : Nat) (e : Nat) (k : Nat) (after : Bool) (va : Nat) (b : Nat) (j : Nat) (x : Queue) (y : Batch),
    (freeToRun s q after x (.seqLeave b j) = true)
    ∧ (batchOf s b = some y)
    ∧ (y.ctx = x.owner)
    ∧ (y.hall < 4)
    ∧ (x.owner ≠ 0x300)
    ∧ (j < y.q)
    ∧ ((y.active.any fun p => p.1 == j) = true))
    ∧ (∃ (s : State) (q : Nat) (e : Nat) (k : Nat) (after : Bool) (va : Nat) (a : Nat) (ind : List (Option Nat)) (x : Queue) (w : List Word) (p : List Word),
    (freeToRun s q after x (.launch a ind) = true)
    ∧ (x.owner ≠ 0x300)
    ∧ (indCode (.launch a ind) = none)
    ∧ ((readStruct s x.owner a 64 1).toOption = some w)
    ∧ (structOk w 64 launchRsv = none)
    ∧ (s.mem.upsets = [])
    ∧ ((readStruct (sawStruct s x.owner a w) x.owner ((wd w 1).toNat + bits (wd w 2) 15 0 * 2 ^ 32) 128 4).toOption = some p)
    ∧ (launchCheck s x.owner w p (launchDims w ind) = none))
    ∧ (∃ (s : State) (q : Nat) (e : Nat) (k : Nat) (after : Bool) (va : Nat) (a : Nat) (ind : List (Option Nat)) (x : Queue) (w : List Word) (vs : List Word) (fs : List Word) (col : List Word) (dep : List Word) (s1 : State) (s2 : State) (s3 : State) (s4 : State) (s5 : State),
    (freeToRun s q after x (.pass a ind) = true)
    ∧ (x.owner ≠ 0x300)
    ∧ (indCode (.pass a ind) = none)
    ∧ (s.mem.upsets = [])
    ∧ ((fetchStruct s ((⟨x.owner, q, e, k⟩ : CmdRef)) a 128 1).toOption = some (s1, w))
    ∧ (structOk w 128 passRsv = none)
    ∧ ((fetchStruct s1 ((⟨x.owner, q, e, k⟩ : CmdRef)) (va48 ((w.set 10 (((ind.getD 0 none).map fun v => BitVec.ofNat 32 v).getD (wd w 10))).set 11 (((ind.getD 1 none).map fun v => BitVec.ofNat 32 v).getD (wd w 11))) 4) 128 4).toOption = some (s2, vs))
    ∧ ((fetchStruct s2 ((⟨x.owner, q, e, k⟩ : CmdRef)) (va48 ((w.set 10 (((ind.getD 0 none).map fun v => BitVec.ofNat 32 v).getD (wd w 10))).set 11 (((ind.getD 1 none).map fun v => BitVec.ofNat 32 v).getD (wd w 11))) 6) 128 4).toOption = some (s3, fs))
    ∧ ((fetchStruct s3 ((⟨x.owner, q, e, k⟩ : CmdRef)) (pColour ((w.set 10 (((ind.getD 0 none).map fun v => BitVec.ofNat 32 v).getD (wd w 10))).set 11 (((ind.getD 1 none).map fun v => BitVec.ofNat 32 v).getD (wd w 11)))) 64 1).toOption = some (s4, col))
    ∧ ((if pDepth ((w.set 10 (((ind.getD 0 none).map fun v => BitVec.ofNat 32 v).getD (wd w 10))).set 11 (((ind.getD 1 none).map fun v => BitVec.ofNat 32 v).getD (wd w 11))) = 0 then Except.ok (s4, []) else fetchStruct s4 ((⟨x.owner, q, e, k⟩ : CmdRef)) (pDepth ((w.set 10 (((ind.getD 0 none).map fun v => BitVec.ofNat 32 v).getD (wd w 10))).set 11 (((ind.getD 1 none).map fun v => BitVec.ofNat 32 v).getD (wd w 11)))) 64 1).toOption = some (s5, dep))
    ∧ (passCheck s x.owner ((w.set 10 (((ind.getD 0 none).map fun v => BitVec.ofNat 32 v).getD (wd w 10))).set 11 (((ind.getD 1 none).map fun v => BitVec.ofNat 32 v).getD (wd w 11))) vs fs col dep = none)
    ∧ (pMode ((w.set 10 (((ind.getD 0 none).map fun v => BitVec.ofNat 32 v).getD (wd w 10))).set 11 (((ind.getD 1 none).map fun v => BitVec.ofNat 32 v).getD (wd w 11))) = 1))
    ∧ (∃ (s : State) (q : Nat) (e : Nat) (k : Nat) (after : Bool) (va : Nat) (a : Nat) (x : Queue) (w : List Word) (f : Feed) (surf : List Word) (s1 : State) (s2 : State),
    (freeToRun s q after x (.present a) = true)
    ∧ (x.owner ≠ 0x300)
    ∧ (s.mem.upsets = [])
    ∧ ((fetchFrom 0x350 uGallery s ⟨x.owner, q, e, k⟩ a 48 1).toOption = some (s1, w))
    ∧ (structOk w 48 presRsv = none)
    ∧ (feedOf s (prFeed w) = some f)
    ∧ (f.bound = true)
    ∧ (fOwner f.words = x.owner)
    ∧ ((fetchFrom 0x350 uGallery s1 ⟨x.owner, q, e, k⟩ (prSurf w) 64 1).toOption = some (s2, surf))
    ∧ (surfCheck surf = none)
    ∧ (fmtLayer (sFmt surf) = true))
    ∧ (∃ (s : State) (q : Nat) (e : Nat) (k : Nat) (after : Bool) (va : Nat) (a : Nat) (x : Queue),
    (freeToRun s q after x (.encode a) = true)
    ∧ (x.owner ≠ 0x300))
    ∧ (∃ (s : State) (q : Nat) (e : Nat) (k : Nat) (after : Bool) (va : Nat) (a : Nat) (x : Queue),
    (freeToRun s q after x (.decode a) = true)
    ∧ (x.owner ≠ 0x300))
    ∧ (∃ (s : State) (q : Nat) (e : Nat) (k : Nat) (after : Bool) (va : Nat) (src : Nat) (dst : Nat) (n : Nat) (ind : List (Option Nat)) (x : Queue) (bar : Nat) (off : Nat) (pa : Nat) (d : Nat) (pol : Nat),
    (freeToRun s q after x (.xfer src dst n ind) = true)
    ∧ (indCode (.xfer src dst n ind) = none)
    ∧ (s.ob.mode = 2)
    ∧ (s.ob.link = true)
    ∧ ((s.ob.xfers.any fun z => z.ref == ⟨x.owner, q, e, k⟩) = false)
    ∧ (0 < ((ind.getD 0 none).getD n))
    ∧ (((ind.getD 0 none).getD n) % 4 = 0)
    ∧ ((translate s x.owner src 1).toOption = some (.window bar off))
    ∧ ((translate s x.owner dst 2).toOption = some (.mem pa d pol)))
    ∧ (∃ (s : State) (q : Nat) (e : Nat) (k : Nat) (after : Bool) (va : Nat) (f : Nat) (ie : Bool) (v : Nat) (x : Queue) (y : Fence),
    (freeToRun s q after x (.fenceWait f ie v) = true)
    ∧ (fenceOf s f = some y)
    ∧ (fenceRight y x.owner % 2 = 1)
    ∧ ((y.st ≠ .ok ∧ ie = true ∨ y.st = .ok ∧ v ≤ y.value))
    ∧ (x.out = [])
    ∧ (x.entries = [])
    ∧ ((s.cc.queues.all fun p => p.2.st != .blocked) = true))
    ∧ (∃ (s : State) (q : Nat) (e : Nat) (k : Nat) (after : Bool) (va : Nat) (f : Nat) (ie : Bool) (v : Nat) (x : Queue) (y : Fence),
    (freeToRun s q after x (.fenceWait f ie v) = true)
    ∧ (fenceOf s f = some y)
    ∧ (fenceRight y x.owner % 2 = 1)
    ∧ (y.st = .ok)
    ∧ (y.value < v)
    ∧ (x.entries = [])
    ∧ ((s.cc.queues.map Prod.fst).Nodup)
    ∧ ((s.cc.queues.all fun p => p.2.st != .blocked) = true))
    ∧ (∃ (s : State) (q : Nat) (e : Nat) (k : Nat) (after : Bool) (va : Nat) (f : Nat) (v : Nat) (x : Queue) (y : Fence),
    (freeToRun s q after x (.fenceSignal f v) = true)
    ∧ (fenceOf s f = some y)
    ∧ (fenceRight y x.owner / 2 % 2 = 1)
    ∧ (x.out = [])
    ∧ (x.entries = [])
    ∧ ((s.cc.queues.all fun p => p.2.st != .blocked) = true)) := by
  refine ⟨⟨(wQ []), 0, 0, 0, false, 0, 2, false, 0x110000, 0, wQueue, ?_, ?_, ?_, ?_⟩, ⟨(wQ []), 0, 0, 0, false, 0, 1, 0x110000, 0, wQueue, ⟨5, 2, 0, 256, 4, 0, 0, 8, 2, [(0, 0)], []⟩, ?_, ?_, ?_, ?_, ?_, ?_⟩, ⟨(wQ []), 0, 0, 0, false, 0, 1, 1, wQueue, ⟨5, 2, 0, 256, 4, 0, 0, 8, 2, [(0, 0)], []⟩, ?_, ?_, ?_, ?_, ?_, ?_, ?_, ?_⟩, ⟨(wQ []), 0, 0, 0, false, 0, 1, 0, wQueue, ⟨5, 2, 0, 256, 4, 0, 0, 8, 2, [(0, 0)], []⟩, ?_, ?_, ?_, ?_, ?_, ?_, ?_⟩, ⟨(wQ (wMem 0x10000 wLaunchW (wMem 0x10100 wProgW []))), 0, 0, 0, false, 0, 0x110000, [], wQueue, wLaunchW, wProgW, ?_, ?_, ?_, ?_, ?_, ?_, ?_, ?_⟩, ⟨(wQ (wMem 0x10200 wDrawW (wMem 0x10100 wProgW (wMem 0x10300 wSurfW [])))), 0, 0, 0, false, 0, 0x110200, [], wQueue, wDrawW, wProgW, wProgW, wSurfW, [], (((fetchStruct (wQ (wMem 0x10200 wDrawW (wMem 0x10100 wProgW (wMem 0x10300 wSurfW [])))) ⟨wQueue.owner, 0, 0, 0⟩ 0x110200 128 1).toOption.map Prod.fst).getD wS), (((fetchStruct (((fetchStruct (wQ (wMem 0x10200 wDrawW (wMem 0x10100 wProgW (wMem 0x10300 wSurfW [])))) ⟨wQueue.owner, 0, 0, 0⟩ 0x110200 128 1).toOption.map Prod.fst).getD wS) ⟨wQueue.owner, 0, 0, 0⟩ (va48 ((wDrawW.set 10 ((([].getD 0 none).map fun v => BitVec.ofNat 32 v).getD (wd wDrawW 10))).set 11 ((([].getD 1 none).map fun v => BitVec.ofNat 32 v).getD (wd wDrawW 11))) 4) 128 4).toOption.map Prod.fst).getD wS), (((fetchStruct (((fetchStruct (((fetchStruct (wQ (wMem 0x10200 wDrawW (wMem 0x10100 wProgW (wMem 0x10300 wSurfW [])))) ⟨wQueue.owner, 0, 0, 0⟩ 0x110200 128 1).toOption.map Prod.fst).getD wS) ⟨wQueue.owner, 0, 0, 0⟩ (va48 ((wDrawW.set 10 ((([].getD 0 none).map fun v => BitVec.ofNat 32 v).getD (wd wDrawW 10))).set 11 ((([].getD 1 none).map fun v => BitVec.ofNat 32 v).getD (wd wDrawW 11))) 4) 128 4).toOption.map Prod.fst).getD wS) ⟨wQueue.owner, 0, 0, 0⟩ (va48 ((wDrawW.set 10 ((([].getD 0 none).map fun v => BitVec.ofNat 32 v).getD (wd wDrawW 10))).set 11 ((([].getD 1 none).map fun v => BitVec.ofNat 32 v).getD (wd wDrawW 11))) 6) 128 4).toOption.map Prod.fst).getD wS), (((fetchStruct (((fetchStruct (((fetchStruct (((fetchStruct (wQ (wMem 0x10200 wDrawW (wMem 0x10100 wProgW (wMem 0x10300 wSurfW [])))) ⟨wQueue.owner, 0, 0, 0⟩ 0x110200 128 1).toOption.map Prod.fst).getD wS) ⟨wQueue.owner, 0, 0, 0⟩ (va48 ((wDrawW.set 10 ((([].getD 0 none).map fun v => BitVec.ofNat 32 v).getD (wd wDrawW 10))).set 11 ((([].getD 1 none).map fun v => BitVec.ofNat 32 v).getD (wd wDrawW 11))) 4) 128 4).toOption.map Prod.fst).getD wS) ⟨wQueue.owner, 0, 0, 0⟩ (va48 ((wDrawW.set 10 ((([].getD 0 none).map fun v => BitVec.ofNat 32 v).getD (wd wDrawW 10))).set 11 ((([].getD 1 none).map fun v => BitVec.ofNat 32 v).getD (wd wDrawW 11))) 6) 128 4).toOption.map Prod.fst).getD wS) ⟨wQueue.owner, 0, 0, 0⟩ (pColour ((wDrawW.set 10 ((([].getD 0 none).map fun v => BitVec.ofNat 32 v).getD (wd wDrawW 10))).set 11 ((([].getD 1 none).map fun v => BitVec.ofNat 32 v).getD (wd wDrawW 11)))) 64 1).toOption.map Prod.fst).getD wS), (((if pDepth ((wDrawW.set 10 ((([].getD 0 none).map fun v => BitVec.ofNat 32 v).getD (wd wDrawW 10))).set 11 ((([].getD 1 none).map fun v => BitVec.ofNat 32 v).getD (wd wDrawW 11))) = 0 then Except.ok ( (((fetchStruct (((fetchStruct (((fetchStruct (((fetchStruct (wQ (wMem 0x10200 wDrawW (wMem 0x10100 wProgW (wMem 0x10300 wSurfW [])))) ⟨wQueue.owner, 0, 0, 0⟩ 0x110200 128 1).toOption.map Prod.fst).getD wS) ⟨wQueue.owner, 0, 0, 0⟩ (va48 ((wDrawW.set 10 ((([].getD 0 none).map fun v => BitVec.ofNat 32 v).getD (wd wDrawW 10))).set 11 ((([].getD 1 none).map fun v => BitVec.ofNat 32 v).getD (wd wDrawW 11))) 4) 128 4).toOption.map Prod.fst).getD wS) ⟨wQueue.owner, 0, 0, 0⟩ (va48 ((wDrawW.set 10 ((([].getD 0 none).map fun v => BitVec.ofNat 32 v).getD (wd wDrawW 10))).set 11 ((([].getD 1 none).map fun v => BitVec.ofNat 32 v).getD (wd wDrawW 11))) 6) 128 4).toOption.map Prod.fst).getD wS) ⟨wQueue.owner, 0, 0, 0⟩ (pColour ((wDrawW.set 10 ((([].getD 0 none).map fun v => BitVec.ofNat 32 v).getD (wd wDrawW 10))).set 11 ((([].getD 1 none).map fun v => BitVec.ofNat 32 v).getD (wd wDrawW 11)))) 64 1).toOption.map Prod.fst).getD wS) , []) else fetchStruct (((fetchStruct (((fetchStruct (((fetchStruct (((fetchStruct (wQ (wMem 0x10200 wDrawW (wMem 0x10100 wProgW (wMem 0x10300 wSurfW [])))) ⟨wQueue.owner, 0, 0, 0⟩ 0x110200 128 1).toOption.map Prod.fst).getD wS) ⟨wQueue.owner, 0, 0, 0⟩ (va48 ((wDrawW.set 10 ((([].getD 0 none).map fun v => BitVec.ofNat 32 v).getD (wd wDrawW 10))).set 11 ((([].getD 1 none).map fun v => BitVec.ofNat 32 v).getD (wd wDrawW 11))) 4) 128 4).toOption.map Prod.fst).getD wS) ⟨wQueue.owner, 0, 0, 0⟩ (va48 ((wDrawW.set 10 ((([].getD 0 none).map fun v => BitVec.ofNat 32 v).getD (wd wDrawW 10))).set 11 ((([].getD 1 none).map fun v => BitVec.ofNat 32 v).getD (wd wDrawW 11))) 6) 128 4).toOption.map Prod.fst).getD wS) ⟨wQueue.owner, 0, 0, 0⟩ (pColour ((wDrawW.set 10 ((([].getD 0 none).map fun v => BitVec.ofNat 32 v).getD (wd wDrawW 10))).set 11 ((([].getD 1 none).map fun v => BitVec.ofNat 32 v).getD (wd wDrawW 11)))) 64 1).toOption.map Prod.fst).getD wS) ⟨wQueue.owner, 0, 0, 0⟩ (pDepth ((wDrawW.set 10 ((([].getD 0 none).map fun v => BitVec.ofNat 32 v).getD (wd wDrawW 10))).set 11 ((([].getD 1 none).map fun v => BitVec.ofNat 32 v).getD (wd wDrawW 11)))) 64 1).toOption.map Prod.fst).getD wS), ?_, ?_, ?_, ?_, ?_, ?_, ?_, ?_, ?_, ?_, ?_, ?_⟩, ⟨(wQ (wMem 0x10400 wPresW (wMem 0x10300 wSurfW []))), 0, 0, 0, false, 0, 0x110400, wQueue, wPresW, (wFeed none []), wSurfW, (((fetchFrom 0x350 uGallery (wQ (wMem 0x10400 wPresW (wMem 0x10300 wSurfW []))) ⟨wQueue.owner, 0, 0, 0⟩ 0x110400 48 1).toOption.map Prod.fst).getD wS), (((fetchFrom 0x350 uGallery (((fetchFrom 0x350 uGallery (wQ (wMem 0x10400 wPresW (wMem 0x10300 wSurfW []))) ⟨wQueue.owner, 0, 0, 0⟩ 0x110400 48 1).toOption.map Prod.fst).getD wS) ⟨wQueue.owner, 0, 0, 0⟩ (prSurf wPresW) 64 1).toOption.map Prod.fst).getD wS), ?_, ?_, ?_, ?_, ?_, ?_, ?_, ?_, ?_, ?_, ?_⟩, ⟨(wQ []), 0, 0, 0, false, 0, 0x110000, wQueue, ?_, ?_⟩, ⟨(wQ []), 0, 0, 0, false, 0, 0x110000, wQueue, ?_, ?_⟩, ⟨wMove, 0, 0, 0, false, 0, 0x300000, 0x100000, 64, [], wQueue, 0, 0, 0, 5, 0, ?_, ?_, ?_, ?_, ?_, ?_, ?_, ?_, ?_⟩, ⟨(wQ []), 0, 0, 0, false, 0, 0, false, 3, wQueue, ⟨5, 3, .ok, [(7, 3)], []⟩, ?_, ?_, ?_, ?_, ?_, ?_, ?_⟩, ⟨(wQ []), 0, 0, 0, false, 0, 0, false, 4, wQueue, ⟨5, 3, .ok, [(7, 3)], []⟩, ?_, ?_, ?_, ?_, ?_, ?_, ?_, ?_⟩, ⟨(wQ []), 0, 0, 0, false, 0, 0, 4, wQueue, ⟨5, 3, .ok, [(7, 3)], []⟩, ?_, ?_, ?_, ?_, ?_, ?_⟩⟩ <;> first | decide +kernel | (exact wit_read _ _ (by decide +kernel))

theorem witness_MatrixInstructions :
    (∃ (s : State) (p : ThreadsAt) (w : DWord) (x : Subset) (l : Launch) (m : Nat) (b : Block) (k : Nat),
    (mxOk w 0 = true)
    ∧ (lastArrival s p x l m = true)
    ∧ (blockAt s p = some b)
    ∧ (((List.range 16).find? fun k => !((coreOf s p.core).tokens.getD k default).held) = some k)
    ∧ (((regGet s p (lowLane m) (bits w 43 36)).toNat) % 128 = 0)
    ∧ (b.lsBase + ((regGet s p (lowLane m) (bits w 43 36)).toNat) + 128 ≤ l.split * 32768)
    ∧ (hallRoom s (bits w 35 34) false l.ref.ctx = true)
    ∧ (s.mh.halls.length = 4)
    ∧ ((domOf s (bits w 35 34)).pwr = 2))
    ∧ (∃ (s : State) (p : ThreadsAt) (w : DWord) (x : Subset) (l : Launch) (m : Nat) (b : Block) (d : Nat),
    (mxOk w 0 = true)
    ∧ (lastArrival s p x l m = true)
    ∧ (blockAt s p = some b)
    ∧ ((domOf s (bits w 35 34)).pwr = d)
    ∧ (d ≠ 2))
    ∧ (∃ (s : State) (p : ThreadsAt) (w : DWord) (x : Subset) (l : Launch),
    (mxOk w 2 = true)
    ∧ (issues s p x l = true)
    ∧ (tokenSlot s p.core (regGet s p (lowLane x.lanes) (bits w 43 36)) = none))
    ∧ (∃ (s : State) (p : ThreadsAt) (w : DWord) (x : Subset) (l : Launch) (k : Nat),
    (mxOk w 2 = true)
    ∧ (issues s p x l = true)
    ∧ (tokenSlot s p.core (regGet s p (lowLane x.lanes) (bits w 43 36)) = some k)
    ∧ (((coreOf s p.core).tokens.getD k default).word = none))
    ∧ (∃ (s : State) (p : ThreadsAt) (w : DWord) (x : Subset) (l : Launch) (k : Nat) (v : Word),
    (mxOk w 2 = true)
    ∧ (issues s p x l = true)
    ∧ (tokenSlot s p.core (regGet s p (lowLane x.lanes) (bits w 43 36)) = some k)
    ∧ (((coreOf s p.core).tokens.getD k default).word = some v))
    ∧ (∃ (s : State) (p : ThreadsAt) (w : DWord) (x : Subset) (l : Launch) (k : Nat) (v : Word),
    (mxOk w 1 = true)
    ∧ (issues s p x l = true)
    ∧ (tokenSlot s p.core (regGet s p (lowLane x.lanes) (bits w 43 36)) = some k)
    ∧ (((coreOf s p.core).tokens.getD k default).word = some v))
    ∧ (∃ (s : State) (p : ThreadsAt) (w : DWord) (x : Subset) (l : Launch) (k : Nat),
    (mxOk w 1 = true)
    ∧ (issues s p x l = true)
    ∧ (tokenSlot s p.core (regGet s p (lowLane x.lanes) (bits w 43 36)) = some k)
    ∧ (((coreOf s p.core).tokens.getD k default).word = none)) := by
  refine ⟨⟨(wShOf wL (wCore [wBlk [wSub 1 .run, wSub 2 .coll] (some (3, 0)) []] (List.replicate 16 ⟨0, false, 0, 0, none⟩)) (wDom 2)), wAt, (mxW 0 + 0x2000000000 + 0x400000000), (wSub 1 .run), wL, 3, (wBlk [wSub 1 .run, wSub 2 .coll] (some (3, 0)) []), 0, ?_, ?_, ?_, ?_, ?_, ?_, ?_, ?_, ?_⟩, ⟨(wShOf wL (wCore [wBlk [wSub 1 .run, wSub 2 .coll] (some (3, 0)) []] (List.replicate 16 ⟨0, false, 0, 0, none⟩)) (wDom 1)), wAt, (mxW 0 + 0x2000000000 + 0x400000000), (wSub 1 .run), wL, 3, (wBlk [wSub 1 .run, wSub 2 .coll] (some (3, 0)) []), 1, ?_, ?_, ?_, ?_, ?_⟩, ⟨(wTok none), wAt, (mxW 2 + 0x1000000000), (wSub 1 .run), wL, ?_, ?_, ?_⟩, ⟨(wTok none), wAt, (mxW 2), (wSub 1 .run), wL, 0, ?_, ?_, ?_, ?_⟩, ⟨(wTok (some 7)), wAt, (mxW 2), (wSub 1 .run), wL, 0, 7, ?_, ?_, ?_, ?_⟩, ⟨(wTok (some 7)), wAt, (mxW 1), (wSub 1 .run), wL, 0, 7, ?_, ?_, ?_, ?_⟩, ⟨(wTok none), wAt, (mxW 1), (wSub 1 .run), wL, 0, ?_, ?_, ?_, ?_⟩⟩ <;> decide +kernel

theorem witness_CollectiveRegions :
    (∃ (s : State) (p : ThreadsAt) (w : DWord) (x : Subset) (l : Launch) (g : Group),
    (syncOk w 0 = true)
    ∧ (issues s p x l = true)
    ∧ (groupAt s p = some g)
    ∧ (g.region = none)
    ∧ (((g.subsets.eraseIdx p.sub).all fun y => y.wait == .coll && y.pc == x.pc) = true))
    ∧ (∃ (s : State) (p : ThreadsAt) (w : DWord) (x : Subset) (l : Launch) (g : Group) (m : Nat) (c : Nat),
    (syncOk w 1 = true)
    ∧ (issues s p x l = true)
    ∧ (groupAt s p = some g)
    ∧ (g.region = some (m, c))
    ∧ (subMask x.lanes m = true)
    ∧ (disjointMasks x.lanes c = true)
    ∧ (waitingColl g x.lanes = none))
    ∧ (∃ (s : State) (p : ThreadsAt) (x : Subset) (l : Launch) (m : Nat) (dst : Nat) (src : Nat) (sel : Nat),
    (lastArrival s p x l m = true))
    ∧ (∃ (s : State) (p : ThreadsAt) (x : Subset) (l : Launch) (m : Nat) (dst : Nat) (src : Nat),
    (lastArrival s p x l m = true))
    ∧ (∃ (s : State) (p : ThreadsAt) (x : Subset) (g : Group) (lid : Nat) (l : Launch),
    (groupAt s p = some g)
    ∧ (subAt s p = some x)
    ∧ (x.wait = .coll)
    ∧ (coreLive s p.core = true)
    ∧ (launchAt s p = some (lid, l))
    ∧ (g.subsets.foldl (fun m y => if y.wait = .coll ∧ y.pc = x.pc then m ||| y.lanes else m) 0 ≠ (if inRegion g x.lanes then (g.region.map Prod.fst).getD 0 else liveLanes g))) := by
  refine ⟨⟨(wShM [wSub 1 .run, wSub 2 .coll] none []), wAt, (syW 0 0), (wSub 1 .run), wL, ⟨[wSub 1 .run, wSub 2 .coll], none, 0⟩, ?_, ?_, ?_, ?_, ?_⟩, ⟨(wShM [wSub 1 .run, wSub 2 .run] (some (3, 0)) []), wAt, (syW 1 0), (wSub 1 .run), wL, ⟨[wSub 1 .run, wSub 2 .run], some (3, 0), 0⟩, 3, 0, ?_, ?_, ?_, ?_, ?_, ?_, ?_⟩, ⟨(wShM [wSub 1 .run, wSub 2 .coll] (some (3, 0)) []), wAt, (wSub 1 .run), wL, 3, 5, 3, 4, ?_⟩, ⟨(wShM [wSub 1 .run, wSub 2 .coll] (some (3, 0)) []), wAt, (wSub 1 .run), wL, 3, 5, 3, ?_⟩, ⟨(wShM [wSub 1 .run, wSub 2 .coll] (some (3, 0)) []), ⟨8, 0, 0, 1⟩, (wSub 2 .coll), ⟨[wSub 1 .run, wSub 2 .coll], some (3, 0), 0⟩, 0, wL, ?_, ?_, ?_, ?_, ?_, ?_⟩⟩ <;> decide +kernel

theorem witness_BarriersAndFences :
    (∃ (s : State) (p : ThreadsAt) (w : DWord) (x : Subset) (l : Launch) (b : Block) (n : Barrier),
    (issues s p x l = true)
    ∧ (blockAt s p = some b)
    ∧ (syncOk w 3 = true)
    ∧ (bits w 51 48 < l.barriers)
    ∧ (bits w 47 42 * 32 ≤ threads l.block)
    ∧ (((tget b.bars (bits w 51 48)).map Barrier.cnt).getD (bits w 47 42) = bits w 47 42)
    ∧ (n = Barrier.mk (bits w 47 42) ((((tget b.bars (bits w 51 48)).map Barrier.arrived).getD []) ++ ((lanesOf x.lanes).map fun i => p.grp * 32 + i).filter fun i => !(((tget b.bars (bits w 51 48)).map Barrier.arrived).getD []).contains i))
    ∧ (((tput b.bars (bits w 51 48) n).all fun y => !barDone b y.2) = true))
    ∧ (∃ (s : State) (p : ThreadsAt) (w : DWord) (x : Subset) (l : Launch) (b : Block) (n : Barrier) (g : Group),
    (issues s p x l = true)
    ∧ (blockAt s p = some b)
    ∧ (groupAt s p = some g)
    ∧ ((g.subsets.all fun y => y.wait != .join) = true)
    ∧ (syncOk w 2 = true)
    ∧ (bits w 51 48 < l.barriers)
    ∧ (bits w 47 42 * 32 ≤ threads l.block)
    ∧ (((tget b.bars (bits w 51 48)).map Barrier.cnt).getD (bits w 47 42) = bits w 47 42)
    ∧ (n = Barrier.mk (bits w 47 42) ((((tget b.bars (bits w 51 48)).map Barrier.arrived).getD []) ++ ((lanesOf x.lanes).map fun i => p.grp * 32 + i).filter fun i => !(((tget b.bars (bits w 51 48)).map Barrier.arrived).getD []).contains i))
    ∧ (((tput b.bars (bits w 51 48) n).all fun y => !barDone b y.2) = true))
    ∧ (∃ (s : State) (p : ThreadsAt) (w : DWord) (x : Subset) (l : Launch) (b : Block) (n : Barrier),
    (issues s p x l = true)
    ∧ (blockAt s p = some b)
    ∧ (syncOk w 2 = true)
    ∧ (bits w 51 48 < l.barriers)
    ∧ (bits w 47 42 * 32 ≤ threads l.block)
    ∧ (((tget b.bars (bits w 51 48)).map Barrier.cnt).getD (bits w 47 42) = bits w 47 42)
    ∧ (n = Barrier.mk (bits w 47 42) ((((tget b.bars (bits w 51 48)).map Barrier.arrived).getD []) ++ ((lanesOf x.lanes).map fun i => p.grp * 32 + i).filter fun i => !(((tget b.bars (bits w 51 48)).map Barrier.arrived).getD []).contains i))
    ∧ (barDone b n = true))
    ∧ (∃ (s : State) (p : ThreadsAt) (w : DWord) (x : Subset) (l : Launch),
    (issues s p x l = true)
    ∧ (syncOk w 4 = true)
    ∧ (bits w 41 40 < 2))
    ∧ (∃ (s : State) (p : ThreadsAt) (w : DWord) (x : Subset) (l : Launch),
    (issues s p x l = true)
    ∧ (syncOk w 4 = true)
    ∧ (2 ≤ bits w 41 40)
    ∧ (bits w 39 38 = 2))
    ∧ (∃ (s : State) (p : ThreadsAt) (w : DWord) (x : Subset) (l : Launch) (y : CacheLine),
    (issues s p x l = true)
    ∧ (syncOk w 4 = true)
    ∧ (2 ≤ bits w 41 40)
    ∧ (bits w 39 38 = 2)
    ∧ ((coreOf s p.core).cache = [y])
    ∧ (tagOk s y.addr y.tag = true))
    ∧ (∃ (s : State) (p : ThreadsAt) (w : DWord) (x : Subset) (l : Launch),
    (issues s p x l = true)
    ∧ (syncOk w 4 = true)
    ∧ (2 ≤ bits w 41 40)
    ∧ (bits w 39 38 = 1)) := by
  refine ⟨⟨(wShM [wSub 1 .run, wSub 2 .run] none []), wAt, (syW 3 0), (wSub 1 .run), wL, (wBlk [wSub 1 .run, wSub 2 .run] none []), ⟨0, [0]⟩, ?_, ?_, ?_, ?_, ?_, ?_, ?_, ?_⟩, ⟨(wShM [wSub 1 .run, wSub 2 .run] none []), wAt, (syW 2 0), (wSub 1 .run), wL, (wBlk [wSub 1 .run, wSub 2 .run] none []), ⟨0, [0]⟩, ⟨[wSub 1 .run, wSub 2 .run], none, 0⟩, ?_, ?_, ?_, ?_, ?_, ?_, ?_, ?_, ?_, ?_⟩, ⟨(wShM [wSub 1 .run, wSub 2 (.bar 0)] none [(0, ⟨0, [1]⟩)]), wAt, (syW 2 0), (wSub 1 .run), wL, (wBlk [wSub 1 .run, wSub 2 (.bar 0)] none [(0, ⟨0, [1]⟩)]), ⟨0, [1, 0]⟩, ?_, ?_, ?_, ?_, ?_, ?_, ?_, ?_⟩, ⟨(wOne wS), wAt, (syW 4 0), (wSub 1 .run), wL, ?_, ?_, ?_⟩, ⟨(wOne wS), wAt, (syW 4 (2 * 2 ^ 40 + 2 * 2 ^ 38)), (wSub 1 .run), wL, ?_, ?_, ?_, ?_⟩, ⟨wLined, wAt, (syW 4 (2 * 2 ^ 40 + 2 * 2 ^ 38)), (wSub 1 .run), wL, wLine, ?_, ?_, ?_, ?_, ?_, ?_⟩, ⟨wLined, wAt, (syW 4 (2 * 2 ^ 40 + 1 * 2 ^ 38)), (wSub 1 .run), wL, ?_, ?_, ?_, ?_⟩⟩ <;> decide +kernel

theorem witness_ShaderMemory :
    (∃ (s : State) (p : ThreadsAt) (addr : Nat) (src : Nat) (n : Nat) (x : Subset) (l : Launch) (i : Nat) (ps : List Place),
    (issues s p x l = true)
    ∧ (lanesOf x.lanes = [i])
    ∧ (n ≤ 4)
    ∧ ((places s p.core l.ref.ctx (pairAddr s p i addr) n 2).toOption = some ps)
    ∧ ((ps.all fun y => match y with | .mem _ _ pol => pol == 1 | .window _ _ => false) = true))
    ∧ (∃ (s : State) (p : ThreadsAt) (addr : Nat) (src : Nat) (n : Nat) (x : Subset) (l : Launch) (i : Nat) (ps : List Place),
    (issues s p x l = true)
    ∧ (lanesOf x.lanes = [i])
    ∧ (n ≤ 4)
    ∧ (cacheRoom s p.core n = true)
    ∧ ((places s p.core l.ref.ctx (pairAddr s p i addr) n 2).toOption = some ps)
    ∧ ((ps.all fun y => match y with | .mem _ _ pol => pol != 1 | .window _ _ => false) = true))
    ∧ (∃ (s : State) (p : ThreadsAt) (addr : Nat) (src : Nat) (n : Nat) (x : Subset) (l : Launch) (a : Nat) (i : Nat),
    (issues s p x l = true)
    ∧ (lanesOf x.lanes = [i])
    ∧ (n ≤ 4)
    ∧ (lsSpan s p (regGet s p i addr).toNat n = some a))
    ∧ (∃ (s : State) (p : ThreadsAt) (dst : Nat) (addr : Nat) (n : Nat) (x : Subset) (l : Launch) (i : Nat) (ps : List Place),
    (issues s p x l = true)
    ∧ (lanesOf x.lanes = [i])
    ∧ (n ≤ 4)
    ∧ (cacheRoom s p.core n = true)
    ∧ ((places s p.core l.ref.ctx (pairAddr s p i addr) n 1).toOption = some ps)
    ∧ ((ps.all fun y => !isWindow y) = true))
    ∧ (∃ (s : State) (p : ThreadsAt) (dst : Nat) (addr : Nat) (n : Nat) (x : Subset) (l : Launch),
    (issues s p x l = true)
    ∧ (n ≤ 4)
    ∧ (((lanesOf x.lanes).all fun i => (lsSpan s p (regGet s p i addr).toNat n).isSome) = true))
    ∧ (∃ (s : State) (p : ThreadsAt) (op : AtomOp) (dst : Nat) (addr : Nat) (src : Nat) (cmp : Nat) (x : Subset) (l : Launch) (i : Nat) (ps : List (Nat × Nat)),
    (issues s p x l = true)
    ∧ (lanesOf x.lanes = [i])
    ∧ ((translateN s l.ref.ctx (pairAddr s p i addr) 4 2).toOption = some ps)
    ∧ (s.mem.upsets = []))
    ∧ (∃ (s : State) (p : ThreadsAt) (op : AtomOp) (dst : Nat) (addr : Nat) (src : Nat) (cmp : Nat) (x : Subset) (l : Launch) (i : Nat) (a : Nat),
    (issues s p x l = true)
    ∧ (lanesOf x.lanes = [i])
    ∧ (lsSpan s p (regGet s p i addr).toNat 4 = some a))
    ∧ (∃ (s : State) (p : ThreadsAt) (dst : Nat) (surf : Nat) (cx : Nat) (cy : Nat) (lev : Nat) (mx : Nat) (my : Nat) (x : Subset) (lid : Nat) (l : Launch) (i : Nat) (w : List Word) (ps : List (Nat × Nat)) (d : List Byte),
    (issues s p x l = true)
    ∧ (launchAt s p = some (lid, l))
    ∧ (lanesOf x.lanes = [i])
    ∧ ((readStruct s l.ref.ctx (pairAddr s p i surf) 64 1).toOption = some w)
    ∧ (surfCheck w = none)
    ∧ (sComp w = false)
    ∧ ((coreOf s p.core).tex = [])
    ∧ ((coreOf s p.core).cache = [])
    ∧ (s.mem.upsets = [])
    ∧ ((translateN (sawStruct s l.ref.ctx (pairAddr s p i surf) w) l.ref.ctx (sData w + (texelOff w ((clampI 0 ((sLevels w - 1 : Nat) : Int) (qRound ((fun (r : Nat) => f32ToQ (regGet s p i r).toNat) lev))).toNat) (addrCoord mx (levelW w ((clampI 0 ((sLevels w - 1 : Nat) : Int) (qRound ((fun (r : Nat) => f32ToQ (regGet s p i r).toNat) lev))).toNat)) (qFloor (qMul ((fun (r : Nat) => f32ToQ (regGet s p i r).toNat) cx) (qMk (levelW w ((clampI 0 ((sLevels w - 1 : Nat) : Int) (qRound ((fun (r : Nat) => f32ToQ (regGet s p i r).toNat) lev))).toNat)) (max 1 (sW w)))))) (addrCoord my (levelH w ((clampI 0 ((sLevels w - 1 : Nat) : Int) (qRound ((fun (r : Nat) => f32ToQ (regGet s p i r).toNat) lev))).toNat)) (qFloor (qMul ((fun (r : Nat) => f32ToQ (regGet s p i r).toNat) cy) (qMk (levelH w ((clampI 0 ((sLevels w - 1 : Nat) : Int) (qRound ((fun (r : Nat) => f32ToQ (regGet s p i r).toNat) lev))).toNat)) (max 1 (sH w)))))))) (fmtBytes (sFmt w)) 1).toOption = some ps)
    ∧ ((devRead (sawStruct s l.ref.ctx (pairAddr s p i surf) w) l.ref.ctx (sData w + (texelOff w ((clampI 0 ((sLevels w - 1 : Nat) : Int) (qRound ((fun (r : Nat) => f32ToQ (regGet s p i r).toNat) lev))).toNat) (addrCoord mx (levelW w ((clampI 0 ((sLevels w - 1 : Nat) : Int) (qRound ((fun (r : Nat) => f32ToQ (regGet s p i r).toNat) lev))).toNat)) (qFloor (qMul ((fun (r : Nat) => f32ToQ (regGet s p i r).toNat) cx) (qMk (levelW w ((clampI 0 ((sLevels w - 1 : Nat) : Int) (qRound ((fun (r : Nat) => f32ToQ (regGet s p i r).toNat) lev))).toNat)) (max 1 (sW w)))))) (addrCoord my (levelH w ((clampI 0 ((sLevels w - 1 : Nat) : Int) (qRound ((fun (r : Nat) => f32ToQ (regGet s p i r).toNat) lev))).toNat)) (qFloor (qMul ((fun (r : Nat) => f32ToQ (regGet s p i r).toNat) cy) (qMk (levelH w ((clampI 0 ((sLevels w - 1 : Nat) : Int) (qRound ((fun (r : Nat) => f32ToQ (regGet s p i r).toNat) lev))).toNat)) (max 1 (sH w))))))) / 128 * 128) 128).toOption = some d)
    ∧ ((modeOf s p.core lid).2 = false ∨ ((texelFrs (modeOf s p.core lid).1 (sFmt w) (chunk d ((texelOff w ((clampI 0 ((sLevels w - 1 : Nat) : Int) (qRound ((fun (r : Nat) => f32ToQ (regGet s p i r).toNat) lev))).toNat) (addrCoord mx (levelW w ((clampI 0 ((sLevels w - 1 : Nat) : Int) (qRound ((fun (r : Nat) => f32ToQ (regGet s p i r).toNat) lev))).toNat)) (qFloor (qMul ((fun (r : Nat) => f32ToQ (regGet s p i r).toNat) cx) (qMk (levelW w ((clampI 0 ((sLevels w - 1 : Nat) : Int) (qRound ((fun (r : Nat) => f32ToQ (regGet s p i r).toNat) lev))).toNat)) (max 1 (sW w)))))) (addrCoord my (levelH w ((clampI 0 ((sLevels w - 1 : Nat) : Int) (qRound ((fun (r : Nat) => f32ToQ (regGet s p i r).toNat) lev))).toNat)) (qFloor (qMul ((fun (r : Nat) => f32ToQ (regGet s p i r).toNat) cy) (qMk (levelH w ((clampI 0 ((sLevels w - 1 : Nat) : Int) (qRound ((fun (r : Nat) => f32ToQ (regGet s p i r).toNat) lev))).toNat)) (max 1 (sH w))))))) % 128) (fmtBytes (sFmt w)))).any Fr.nan) = false)) := by
  refine ⟨⟨wCoh, wAt, 0, 3, 2, (wSub 1 .run), wL, 0, [.mem 0x11000 5 1, .mem 0x11001 5 1], ?_, ?_, ?_, ?_, ?_⟩, ⟨(wOne wS), wAt, 0, 3, 2, (wSub 1 .run), wL, 0, [.mem 0x11000 5 0, .mem 0x11001 5 0], ?_, ?_, ?_, ?_, ?_, ?_⟩, ⟨(wOne wS), wAt, 2, 3, 4, (wSub 1 .run), wL, 128, 0, ?_, ?_, ?_, ?_⟩, ⟨(wOne wS), wAt, 5, 0, 4, (wSub 1 .run), wL, 0, [.mem 0x11000 5 0, .mem 0x11001 5 0, .mem 0x11002 5 0, .mem 0x11003 5 0], ?_, ?_, ?_, ?_, ?_, ?_⟩, ⟨(wOne wS), wAt, 5, 2, 4, (wSub 1 .run), wL, ?_, ?_, ?_⟩, ⟨(wOne wS), wAt, .add, 5, 0, 3, 4, (wSub 1 .run), wL, 0, [(0x11000, 5), (0x11001, 5), (0x11002, 5), (0x11003, 5)], ?_, ?_, ?_, ?_⟩, ⟨(wOne wS), wAt, .cas, 5, 2, 3, 5, (wSub 1 .run), wL, 0, 128, ?_, ?_, ?_⟩, ⟨wTex, wAt, 0, 6, 4, 7, 7, 0, 1, (wSub 1 .run), 0, wL, 0, wSurfW, [(0x11014, 5), (0x11015, 5), (0x11016, 5), (0x11017, 5)], (List.replicate 128 0), ?_, ?_, ?_, ?_, ?_, ?_, ?_, ?_, ?_, ?_, ?_, ?_⟩⟩ <;> decide +kernel

theorem witness_ShaderFlow :
    (∃ (s : State) (p : ThreadsAt) (targets : List (Nat × Nat)) (x : Subset) (l : Launch) (g : Group),
    (issues s p x l = true)
    ∧ (groupAt s p = some g)
    ∧ (g.subsets = [x])
    ∧ (x.back = 0))
    ∧ (∃ (s : State) (p : ThreadsAt) (x : Subset) (l : Launch) (g : Group) (b : Block),
    (issues s p x l = true)
    ∧ (groupAt s p = some g)
    ∧ (inRegion g x.lanes = false)
    ∧ (isMember g x.lanes = false ∨ waitingColl g x.lanes = none)
    ∧ (blockAt s p = some b)
    ∧ (b.bars = [])
    ∧ ((g.subsets.all fun y => y.wait != .join) = true)
    ∧ ((g.subsets.any fun y => y.lanes != x.lanes) = true)
    ∧ (((coreOf s p.core).blocks.all fun b => b.groups.any fun g => !g.subsets.isEmpty) = true)
    ∧ ((s.sh.launches.all fun q => decide (q.2.ended < threads q.2.grid)) = true))
    ∧ (∃ (s : State) (lid : Nat) (l : Launch) (k : Nat) (base : Nat),
    (launchOf s lid = some l)
    ∧ (l.next < threads l.grid)
    ∧ (pickCore s l = some k)
    ∧ (l.checked = true)
    ∧ (lsFit s (coreOf s k) l = some base))
    ∧ (∃ (s : State) (k : Nat),
    (8 ≤ k)
    ∧ (k < 32)
    ∧ (s.sh.cores.length = 32)
    ∧ ((coreOf s k).kind ≠ 0)
    ∧ ((coreOf s k).blocks ≠ []))
    ∧ (∃ (s : State) (k : Nat),
    (k < 32)
    ∧ (s.sh.cores.length = 32))
    ∧ (∃ (s : State) (k : Nat) (ctx : Nat) (v : SavedCore),
    (8 ≤ k)
    ∧ (k < 32)
    ∧ (s.sh.cores.length = 32)
    ∧ ((coreOf s k).kind = 0)
    ∧ ((coreOf s k).xfer ≠ 1)
    ∧ (slotCtx s (16 + k) = some ctx)
    ∧ (tget (coreOf s k).saved ctx = some v)) := by
  refine ⟨⟨(wOne wS), wAt, [(1, 64)], (wSub 1 .run), wL, ⟨[wSub 1 .run], none, 0⟩, ?_, ?_, ?_, ?_⟩, ⟨(wShM [wSub 1 .run, wSub 2 .run] none []), wAt, (wSub 1 .run), wL, ⟨[wSub 1 .run, wSub 2 .run], none, 0⟩, (wBlk [wSub 1 .run, wSub 2 .run] none []), ?_, ?_, ?_, ?_, ?_, ?_, ?_, ?_, ?_, ?_⟩, ⟨(wShOf wL (wCore [] []) wS), 0, wL, 8, 0, ?_, ?_, ?_, ?_, ?_⟩, ⟨(wOne wS), 8, ?_, ?_, ?_, ?_, ?_⟩, ⟨(wOne wS), 8, ?_, ?_⟩, ⟨wSaved, 8, 5, ⟨1, [wBlk [wSub 1 .run] none []], [], []⟩, ?_, ?_, ?_, ?_, ?_, ?_, ?_⟩⟩ <;> decide +kernel

theorem witness_ShaderArithmetic :
    (∃ (s : State) (p : ThreadsAt) (op : ArithOp) (dst : Nat) (a : Nat) (b : Nat) (c : Nat) (x : Subset) (lid : Nat) (l : Launch),
    (issues s p x l = true)
    ∧ (launchAt s p = some (lid, l))
    ∧ ((modeOf s p.core lid).2 = false ∨ ((lanesOf x.lanes).any fun i => ((fun (i : Nat) => arithWords (modeOf s p.core lid).1 op (fun r => (regGet s p i r).toNat) a b c) i).2.1) = false))
    ∧ (∃ (s : State) (p : ThreadsAt) (op : ArithOp) (dst : Nat) (a : Nat) (b : Nat) (c : Nat) (x : Subset) (lid : Nat) (l : Launch) (g : Group),
    (issues s p x l = true)
    ∧ (launchAt s p = some (lid, l))
    ∧ ((modeOf s p.core lid).2 = false)
    ∧ (groupAt s p = some g)
    ∧ (g.subsets = [x]))
    ∧ (∃ (s : State) (p : ThreadsAt) (op : ArithOp) (dst : Nat) (a : Nat) (b : Nat) (c : Nat) (x : Subset) (lid : Nat) (l : Launch),
    (issues s p x l = true)
    ∧ (launchAt s p = some (lid, l))
    ∧ ((modeOf s p.core lid).2 = true)
    ∧ (((lanesOf x.lanes).any fun i => (arithWords (modeOf s p.core lid).1 op (fun r => (regGet s p i r).toNat) a b c).2.1) = true)) := by
  refine ⟨⟨(wOne wS), wAt, .add, 5, 3, 4, 0, (wSub 1 .run), 0, wL, ?_, ?_, ?_⟩, ⟨(wOne wS), wAt, .add, 5, 3, 4, 0, (wSub 1 .run), 0, wL, ⟨[wSub 1 .run], none, 0⟩, ?_, ?_, ?_, ?_, ?_⟩, ⟨wNan, wAt, .add, 5, 0, 1, 2, (wSub 1 .run), 0, wL, ?_, ?_, ?_, ?_⟩⟩ <;> decide +kernel

theorem witness_HallEvents :
    (∃ (s : State) (h : Nat) (c : Nat) (tag : Nat),
    (h < 4)
    ∧ (s.mh.halls.length = 4)
    ∧ ((hallOf s h).kind ≠ 2)
    ∧ ((hallOf s h).kind ≠ 3)
    ∧ (maintLen ≤ s.tt.cycle)
    ∧ (s.fc.hallOut.getD h false = false)
    ∧ (slotNow s h = some (2, c, tag)))
    ∧ (∃ (s : State) (h : Nat) (e : HEntry) (r : List HEntry) (w : List Word),
    (h < 4)
    ∧ (s.mh.halls.length = 4)
    ∧ ((hallOf s h).busy = true)
    ∧ ((hallOf s h).kind = 2)
    ∧ ((hq (hallOf s h) false (hallOf s h).ctx) = ⟨e :: r, none⟩)
    ∧ (e.single = [])
    ∧ (e.batch = none)
    ∧ (e.ref.ctx = (hallOf s h).ctx)
    ∧ ((readStruct (modHall s h fun y => setHq y false y.ctx { hq y false y.ctx with entries := (hq y false y.ctx).entries.map fun z => if z.arrival = e.arrival then { e with stepped := true } else z }) e.ref.ctx (e.va + 128 * e.idx) 128 1).toOption = some w)
    ∧ (dSeq w = false)
    ∧ (dDep w = false)
    ∧ (s.mem.upsets = [])
    ∧ (checkDesc (sawStruct (modHall s h fun y => setHq y false y.ctx { hq y false y.ctx with entries := (hq y false y.ctx).entries.map fun z => if z.arrival = e.arrival then { e with stepped := true } else z }) e.ref.ctx (e.va + 128 * e.idx) w) (issueOf h false ({ e with stepped := true })) w [] = none)
    ∧ (hazard (sawStruct (modHall s h fun y => setHq y false y.ctx { hq y false y.ctx with entries := (hq y false y.ctx).entries.map fun z => if z.arrival = e.arrival then { e with stepped := true } else z }) e.ref.ctx (e.va + 128 * e.idx) w) h false ({ e with stepped := true }) w [] = false)
    ∧ (noLaunchEnds s = true))
    ∧ (∃ (s : State) (h : Nat) (e : HEntry) (r : Running) (bs : List Byte),
    (lastOfList s h e r = true)
    ∧ (dOp r.words = 1)
    ∧ (r.moved = 0)
    ∧ (r.stop = none)
    ∧ (r.susp = false)
    ∧ (s.mem.upsets = [])
    ∧ ((devRead s e.ref.ctx (dVa r.words) (dLen r.words)).toOption = some bs))
    ∧ (∃ (s : State) (h : Nat) (e : HEntry) (r : Running) (bs : List Byte),
    (lastOfList s h e r = true)
    ∧ (dOp r.words = 2)
    ∧ (r.moved = 0)
    ∧ (r.stop = none)
    ∧ (r.susp = false)
    ∧ (s.mem.upsets = [])
    ∧ ((devRead s e.ref.ctx (dVa r.words) (dLen r.words)).toOption = some bs))
    ∧ (∃ (s : State) (h : Nat) (e : HEntry) (r : Running) (ps : List (Nat × Nat)),
    (lastOfList s h e r = true)
    ∧ (dOp r.words = 3)
    ∧ (r.moved = 0)
    ∧ (r.stop = none)
    ∧ (r.susp = false)
    ∧ ((hallOf s h).badRows = [])
    ∧ ((hallOf s h).fresh = [])
    ∧ ((translateN s e.ref.ctx (dVa r.words) (dLen r.words) 2).toOption = some ps))
    ∧ (∃ (s : State) (h : Nat),
    (h < 4)
    ∧ (s.mh.halls.length = 4)
    ∧ (noLaunchEnds s = true)
    ∧ (((hq (hallOf s h) (slotLoad (hallOf s h)) (hallOf s h).ctx).run.all fun r => dOp r.words == 0 && decide (r.next < passCount r.words (dVecs r.words r.seqs))) = true)) := by
  refine ⟨⟨(wSlotOf 1 (wHall 0 [] none [])), 1, 5, 0, ?_, ?_, ?_, ?_, ?_, ?_, ?_⟩, ⟨(wHall 2 [wEnt 0x110000] none (wMem 0x10000 wMatW [])), 1, (wEnt 0x110000), [], wMatW, ?_, ?_, ?_, ?_, ?_, ?_, ?_, ?_, ?_, ?_, ?_, ?_, ?_, ?_, ?_⟩, ⟨(wHall 3 [wEnt 0] (some (wRunOp 1)) (memPutN [] 0 [1, 2, 3])), 1, (wEnt 0), (wRunOp 1), ([1, 2, 3] ++ List.replicate 253 0), ?_, ?_, ?_, ?_, ?_, ?_, ?_⟩, ⟨(wHall 3 [wEnt 0] (some (wRunOp 2)) (memPutN [] 0 [1, 2, 3])), 1, (wEnt 0), (wRunOp 2), ([1, 2, 3] ++ List.replicate 253 0), ?_, ?_, ?_, ?_, ?_, ?_, ?_⟩, ⟨(wHall 3 [wEnt 0] (some (wRunOp 3)) (memPutN [] 0 [1, 2, 3])), 1, (wEnt 0), (wRunOp 3), ((List.range 256).map fun i => (i, 5)), ?_, ?_, ?_, ?_, ?_, ?_, ?_, ?_⟩, ⟨(wHall 2 [] none []), 1, ?_, ?_, ?_, ?_⟩⟩ <;> decide +kernel

theorem witness_Coders :
    (∃ (s : State) (c : Nat) (ctx : Nat) (j : Job) (w : List Word),
    (c < 8)
    ∧ (residentJob s c = none)
    ∧ (slotCtx s (72 + c) = some ctx)
    ∧ (nextJob s c ctx = some j)
    ∧ (j.started = false)
    ∧ ((readStruct s ctx j.va 128 1).toOption = some w)
    ∧ (jobCheck s ctx j.enc w = none)
    ∧ (s.mem.upsets = []))
    ∧ (∃ (s : State) (c : Nat) (ctx : Nat) (j : Job),
    (c < 8)
    ∧ (residentJob s c = none)
    ∧ (slotCtx s (72 + c) = some ctx)
    ∧ (nextJob s c ctx = some j)
    ∧ (j.started = true))
    ∧ (∃ (s : State) (c : Nat) (k : Nat) (e : MapEnt) (f : FeedCode) (chk : Bool),
    (c < 8)
    ∧ (coderFeed s c = none)
    ∧ (nextTile s c = some (k, e))
    ∧ (feedCodeOf s k = some f)
    ∧ (f.ring.length < f.ringTiles))
    ∧ (∃ (s : State) (c : Nat) (j : Job) (u : State) (v : List Nat) (ps : List (Nat × Nat)),
    (c < 8)
    ∧ (coderFeed s c = none)
    ∧ (nextTile s c = none)
    ∧ (residentJob s c = some j)
    ∧ (j.enc = true)
    ∧ (jErr j.words = 0)
    ∧ (j.bytes + jSize j.words ≤ jLen j.words)
    ∧ (j.next + 1 < jobBlocks j.words)
    ∧ ((readRows s j.ref.ctx (blockRows j.words j.next)).toOption = some (u, v))
    ∧ (s.mem.upsets = [])
    ∧ ((translateN u j.ref.ctx (jCoded j.words + (j.next - jStart j.words) * jSize j.words) (encodeBlock (jRatio j.words) (jDepth j.words) (jEffort j.words) (blockPos j.words 3 0 j.next).1 (blockPos j.words 3 0 j.next).2.1 (blockPos j.words 3 0 j.next).2.2 j.hist v).1.length 2).toOption = some ps))
    ∧ (∃ (s : State) (c : Nat) (j : Job),
    (residentJob s c = some j))
    ∧ (∃ (s : State) (k : Nat) (f : FeedCode) (e : MapEnt) (crc : Bool),
    (feedCodeOf s k = some f)
    ∧ (f.coding = some e)
    ∧ (s.hp.slots ≤ e.slot + 64)
    ∧ ((s.cm.feeds.all fun p => p.2.sink == 1) = true))
    ∧ (∃ (s : State) (k : Nat) (f : FeedCode) (e : MapEnt),
    (s.cm.feeds = [(k, f)])
    ∧ (f.coding = some e)
    ∧ (s.hp.slots ≤ e.slot + 64)
    ∧ (f.sink = 0)
    ∧ (f.ring = [])
    ∧ (landingOn s f.port = true)) := by
  refine ⟨⟨(wCoder (wJob false false) []), 0, 5, (wJob false false), wJobW, ?_, ?_, ?_, ?_, ?_, ?_, ?_, ?_⟩, ⟨(wCoder (wJob true true) []), 0, 5, (wJob true true), ?_, ?_, ?_, ?_, ?_⟩, ⟨(wCoder (wJob true false) [(0, wFeedC [wTileE] none 1)]), 0, 0, wTileE, (wFeedC [wTileE] none 1), true, ?_, ?_, ?_, ?_, ?_⟩, ⟨(wCoder (wJob true false) []), 0, (wJob true false), ((((readRows (wCoder (wJob true false) []) (wJob true false).ref.ctx (blockRows (wJob true false).words (wJob true false).next))).toOption.map Prod.fst).getD wS), ((((readRows (wCoder (wJob true false) []) (wJob true false).ref.ctx (blockRows (wJob true false).words (wJob true false).next))).toOption.map Prod.snd).getD []), ((List.range 64).map fun i => (0x1000 + i, 5)), ?_, ?_, ?_, ?_, ?_, ?_, ?_, ?_, ?_, ?_, ?_⟩, ⟨(wCoder (wJob true false) []), 0, (wJob true false), ?_⟩, ⟨(wCoder (wJob true false) [(0, wFeedC [] (some wTileE) 1)]), 0, (wFeedC [] (some wTileE) 1), wTileE, true, ?_, ?_, ?_, ?_⟩, ⟨(wLink (wCoder (wJob true false) [(0, wFeedC [] (some wTileE) 0)])), 0, (wFeedC [] (some wTileE) 0), wTileE, ?_, ?_, ?_, ?_, ?_, ?_⟩⟩ <;> first | decide +kernel | (exact wit_some _ (by decide +kernel)) | (rw [encodeBlock_length _ _ _ _ _ _ _ _ (by decide +kernel)]; decide +kernel)

theorem witness_Concourse :
    (∃ (s : State) (m : Nat) (who : Nat) (x : Queue),
    (doorbellOwner m = some who)
    ∧ ((mbxOf s m).full = true)
    ∧ (concRuns s = true)
    ∧ (queueOf s (bits (mbxOf s m).word 51 41) = some x)
    ∧ (x.owner = who)
    ∧ (x.st ≠ .free)
    ∧ (x.st ≠ .destroying)
    ∧ (x.w < 2 ^ 32)
    ∧ ((((bits (mbxOf s m).word 31 0) + 2 ^ 32 - x.w) % 2 ^ 32) ≤ 64)
    ∧ (((bits (mbxOf s m).word 31 0) + 2 ^ 32 - x.rptr) % 2 ^ 32 ≤ 2 ^ x.ringLog2)
    ∧ (s.mem.upsets = []))
    ∧ (∃ (s : State),
    ((s.cc.queues.all fun p => p.2.entries.isEmpty) = true))
    ∧ (∃ (s : State) (q : Nat) (x : Queue) (e : Entry) (ws : List Word),
    (concRuns s = true)
    ∧ ((serveOrder s).head? = some q)
    ∧ (queueOf s q = some x)
    ∧ (x.st = .active)
    ∧ (x.owner ≠ 0x300)
    ∧ (dispatchEntry x = some e)
    ∧ (e.bad = false)
    ∧ (e.opened = true)
    ∧ (e.idx + 1 < e.count)
    ∧ ((nextWords s x.owner e).toOption = some ws)
    ∧ (bits (wd ws 0) 31 24 = 0x05)
    ∧ (bit (wd ws 0) 15 = false)
    ∧ ((domOf s 9).pwr = 2)
    ∧ (s.mem.upsets = []))
    ∧ (∃ (s : State) (d : CmdRef × Word × Word) (r : List (CmdRef × Word × Word)) (x : Queue) (o : OutCmd),
    (s.cc.done = d :: r)
    ∧ (queueOf s d.1.queue = some x)
    ∧ (x.out = [o])
    ∧ (o.ref = d.1)
    ∧ (x.st = .active)
    ∧ (x.entries = [])
    ∧ (faults (bits d.2.1 7 0) = false)
    ∧ (noBlocked s = true))
    ∧ (∃ (s : State) (d : CmdRef × Word × Word) (r : List (CmdRef × Word × Word)) (x : Queue) (o : OutCmd),
    (s.cc.done = d :: r)
    ∧ (queueOf s d.1.queue = some x)
    ∧ (x.out = [o])
    ∧ (o.ref = d.1)
    ∧ (x.st = .active)
    ∧ (faults (bits d.2.1 7 0) = true)
    ∧ (noBlocked s = true))
    ∧ (∃ (s : State) (r : CmdRef) (x : Queue) (b : Blocked),
    (queueOf s r.queue = some x)
    ∧ (x.st = .blocked)
    ∧ (x.wait = some b)
    ∧ (b.ref = r)
    ∧ (waitResult s b = none)
    ∧ ((s.cc.queues.map Prod.fst).Nodup))
    ∧ (∃ (s : State) (q : Nat) (u : Nat) (x : Queue),
    (queueOf s q = some x)
    ∧ (x.st = .destroying)
    ∧ (x.aborting = [u])
    ∧ (noBlocked s = true)) := by
  refine ⟨⟨{ wS with nw := { wS.nw with mbx := [(0x405, ⟨stampWord 5 2, true, false, 0⟩)] } }, 0x405, 5, wQueue, ?_, ?_, ?_, ?_, ?_, ?_, ?_, ?_, ?_, ?_, ?_⟩, ⟨wCc wQueue [] [], ?_⟩, ⟨wCc { wQueue with entries := [wEntry] } [] (wMem 0x10020 [0x05030000, 0x110000, 0] []), 0, { wQueue with entries := [wEntry] }, wEntry, [0x05030000, 0x110000, 0], ?_, ?_, ?_, ?_, ?_, ?_, ?_, ?_, ?_, ?_, ?_, ?_, ?_, ?_⟩, ⟨wCc wOutQ [(wRef, 0, 0)] [], (wRef, 0, 0), [], wOutQ, ⟨wRef, 5, 65, 0, 0, 0, 0, false⟩, ?_, ?_, ?_, ?_, ?_, ?_, ?_, ?_⟩, ⟨wCc wOutQ [(wRef, 0x15, 0)] [], (wRef, 0x15, 0), [], wOutQ, ⟨wRef, 5, 65, 0, 0, 0, 0, false⟩, ?_, ?_, ?_, ?_, ?_, ?_, ?_⟩, ⟨{ wS with cc := { wS.cc with queues := [(0, { wQueue with st := .blocked, wait := some ⟨wRef, 0, 9, false, 0, 0⟩ })] } }, wRef, { wQueue with st := .blocked, wait := some ⟨wRef, 0, 9, false, 0, 0⟩ }, ⟨wRef, 0, 9, false, 0, 0⟩, ?_, ?_, ?_, ?_, ?_, ?_⟩, ⟨wCc { wOutQ with st := .destroying, aborting := [65] } [] [], 0, 65, { wOutQ with st := .destroying, aborting := [65] }, ?_, ?_, ?_, ?_⟩⟩ <;> decide +kernel

theorem witness_NewelService :
    (∃ (s : State) (v : Verdict) (odd : Nat) (m : Nat),
    (newelRuns s = true)
    ∧ (nextItem s (s.nw.rot % 4) = some (.box m))
    ∧ (m < 0x208)
    ∧ (bound s m = true)
    ∧ (bits (mbxOf s m).word 51 44 = 0x12)
    ∧ (liveRequester s m 0x12 = true)
    ∧ ((tgetD s.nw.stage (stageKey m (bits (mbxOf s m).word 43 40)) default).held = true)
    ∧ ((tgetD s.nw.stage (stageKey m (bits (mbxOf s m).word 43 40)) default).word = (mbxOf s m).word)
    ∧ (tget s.nw.recs m = none))
    ∧ (∃ (s : State) (v : Verdict) (mis : Nat) (odd : Nat),
    (((List.range 4).all fun c => (readyItems s c).isEmpty) = true))
    ∧ (∃ (s : State) (v : Verdict) (mis : Nat) (odd : Nat),
    (newelRuns s = true)
    ∧ (((List.range 4).any fun c => (nextItem s c).isSome) = true)
    ∧ (2 ≤ mis)
    ∧ (s.nw.spareOk = false))
    ∧ (∃ (s : State) (f : Flight),
    (s.nw.flights.find? (fun f => f.wait == .rsa && f.kind == .request) = some f))
    ∧ (∃ (s : State) (f : Flight),
    (s.nw.flights.find? (fun f => f.wait == .flash) = some f))
    ∧ (∃ (s : State) (m : Nat) (x : Session) (y : TSess),
    (0x800 ≤ m)
    ∧ (m < 0xA08)
    ∧ ((mbxOf s m).full = true)
    ∧ (sessOf s (m - 0x800) = some x)
    ∧ (x.full = true)
    ∧ (tsOf s x.ts = some y)
    ∧ (bits (mbxOf s m).word 51 44 ≠ 0x03)
    ∧ (tgetD s.nw.outq m [] = [])
    ∧ (sealRoom s = true)
    ∧ (0x80 ≤ bits (mbxOf s m).word 51 44)) := by
  refine ⟨⟨wService, ⟨true, true, true, true⟩, 0, 5, ?_, ?_, ?_, ?_, ?_, ?_, ?_, ?_, ?_⟩, ⟨wS, ⟨true, true, true, true⟩, 2, 1, ?_⟩, ⟨{ wService with nw := { wService.nw with spareOk := false } }, ⟨true, true, true, true⟩, 2, 1, ?_, ?_, ?_, ?_⟩, ⟨{ wS with nw := { wS.nw with flights := [wFl .rsa] } }, (wFl .rsa), ?_⟩, ⟨{ wS with nw := { wS.nw with flights := [wFl .flash] } }, (wFl .flash), ?_⟩, ⟨wOut, 0x805, { wSess true 1 with keyed := false }, (wTs .full 5), ?_, ?_, ?_, ?_, ?_, ?_, ?_, ?_, ?_, ?_⟩⟩ <;> first | decide +kernel | rfl

theorem witness_Notices :
    (∃ (s : State) (q : Nat) (x : Queue),
    (holdsNotice s 0x210 0x01 q = true)
    ∧ (q < 2048)
    ∧ (queueOf s q = some x)
    ∧ (x.st = .destroying))
    ∧ (∃ (s : State) (q : Nat) (c : Nat) (x : Queue),
    (holdsNotice s 0x210 0x02 (q + c * 65536) = true)
    ∧ (q < 2048)
    ∧ (c < 256)
    ∧ (queueOf s q = some x)
    ∧ (ctxState s x.owner ≠ .teardown))
    ∧ (∃ (s : State) (h : Nat) (o : Obj),
    (holdsNotice s 0x210 0x03 h = true)
    ∧ (h < 2 ^ 32)
    ∧ (objOf s (h % 65536) = some o)
    ∧ (o.st = .freeing)
    ∧ (o.gen = h / 65536)
    ∧ (objRefd s (h % 65536) = false))
    ∧ (∃ (s : State) (a : Nat) (st : Nat) (c : Nat),
    (holdsNotice s 0x211 0x10 (fld 0 3 a + fld 3 3 st + fld 6 4 c) = true))
    ∧ (∃ (s : State) (n : Nat),
    (holdsNotice s 0x211 0x11 n = true))
    ∧ (∃ (s : State) (h : Nat) (c : Nat),
    (h < 4)
    ∧ (holdsNotice s (0x212 + h) 0x20 c = true))
    ∧ (∃ (s : State) (h : Nat) (b : Nat) (q : Nat) (x : Batch),
    (h < 4)
    ∧ (b < 64)
    ∧ (q < 1024)
    ∧ (holdsNotice s (0x212 + h) 0x21 (fld 0 6 b + fld 16 10 q + fld 26 8 0x55) = true)
    ∧ (batchOf s b = some x))
    ∧ (∃ (s : State) (h : Nat) (b : Nat) (q : Nat) (c : Nat),
    (h < 4)
    ∧ (c < 256)
    ∧ (c ≠ 0x55)
    ∧ (holdsNotice s (0x212 + h) 0x21 (fld 0 6 b + fld 16 10 q + fld 26 8 c) = true))
    ∧ (∃ (s : State) (c : Nat) (p : Nat),
    (c < 4096)
    ∧ (p < 64)
    ∧ (holdsNotice s 0x216 0x30 (c + p * 4096) = true))
    ∧ (∃ (s : State) (c : Nat),
    (holdsNotice s 0x216 0x31 c = true))
    ∧ (∃ (s : State) (k : Nat),
    (holdsNotice s 0x217 0x38 k = true)) := by
  refine ⟨⟨(wNote 0x210 1 0 (wCc { wQueue with st := .destroying } [] [])), 0, { wQueue with st := .destroying }, ?_, ?_, ?_, ?_⟩, ⟨(wNote 0x210 2 (0 + 0x41 * 65536) wS), 0, 0x41, wQueue, ?_, ?_, ?_, ?_, ?_⟩, ⟨(wNote 0x210 3 65537 { wS with cx := { wS.cx with objs := [(1, { wObj 5 0x10000 [] with st := .freeing })] } }), 65537, { wObj 5 0x10000 [] with st := .freeing }, ?_, ?_, ?_, ?_, ?_, ?_⟩, ⟨(wNote 0x211 0x10 (fld 0 3 2 + fld 3 3 4 + fld 6 4 1) wS), 2, 4, 1, ?_⟩, ⟨(wNote 0x211 0x11 2 wS), 2, ?_⟩, ⟨(wNote 0x213 0x20 5 wS), 1, 5, ?_, ?_⟩, ⟨(wNote 0x214 0x21 (fld 0 6 1 + fld 16 10 9 + fld 26 8 0x55) { wS with mh := { wS.mh with batches := [(1, ⟨5, 2, 0, 256, 4, 0, 0, 8, 2, [(0, 0)], []⟩)] } }), 2, 1, 9, ⟨5, 2, 0, 256, 4, 0, 0, 8, 2, [(0, 0)], []⟩, ?_, ?_, ?_, ?_, ?_⟩, ⟨(wNote 0x214 0x21 (fld 0 6 1 + fld 16 10 9 + fld 26 8 0x50) wS), 2, 1, 9, 0x50, ?_, ?_, ?_, ?_⟩, ⟨(wNote 0x216 0x30 (5 + 3 * 4096) wS), 5, 3, ?_, ?_, ?_⟩, ⟨(wNote 0x216 0x31 5 wS), 5, ?_⟩, ⟨(wNote 0x217 0x38 7 wS), 7, ?_⟩⟩ <;> decide +kernel

theorem witness_TransportFrames :
    (∃ (s : State) (f : FrameIn),
    ((macIngress s f.port f.fcsOk f.protect f.icvOk f.pn true).2 = true)
    ∧ (f.hdrOk = true)
    ∧ (f.ts = 0)
    ∧ (f.isSealed = false)
    ∧ (f.payload.length = 32)
    ∧ (s.ring.ts.length < 1024)
    ∧ ((s.ring.ts.map Prod.fst).Pairwise (· < ·)))
    ∧ (∃ (s : State) (f : FrameIn) (x : TSess),
    (passes s 0x03 f x = true)
    ∧ (f.payload = []))
    ∧ (∃ (s : State) (f : FrameIn) (x : TSess),
    (passes s 0x05 f x = true)
    ∧ (x.st = .full)
    ∧ (f.payload = []))
    ∧ (∃ (s : State) (f : FrameIn) (x : TSess),
    (passes s 0x20 f x = true)
    ∧ (f.payload = []))
    ∧ (∃ (s : State) (f : FrameIn) (x : TSess) (who : Nat),
    (inOrder s 0x10 f x = true)
    ∧ (x.st = .unbound)
    ∧ (s.sec.recovery = false)
    ∧ (openName s f.mbx = some who)
    ∧ (who < 0x208)
    ∧ (blockLenOk f = true)
    ∧ (openWord s who (frameWord f) = true)
    ∧ (f.stage = wordStage (frameWord f))
    ∧ ((tgetD s.nw.stage (stageKey who f.stage) default).held = false))
    ∧ (∃ (s : State) (f : FrameIn) (x : TSess),
    (inOrder s 0x11 f x = true)
    ∧ (x.st = .full)
    ∧ (blockLenOk f = true)
    ∧ (f.mbx < 0x20C)
    ∧ (mbxWriter f.mbx = some x.ident)
    ∧ (f.stage = wordStage (frameWord f))
    ∧ ((tgetD s.nw.stage (stageKey x.ident f.stage) default).held = false))
    ∧ (∃ (s : State) (f : FrameIn) (x : TSess),
    (inOrder s 0x12 f x = true)
    ∧ (x.st = .full)
    ∧ (f.payload.length = 8)
    ∧ (0x400 ≤ f.mbx)
    ∧ (f.mbx < 0x609)
    ∧ (mbxWriter f.mbx = some x.ident))
    ∧ (∃ (s : State) (f : FrameIn) (x : TSess),
    (inOrder s 0x06 f x = true)
    ∧ (x.st = .unbound)
    ∧ (f.payload = []))
    ∧ (∃ (s : State) (f : FrameIn) (x : TSess),
    (inOrder s 0x06 f x = true)
    ∧ (x.st = .full)
    ∧ (f.payload = [])
    ∧ (x.ident < 0x200)
    ∧ (ctxState s x.ident = .active)) := by
  refine ⟨⟨wR, { wF 0 0 (List.replicate 32 1) with xseq := 0 }, ?_, ?_, ?_, ?_, ?_, ?_, ?_⟩, ⟨wR, { wF 4 0 [] with xack := 1 }, { wTs .unbound 0 with unacked := [wUnacked] }, ?_, ?_⟩, ⟨wR, (wF 1 0 []), (wTs .full 5), ?_, ?_, ?_⟩, ⟨wR, (wF 4 0 []), { wTs .unbound 0 with unacked := [wUnacked] }, ?_, ?_⟩, ⟨wR, (wF 4 6 (wPay (requestWord 6 0x01 0 1 0 1) [sizeVer 4])), { wTs .unbound 0 with unacked := [wUnacked] }, 6, ?_, ?_, ?_, ?_, ?_, ?_, ?_, ?_, ?_⟩, ⟨wR, (wF 1 5 (wPay wCmdW [sizeVer 8, 1])), (wTs .full 5), ?_, ?_, ?_, ?_, ?_, ?_, ?_⟩, ⟨wR, (wF 1 0x405 (wPay (stampWord 5 2) [])), (wTs .full 5), ?_, ?_, ?_, ?_, ?_, ?_⟩, ⟨wR, (wF 4 0 []), { wTs .unbound 0 with unacked := [wUnacked] }, ?_, ?_, ?_⟩, ⟨wR, (wF 1 0 []), (wTs .full 5), ?_, ?_, ?_, ?_, ?_⟩⟩ <;> decide +kernel

theorem witness_RingAccess :
    (∃ (s : State) (f : FrameIn) (x : TSess) (ps : List (Nat × Nat)),
    (inOrder s 0x18 f x = true)
    ∧ (x.st = .full)
    ∧ (accessLen (f.payload.length - 8) = true)
    ∧ (8 ≤ f.payload.length)
    ∧ ((translateN s x.ident (frameWord f) (f.payload.length - 8) 2).toOption = some ps))
    ∧ (∃ (s : State) (f : FrameIn) (x : TSess),
    (inOrder s 0x18 f x = true)
    ∧ (x.st = .full)
    ∧ (accessLen (f.payload.length - 8) = true)
    ∧ (8 ≤ f.payload.length)
    ∧ ((translateN s x.ident (frameWord f) (f.payload.length - 8) 2).toOption = none))
    ∧ (∃ (s : State) (f : FrameIn) (x : TSess) (bs : List Byte),
    (inOrder s 0x19 f x = true)
    ∧ (x.st = .full)
    ∧ (f.payload.length = 12)
    ∧ (accessLen (ofLe (f.payload.drop 8)) = true)
    ∧ ((devRead s x.ident (frameWord f) (ofLe (f.payload.drop 8))).toOption = some bs)
    ∧ (s.mem.upsets = [])) := by
  refine ⟨⟨wR, (wF 1 0 (wPay 0x100010 [7])), (wTs .full 5), [(16, 5), (17, 5), (18, 5), (19, 5)], ?_, ?_, ?_, ?_, ?_⟩, ⟨wR, (wF 1 0 (wPay 0x500010 [7])), (wTs .full 5), ?_, ?_, ?_, ?_, ?_⟩, ⟨wR, (wF 1 0 (wPay 0x100010 [4])), (wTs .full 5), [0, 0, 0, 0], ?_, ?_, ?_, ?_, ?_, ?_⟩⟩ <;> decide +kernel

theorem witness_RecoveryFrames :
    (∃ (s : State) (f : FrameIn) (x : TSess),
    (inOrder s 0x40 f x = true)
    ∧ (recovOther s f.ts = false)
    ∧ (f.payload.length = 4)
    ∧ (1536 ≤ ofLe f.payload)
    ∧ (ofLe f.payload ≤ 2 ^ 24)
    ∧ ((ofLe f.payload - 1536) % 4096 = 0))
    ∧ (∃ (s : State) (f : FrameIn) (x : TSess),
    (inOrder s 0x41 f x = true)
    ∧ (s.sec.recovOwner = some f.ts)
    ∧ (5 ≤ f.payload.length)
    ∧ (f.payload.length ≤ 8196)
    ∧ (ofLe (f.payload.take 4) = s.sec.recovGot)
    ∧ (s.sec.recovGot + (f.payload.length - 4) ≤ s.sec.recovLen))
    ∧ (∃ (s : State) (v : Verdict) (f : FrameIn) (x : TSess),
    (inOrder s 0x42 f x = true)
    ∧ (s.sec.recovOwner = some f.ts)
    ∧ (f.payload = [])
    ∧ (s.sec.recovGot ≠ s.sec.recovLen))
    ∧ (∃ (s : State) (v : Verdict) (f : FrameIn) (x : TSess) (im : FwImage),
    (inOrder s 0x42 f x = true)
    ∧ (s.sec.recovOwner = some f.ts)
    ∧ (f.payload = [])
    ∧ (s.sec.recovGot = s.sec.recovLen)
    ∧ (s.sec.recovGot ≠ 0)
    ∧ (parseImage s s.sec.recovImage v = some im)
    ∧ (s.pw.grave = []))
    ∧ (∃ (s : State) (v : Verdict) (f : FrameIn) (x : TSess) (im : FwImage),
    (inOrder s 0x42 f x = true)
    ∧ (s.sec.recovOwner = some f.ts)
    ∧ (f.payload = [])
    ∧ (s.sec.recovGot = s.sec.recovLen)
    ∧ (s.sec.recovGot ≠ 0)
    ∧ (parseImage s s.sec.recovImage v = some im)
    ∧ (s.pw.grave ≠ [])) := by
  refine ⟨⟨(wRec none 0 0), (wF 4 0 (leBytes 4 5632)), { wTs .unbound 0 with unacked := [wUnacked] }, ?_, ?_, ?_, ?_, ?_, ?_⟩, ⟨(wRec (some 4) 5632 8), (wF 4 0 (leBytes 4 8 ++ [1, 2])), { wTs .unbound 0 with unacked := [wUnacked] }, ?_, ?_, ?_, ?_, ?_, ?_⟩, ⟨(wRec (some 4) 5632 8), ⟨true, true, true, true⟩, (wF 4 0 []), { wTs .unbound 0 with unacked := [wUnacked] }, ?_, ?_, ?_, ?_⟩, ⟨(wGot []), ⟨true, true, true, true⟩, (wF 4 0 []), { wTs .unbound 0 with unacked := [wUnacked] }, ⟨true, 7, 1, 0, 4096, List.replicate 64 0⟩, ?_, ?_, ?_, ?_, ?_, ?_, ?_⟩, ⟨(wGot [(0x42, 0)]), ⟨true, true, true, true⟩, (wF 4 0 []), { wTs .unbound 0 with unacked := [wUnacked] }, ⟨true, 7, 1, 0, 4096, List.replicate 64 0⟩, ?_, ?_, ?_, ?_, ?_, ?_, ?_⟩⟩ <;> decide +kernel

theorem witness_RingPorts :
    (∃ (s : State) (f : TransitIn),
    ((macIngress s f.port f.fcsOk f.protect f.icvOk f.pn f.exempt).2 = true)
    ∧ (f.hdrOk = true)
    ∧ (f.hops ≠ 0)
    ∧ (f.full = false)
    ∧ (f.port < 2)
    ∧ ((portOf s (1 - f.port)).link = true))
    ∧ (∃ (s : State) (p : Nat) (m : Bool) (q : Nat),
    (s.pw.started = true)
    ∧ (s.pw.pins.bypHold = .high)
    ∧ (s.pw.st = .run)
    ∧ (p < 2)
    ∧ (s.ring.ports.length = 2)
    ∧ (s.cm.feeds = []))
    ∧ (∃ (s : State) (p : Nat),
    ((portOf s p).link = true))
    ∧ (∃ (s : State) (p : Nat) (o : Int) (h : Nat) (i : Nat) (g : Nat),
    (landingOn s p = true)
    ∧ (2 ≤ s.pw.phase)
    ∧ (s.hp.running = true)
    ∧ (s.pw.phase ≠ 5))
    ∧ (∃ (s : State) (p : Nat) (o : Int) (h : Nat) (i : Nat) (g : Nat),
    (landingOn s p = true)
    ∧ (2 ≤ s.pw.phase)
    ∧ (s.hp.running = false)
    ∧ (s.hp.freeRun = false)
    ∧ (s.pw.houseMs = 0)
    ∧ (s.pw.phase ≠ 5))
    ∧ (∃ (s : State),
    (s.ring.gSync = true))
    ∧ (∃ (s : State) (p : Nat) (up : Bool),
    (landingOn s p = true)
    ∧ (2 ≤ s.pw.phase)
    ∧ ((portOf s p).cak ≠ [])
    ∧ ((portOf s p).pnTx < 0xC000000000000000))
    ∧ (∃ (s : State) (k : Nat) (x : TSess),
    (tsOf s k = some x)
    ∧ (x.st = .unbound))
    ∧ (∃ (s : State) (k : Nat) (x : TSess) (u : _),
    (tsOf s k = some x)
    ∧ (x.st ≠ .full)
    ∧ (x.unacked = [u])
    ∧ (sealRoom s = true))
    ∧ (∃ (s : State) (who : Nat),
    (bound s who = true)
    ∧ (s.pw.started = true)
    ∧ (s.pw.st = .run)
    ∧ (who < 0x200)
    ∧ (ctxState s who = .active))
    ∧ (∃ (s : State) (p : Nat),
    (s.pw.entering = some .deepSleep)
    ∧ (p < s.ring.ports.length))
    ∧ (∃ (s : State) (p : Nat),
    (p < 2)
    ∧ (s.pw.entering = none)
    ∧ (s.pw.st = .sleep)) := by
  refine ⟨⟨wR, wTrans, ?_, ?_, ?_, ?_, ?_, ?_⟩, ⟨wR, 0, true, 40, ?_, ?_, ?_, ?_, ?_, ?_⟩, ⟨wR, 1, ?_⟩, ⟨{ wR with hp := { wR.hp with running := true } }, 0, 5, 1, 125000000, 7, ?_, ?_, ?_, ?_⟩, ⟨wR, 0, 5, 1, 125000000, 7, ?_, ?_, ?_, ?_, ?_, ?_⟩, ⟨{ wR with ring := { wR.ring with gSync := true } }, ?_⟩, ⟨{ wR with ring := { wR.ring with ports := [{ resetPort with link := true, cak := [1] }, resetPort] } }, 0, true, ?_, ?_, ?_, ?_⟩, ⟨wR, 4, { wTs .unbound 0 with unacked := [wUnacked] }, ?_, ?_⟩, ⟨wR, 4, { wTs .unbound 0 with unacked := [wUnacked] }, wUnacked, ?_, ?_, ?_, ?_⟩, ⟨wR, 5, ?_, ?_, ?_, ?_, ?_⟩, ⟨{ wR with pw := { wR.pw with entering := some .deepSleep } }, 1, ?_, ?_⟩, ⟨{ wR with pw := { wR.pw with st := .sleep } }, 1, ?_, ?_, ?_⟩⟩ <;> decide +kernel

theorem witness_RegisterCommands :
    (∃ (s : State) (n : Nat) (v : Word) (c : Csi),
    (s.hp.csi[n]? = some c)
    ∧ (n < 4)
    ∧ (c.errs < 2 ^ 12))
    ∧ (∃ (s : State) (off : Nat) (v : Word),
    (writableRegs.contains off = false)) := by
  refine ⟨⟨{ wS with hp := { wS.hp with csi := List.replicate 4 ⟨7, false, 0, 0, false⟩ } }, 3, 5, ⟨7, false, 0, 0, false⟩, ?_, ?_, ?_⟩, ⟨wS, 0x1E20, 7, ?_⟩⟩ <;> decide +kernel

theorem witness_UnmappedRegisters :
    (∃ (s : State) (off : Nat) (v : Word),
    (mappedReg off = false)) := by
  refine ⟨wRun, 0x2040, 7, ?_⟩ <;> decide +kernel

theorem witness_Background :
    (∃ (s : State) (lost : Nat) (made : Nat) (b : BgAct),
    (s.tt.bg[6]? = some b))
    ∧ (∃ (s : State) (bytes : Nat) (lost : Nat) (made : Nat) (b : BgAct),
    (s.tt.bg[0]? = some b)
    ∧ (s.mem.scrubPos + bytes < 48 * 2 ^ 30)
    ∧ (s.mem.upsets = []))
    ∧ (∃ (s : State) (c : Nat) (f : Nat) (b : BgAct) (n : Nat),
    (s.tt.bg[0]? = some b)
    ∧ (s.mem.scrubPos < 48 * 2 ^ 30)
    ∧ (s.mem.scrubActive = true)
    ∧ (s.mem.hbmCorr[c / 32]? = some n)
    ∧ (tgetD (channelOf s c).errors f [] = [])
    ∧ (s.mem.upsets = []))
    ∧ (∃ (s : State) (u : Nat) (row : Nat) (b : BgAct),
    (s.tt.bg[1]? = some b)
    ∧ (80 ≤ u)
    ∧ (u < 112)
    ∧ (s.mem.upsets = [])
    ∧ (tgetD s.fc.rowErrs (u * 2 ^ 20 + mzRow s row) [] = []))
    ∧ (∃ (s : State) (lost : Nat) (made : Nat) (b : BgAct) (ups : List Upset),
    (s.tt.bg[1]? = some b)
    ∧ (s.mem.upsets = []))
    ∧ (∃ (s : State) (h : Nat) (lost : Nat) (made : Nat) (l : Nat) (b : BgAct),
    (s.tt.bg[2]? = some b)
    ∧ (h < 4)
    ∧ ((hallOf s h).kind = 4)
    ∧ ((((s.tt.readyPrev.getD h none).any fun c => c ≤ s.tt.cycle) = false))
    ∧ ((s.fc.substWait.any fun w => w.1 == 100 + h && w.2.1 == 2 * l) = false))
    ∧ (∃ (s : State) (h : Nat) (lost : Nat) (made : Nat) (l : List (Bool × Nat)) (b : BgAct),
    (s.tt.bg[2]? = some b)
    ∧ ((hallOf s h).kind ≠ 4))
    ∧ (∃ (s : State) (k : Nat) (lost : Nat) (made : Nat) (b : BgAct),
    (s.tt.bg[3]? = some b))
    ∧ (∃ (s : State) (k : Nat) (lost : Nat) (made : Nat) (b : BgAct) (i : Nat),
    (s.tt.bg[3]? = some b)
    ∧ (k < 32)
    ∧ (s.ms.scMap.getD (k / 8) 0 / 16 ^ (k % 8) % 16 = i)
    ∧ (i < 9)
    ∧ ((s.fc.substWait.any fun w => w.1 == 0 && w.2.1 == 9 * (k / 8) + i) = false))
    ∧ (∃ (s : State) (u : Nat) (slack : Nat) (drift : Nat) (days : Nat) (lost : Nat) (made : Nat) (b : BgAct),
    (s.tt.bg[4]? = some b)
    ∧ (192 ≤ u)
    ∧ (u < 213)
    ∧ (drift ≤ 20)
    ∧ (9 ≤ slack)
    ∧ ((s.fc.acted.any fun p => p.1 == u) = false))
    ∧ (∃ (s : State) (u : Nat) (slack : Nat) (days : Nat) (b : BgAct),
    (s.tt.bg[4]? = some b)
    ∧ (192 ≤ u)
    ∧ (u < 213)
    ∧ (9 ≤ slack)
    ∧ ((s.fc.acted.any fun p => p.1 == u) = false))
    ∧ (∃ (s : State) (h : Nat) (lost : Nat) (made : Nat) (c : Nat) (rg : Region) (r : List (Nat × Region)) (b : BgAct),
    (s.tt.bg[5]? = some b)
    ∧ (h < 4)
    ∧ (s.mh.halls.length = 4)
    ∧ ((hallOf s h).kind = 3 ∨ (hallOf s h).kind = 4)
    ∧ ((hallOf s h).zeroing = (c, rg) :: r)
    ∧ ((mbxOf s (0x212 + h)).full = false))
    ∧ (∃ (s : State) (kind : Nat) (unit : Nat) (a : Nat) (b : Nat) (c : Nat),
    (s.fc.tlmObj = 0))
    ∧ (∃ (s : State) (kind : Nat) (unit : Nat) (a : Nat) (b : Nat) (c : Nat) (slot : Nat) (o : Obj) (f : Nat),
    (s.fc.tlmObj ≠ 0)
    ∧ (findObj s s.fc.tlmObj = some (slot, o))
    ∧ (runFrame o.runs (32 * (s.fc.tlmSeq.toNat % 32768) / 65536) = some f)
    ∧ (kind < 256)
    ∧ (unit < 256))
    ∧ (∃ (s : State) (c : Nat) (f : Nat) (sp : Nat) (n : Nat),
    ((channelOf s c).copying = some (f, sp, n))
    ∧ (n < 15)
    ∧ (s.mem.upsets = []))
    ∧ (∃ (s : State) (c : Nat) (f : Nat) (sp : Nat),
    ((channelOf s c).copying = some (f, sp, 15))
    ∧ ((channelOf s c).due = [])
    ∧ (s.mem.upsets = []))
    ∧ (∃ (s : State) (c : Nat),
    ((channelOf s c).copying = none))
    ∧ (∃ (s : State) (c : Nat) (lane : Nat),
    (s.tt.set = false ∨ inMaint s = true)
    ∧ ((channelOf s c).lanes.contains lane = false)
    ∧ ((channelOf s c).lanes.length < 2))
    ∧ (∃ (s : State) (c : Nat) (lane : Nat),
    (s.tt.set = false ∨ inMaint s = true)
    ∧ ((channelOf s c).lanes.contains lane = false)
    ∧ (2 ≤ (channelOf s c).lanes.length))
    ∧ (∃ (s : State) (p : Nat),
    ((s.fc.substWait.any fun w => w.1 == 0 && w.2.1 == p) = true)
    ∧ (substNow s 0 p = true)
    ∧ (p < 36)
    ∧ ((s.fc.pscFailed.any fun q => q / 9 == p / 9) = false)
    ∧ (s.ms.scMap[p / 9]? = some 0x76543210)
    ∧ (p % 9 < 8))
    ∧ (∃ (s : State) (u : Nat) (row : Nat),
    ((s.fc.substWait.any fun w => w.1 == 1000 + u && w.2.1 == row) = true)
    ∧ (substNow s (1000 + u) row = true)
    ∧ ((s.fc.sramRows.any fun p => p.1 == u && p.2 / 64 == row / 64) = false)) := by
  refine ⟨⟨wS, 7, 3, ⟨0, 0, 0, false⟩, ?_⟩, ⟨wS, 4096, 0, 0, ⟨0, 0, 0, false⟩, ?_, ?_, ?_⟩, ⟨{ wS with mem := { wS.mem with scrubActive := true } }, 33, 2, ⟨0, 0, 0, false⟩, 0, ?_, ?_, ?_, ?_, ?_, ?_⟩, ⟨wS, 111, 65536, ⟨0, 0, 0, false⟩, ?_, ?_, ?_, ?_, ?_⟩, ⟨wS, 2, 1, ⟨0, 0, 0, false⟩, [⟨false, 0x20000, [1]⟩], ?_, ?_⟩, ⟨(wHall 4 [] none []), 1, 0, 0, 20, ⟨0, 0, 0, false⟩, ?_, ?_, ?_, ?_, ?_⟩, ⟨wS, 1, 0, 0, [(false, 3)], ⟨0, 0, 0, false⟩, ?_, ?_⟩, ⟨wS, 9, 0, 0, ⟨0, 0, 0, false⟩, ?_⟩, ⟨wS, 9, 0, 0, ⟨0, 0, 0, false⟩, 1, ?_, ?_, ?_, ?_, ?_⟩, ⟨wS, 212, 9, 20, 4, 0, 0, ⟨0, 0, 0, false⟩, ?_, ?_, ?_, ?_, ?_, ?_⟩, ⟨wS, 192, 9, 4, ⟨0, 0, 0, false⟩, ?_, ?_, ?_, ?_, ?_⟩, ⟨{ wS with mh := ⟨(List.replicate 4 resetHall).set 1 { resetHall with kind := 3, regions := [(6, ⟨4, 4, 4, 4, false⟩)], zeroing := [(5, ⟨0, 4, 0, 4, false⟩)], wOwner := [(2, 5)] }, []⟩ }, 1, 0, 0, 5, ⟨0, 4, 0, 4, false⟩, [], ⟨0, 0, 0, false⟩, ?_, ?_, ?_, ?_, ?_, ?_⟩, ⟨wS, 1, 2, 3, 4, 5, ?_⟩, ⟨{ wS with fc := { wS.fc with tlmObj := 0x10003 } }, 1, 2, 3, 4, 5, 3, (wObj 0x300 0x100000 [(7, 16)]), 7, ?_, ?_, ?_, ?_, ?_⟩, ⟨{ wS with mem := { wS.mem with chans := [(33, ⟨[], 768, [], [], (some (7, 9, 14)), []⟩)] } }, 33, 7, 9, 14, ?_, ?_, ?_⟩, ⟨{ wS with mem := { wS.mem with chans := [(33, ⟨[], 768, [], [], (some (7, 9, 15)), []⟩)] } }, 33, 7, 9, ?_, ?_, ?_⟩, ⟨wS, 33, ?_⟩, ⟨{ wS with mem := { wS.mem with chans := [(33, ⟨[], 768, [2], [], none, []⟩)] } }, 33, 5, ?_, ?_, ?_⟩, ⟨{ wS with mem := { wS.mem with chans := [(33, ⟨[], 768, [2, 3], [], none, []⟩)] } }, 33, 5, ?_, ?_, ?_⟩, ⟨{ wS with fc := { wS.fc with substWait := [(0, 12, 0)] } }, 12, ?_, ?_, ?_, ?_, ?_, ?_⟩, ⟨{ wS with fc := { wS.fc with substWait := [(1018, 130, 0)] } }, 18, 130, ?_, ?_, ?_⟩⟩ <;> decide +kernel

theorem witness_QueueReset :
    (∃ (r : ReqIn) (s : State) (x : Queue),
    (accepted specQueueReset r s = true)
    ∧ (needQueue s (asker r) (wd r.block 1).toNat = .ok x)
    ∧ (x.st = .faulted))
    ∧ (∃ (r : ReqIn) (s : State) (x : Queue),
    (accepted specQueueReset r s = true)
    ∧ (needQueue s (asker r) (wd r.block 1).toNat = .ok x)
    ∧ (x.st ≠ .faulted)) := by
  refine ⟨⟨(wReq 5 [0]), (wCc { wQueue with st := .faulted, faultCode := 0x44 } [] []), { wQueue with st := .faulted, faultCode := 0x44 }, ?_, ?_, ?_⟩, ⟨(wReq 5 [0]), wS, wQueue, ?_, ?_, ?_⟩⟩ <;> first | decide +kernel | rfl

theorem witness_StepRunsFront :
    (∃ (c : Instr) (s : State) (l : List Instr),
    (s.pending = c :: l))
    ∧ (∃ (s : State),
    (s.pending = [])) := by
  refine ⟨⟨(Instr.mbxSelWrite 5), { wS with pending := [.mbxSelWrite 5, .qSelWrite 6] }, [.qSelWrite 6], ?_⟩, ⟨wS, ?_⟩⟩ <;> decide +kernel

theorem witness_StepKeepsForm :
    (∃ (s : State) (t : State),
    (stateWf s = true)
    ∧ (step s = .next t)) := by
  refine ⟨{ wTtS with pending := [.mbxSelWrite 5] }, { wTtS with nw := { wTtS.nw with mbxSel := 5 } }, ?_, ?_⟩ <;> first | decide +kernel | rfl

theorem witness_RegisterAccess :
    (∃ (s : State) (f : FrameIn) (x : TSess),
    (inOrder s 0x1C f x = true)
    ∧ (x.st = .full)
    ∧ (x.ident = 0x300)
    ∧ (f.payload.length = 8)
    ∧ (1 ≤ ofLe (f.payload.drop 4))
    ∧ (ofLe (f.payload.drop 4) ≤ 64))
    ∧ (∃ (s : State) (f : FrameIn) (x : TSess),
    (inOrder s 0x1D f x = true)
    ∧ (x.st = .full)
    ∧ (x.ident = 0x300)
    ∧ (8 ≤ f.payload.length)
    ∧ (f.payload.length ≤ 260)
    ∧ (f.payload.length % 4 = 0))
    ∧ (∃ (s : State) (f : FrameIn) (x : TSess),
    (inOrder s 0x1C f x = true)
    ∧ (x.st = .full)
    ∧ (x.ident ≠ 0x300))
    ∧ (∃ (s : State) (f : FrameIn) (x : TSess),
    (inOrder s 0x1D f x = true)
    ∧ (x.st = .full)
    ∧ (x.ident ≠ 0x300)) := by
  refine ⟨⟨wR, (wF 3 0 (wordBytes [0x2004, 2])), (wTs .full 0x300), ?_, ?_, ?_, ?_, ?_, ?_⟩, ⟨wR, (wF 3 0 (wordBytes [0x1914, 5, 6])), (wTs .full 0x300), ?_, ?_, ?_, ?_, ?_, ?_⟩, ⟨wR, (wF 1 0 (wordBytes [0x2004, 2])), (wTs .full 5), ?_, ?_, ?_⟩, ⟨wR, (wF 1 0 (wordBytes [0x1914, 5, 6])), (wTs .full 5), ?_, ?_, ?_⟩⟩ <;> decide +kernel

theorem witness_AxisPositions :
    (∃ (s : State) (ins : List AxisIn) (armed : Bool) (n : Nat),
    (s.mc.axes.length = 6)
    ∧ (n < 6)) := by
  refine ⟨(wAx { resetAxis with count := -7 }), [], false, 5, ?_, ?_⟩ <;> decide +kernel

/-! ### Ill-formed commands: one for each check, and the check refuses it -/

theorem test_wellFormed_refuses_helpers : (([
    .infoGet { (default : ReqIn) with stage := 16 },
    .infoGet { (default : ReqIn) with seq := 2 ^ 16 },
    .infoGet { (default : ReqIn) with rsv := 2 ^ 13 },
    .infoGet { (default : ReqIn) with lenW := 2 ^ 11 },
    .hello { (default : FrameIn) with mac := 2 ^ 48 },
    .hello { (default : FrameIn) with ts := 2 ^ 16 },
    .hello { (default : FrameIn) with mbx := 2 ^ 12 },
    .hello { (default : FrameIn) with stage := 16 },
    .hello { (default : FrameIn) with xseq := 2 ^ 32 },
    .hello { (default : FrameIn) with xack := 2 ^ 32 },
    .hello { (default : FrameIn) with epoch := 2 ^ 32 },
    .hello { (default : FrameIn) with sealSeq := 2 ^ 64 },
    .transitFrame { (default : TransitIn) with hops := 256 },
    .transitFrame { (default : TransitIn) with dest := 2 ^ 48 },
    .waitLimitExpiry { (default : CmdRef) with ctx := 0x301 },
    .waitLimitExpiry { (default : CmdRef) with entry := 2 ^ 32 },
    .waitLimitExpiry { (default : CmdRef) with cmd := 2 ^ 16 },
    .endInstruction { (default : ThreadsAt) with blk := 32 },
    .endInstruction { (default : ThreadsAt) with grp := 32 },
    .endInstruction { (default : ThreadsAt) with sub := 32 },
    .faultMessageArrive [{ (default : FaultMsg) with source := 2 ^ 12 }],
    .faultMessageArrive [{ (default : FaultMsg) with kind := 256 }],
    .faultMessageArrive [{ (default : FaultMsg) with ctx := 2 ^ 12 }],
    .faultMessageArrive [{ (default : FaultMsg) with queue := 2 ^ 11 }],
    .faultMessageArrive [{ (default : FaultMsg) with cmd := 2 ^ 16 }],
    .present 0 (2 ^ 32) 0 false 0 0,
    .present 0 0 65536 false 0 0,
    .present 0 0 0 false (2 ^ 48) 0] : List Instr).any wellFormed) = false := by
  decide +kernel

theorem test_wellFormed_refuses_requests : (([
    .infoGet { (default : ReqIn) with mbox := 0x20C },
    .sessionOpen { (default : ReqIn) with mbox := 0x20C },
    .sessionClose { (default : ReqIn) with mbox := 0x20C },
    .sessionRekey { (default : ReqIn) with mbox := 0x20C },
    .attest { (default : ReqIn) with mbox := 0x20C },
    .operatorEnrol { (default : ReqIn) with mbox := 0x20C },
    .operatorRelease { (default : ReqIn) with mbox := 0x20C },
    .seccfgSet { (default : ReqIn) with mbox := 0x20C },
    .fwStage { (default : ReqIn) with mbox := 0x20C },
    .fwCommit { (default : ReqIn) with mbox := 0x20C },
    .svnRaise { (default : ReqIn) with mbox := 0x20C },
    .macsecCakSet { (default : ReqIn) with mbox := 0x20C },
    .ctxCreate { (default : ReqIn) with mbox := 0x20C },
    .ctxDestroy { (default : ReqIn) with mbox := 0x20C },
    .ctxNumeric { (default : ReqIn) with mbox := 0x20C },
    .ctxFaultRead { (default : ReqIn) with mbox := 0x20C },
    .memAlloc { (default : ReqIn) with mbox := 0x20C },
    .memMap { (default : ReqIn) with mbox := 0x20C },
    .memUnmap { (default : ReqIn) with mbox := 0x20C },
    .memFree { (default : ReqIn) with mbox := 0x20C },
    .memGrant { (default : ReqIn) with mbox := 0x20C },
    .memRevoke { (default : ReqIn) with mbox := 0x20C },
    .sysGrant { (default : ReqIn) with mbox := 0x20C },
    .binDonate { (default : ReqIn) with mbox := 0x20C },
    .binPoolSet { (default : ReqIn) with mbox := 0x20C },
    .errqSet { (default : ReqIn) with mbox := 0x20C },
    .tlmSet { (default : ReqIn) with mbox := 0x20C },
    .dsRetain { (default : ReqIn) with mbox := 0x20C },
    .queueCreate { (default : ReqIn) with mbox := 0x20C },
    .queueDestroy { (default : ReqIn) with mbox := 0x20C },
    .queueReset { (default : ReqIn) with mbox := 0x20C },
    .fenceCreate { (default : ReqIn) with mbox := 0x20C },
    .fenceDestroy { (default : ReqIn) with mbox := 0x20C },
    .fenceSet { (default : ReqIn) with mbox := 0x20C },
    .fenceClear { (default : ReqIn) with mbox := 0x20C },
    .fenceExport { (default : ReqIn) with mbox := 0x20C },
    .fenceImport { (default : ReqIn) with mbox := 0x20C },
    .fenceQuery { (default : ReqIn) with mbox := 0x20C },
    .seqBatchCreate { (default : ReqIn) with mbox := 0x20C },
    .seqBatchDestroy { (default : ReqIn) with mbox := 0x20C },
    .cmpSlotAlloc { (default : ReqIn) with mbox := 0x20C },
    .cmpSlotFree { (default : ReqIn) with mbox := 0x20C },
    .houseConfig { (default : ReqIn) with mbox := 0x20C },
    .houseStart { (default : ReqIn) with mbox := 0x20C },
    .houseStop { (default : ReqIn) with mbox := 0x20C },
    .testMode { (default : ReqIn) with mbox := 0x20C },
    .setNumMode { (default : ReqIn) with mbox := 0x20C },
    .ttLoad { (default : ReqIn) with mbox := 0x20C },
    .schedLoad { (default : ReqIn) with mbox := 0x20C },
    .feedBind { (default : ReqIn) with mbox := 0x20C },
    .feedCode { (default : ReqIn) with mbox := 0x20C },
    .rasBaysSet { (default : ReqIn) with mbox := 0x20C },
    .obConfig { (default : ReqIn) with mbox := 0x20C },
    .obWindowGrant { (default : ReqIn) with mbox := 0x20C },
    .nvmeRead { (default : ReqIn) with mbox := 0x20C } false default,
    .axisEnable { (default : ReqIn) with mbox := 0x20C },
    .axisDisable { (default : ReqIn) with mbox := 0x20C },
    .axisClear { (default : ReqIn) with mbox := 0x20C },
    .axisMove { (default : ReqIn) with mbox := 0x20C },
    .axisMode { (default : ReqIn) with mbox := 0x20C }] : List Instr).any wellFormed) = false := by
  decide +kernel

theorem test_wellFormed_refuses_queue_commands : (([
    .heatConfig { (default : ReqIn) with mbox := 0x20C },
    .exposureSet { (default : ReqIn) with mbox := 0x20C },
    .obOwnerAccept { (default : ReqIn) with mbox := 0x20C },
    .pwrSet { (default : ReqIn) with mbox := 0x20C },
    .pwrVote { (default : ReqIn) with mbox := 0x20C },
    .partReset { (default : ReqIn) with mbox := 0x20C },
    .bootCfgSet { (default : ReqIn) with mbox := 0x20C },
    .calRead { (default : ReqIn) with mbox := 0x20C },
    .calWrite { (default : ReqIn) with mbox := 0x20C },
    .restoreFactory { (default : ReqIn) with mbox := 0x20C },
    .faultClear { (default : ReqIn) with mbox := 0x20C },
    .mapRead { (default : ReqIn) with mbox := 0x20C },
    .mxList 2048 0 0 false 0 0 false 0 0,
    .mxList 0 0 0 false 0 (4) false 0 0,
    .mxList 0 0 0 false 0 0 false (2 ^ 48) 0,
    .mxList 0 0 0 false 0 0 false 0 (2 ^ 48),
    .launch 2048 0 0 false 0 0 default,
    .launch 0 0 0 false 0 0 [some (2 ^ 32)],
    .launch 0 0 0 false 0 (2 ^ 48) default,
    .pass 2048 0 0 false 0 0 default,
    .pass 0 0 0 false 0 0 [some (2 ^ 32)],
    .pass 0 0 0 false 0 (2 ^ 48) default,
    .present 2048 0 0 false 0 0,
    .present 0 0 0 false 0 (2 ^ 48),
    .encode 2048 0 0 false 0 0,
    .encode 0 0 0 false 0 (2 ^ 48),
    .decode 2048 0 0 false 0 0,
    .decode 0 0 0 false 0 (2 ^ 48),
    .xfer 2048 0 0 false 0 0 0 0 default,
    .xfer 0 0 0 false 0 0 0 0 [some (2 ^ 32)],
    .xfer 0 0 0 false 0 (2 ^ 48) 0 0 default,
    .xfer 0 0 0 false 0 0 (2 ^ 48) 0 default,
    .xfer 0 0 0 false 0 0 0 (2 ^ 32) default,
    .seqStep 2048 0 0 false 0 0 0 0,
    .seqStep 0 0 0 false 0 (64) 0 0,
    .seqStep 0 0 0 false 0 0 (2 ^ 48) 0,
    .seqStep 0 0 0 false 0 0 0 (2 ^ 48),
    .seqJoin 2048 0 0 false 0 0 0,
    .seqJoin 0 0 0 false 0 (64) 0,
    .seqJoin 0 0 0 false 0 0 (1024),
    .seqLeave 2048 0 0 false 0 0 0,
    .seqLeave 0 0 0 false 0 (64) 0,
    .seqLeave 0 0 0 false 0 0 (1024),
    .fenceWait 2048 0 0 false 0 0 false 0,
    .fenceWait 0 0 0 false 0 (16384) false 0,
    .fenceWait 0 0 0 false 0 0 false (2 ^ 64),
    .fenceSignal 2048 0 0 false 0 0 0,
    .fenceSignal 0 0 0 false 0 (16384) 0,
    .fenceSignal 0 0 0 false 0 0 (2 ^ 64),
    .mxIssue { (default : ThreadsAt) with core := 32 } 0,
    .mxWait { (default : ThreadsAt) with core := 32 } 0,
    .mxTest { (default : ThreadsAt) with core := 32 } 0,
    .crOpen { (default : ThreadsAt) with core := 32 } 0,
    .crClose { (default : ThreadsAt) with core := 32 } 0,
    .barSync { (default : ThreadsAt) with core := 32 } 0,
    .barArrive { (default : ThreadsAt) with core := 32 } 0,
    .fence { (default : ThreadsAt) with core := 32 } 0,
    .shuffle { (default : ThreadsAt) with core := 32 } 0 0 0,
    .shuffle default (256) 0 0,
    .shuffle default 0 (256) 0] : List Instr).any wellFormed) = false := by
  decide +kernel

theorem test_wellFormed_refuses_instructions : (([
    .shuffle default 0 0 (256),
    .vote { (default : ThreadsAt) with core := 32 } 0 0 0,
    .vote default (256) 0 0,
    .vote default 0 (256) 0,
    .vote default 0 0 (8),
    .branch { (default : ThreadsAt) with core := 32 } default default,
    .endInstruction { (default : ThreadsAt) with core := 32 },
    .atomic { (default : ThreadsAt) with core := 32 } default false false 0 0 0 0,
    .atomic default default false false (256) 0 0 0,
    .atomic default default false false 0 (256) 0 0,
    .atomic default default false false 0 0 (256) 0,
    .atomic default default false false 0 0 0 (256),
    .shaderLoad { (default : ThreadsAt) with core := 32 } 0 0 0 false,
    .shaderLoad default (256) 0 0 false,
    .shaderLoad default 0 (256) 0 false,
    .shaderStore { (default : ThreadsAt) with core := 32 } 0 0 0 false,
    .shaderStore default (256) 0 0 false,
    .shaderStore default 0 (256) 0 false,
    .textureFetch { (default : ThreadsAt) with core := 32 } 0 0 0 0 0 0 0 0,
    .textureFetch default (256) 0 0 0 0 0 0 0,
    .textureFetch default 0 (256) 0 0 0 0 0 0,
    .textureFetch default 0 0 (256) 0 0 0 0 0,
    .textureFetch default 0 0 0 (256) 0 0 0 0,
    .textureFetch default 0 0 0 0 (256) 0 0 0,
    .arithmeticInstruction { (default : ThreadsAt) with core := 32 } default 0 0 0 0,
    .arithmeticInstruction default default (256) 0 0 0,
    .arithmeticInstruction default default 0 (256) 0 0,
    .arithmeticInstruction default default 0 0 (256) 0,
    .arithmeticInstruction default default 0 0 0 (256),
    .hello { (default : FrameIn) with port := 2 },
    .ack { (default : FrameIn) with port := 2 },
    .keepalive { (default : FrameIn) with port := 2 },
    .close { (default : FrameIn) with port := 2 },
    .openFrame { (default : FrameIn) with port := 2 },
    .req { (default : FrameIn) with port := 2 },
    .doorbell { (default : FrameIn) with port := 2 },
    .memWrite { (default : FrameIn) with port := 2 },
    .memRead { (default : FrameIn) with port := 2 },
    .regRead { (default : FrameIn) with port := 2 },
    .regWrite { (default : FrameIn) with port := 2 },
    .getIdentity { (default : FrameIn) with port := 2 },
    .recovBegin { (default : FrameIn) with port := 2 },
    .recovData { (default : FrameIn) with port := 2 },
    .recovEnd default { (default : FrameIn) with port := 2 },
    .csiStatClear (4) 0,
    .registerWriteOther (65536) 0,
    .hallRunStart (4) 0 default,
    .descriptorStart (4),
    .descriptorComplete (4),
    .hallSlotEnd (4) 0,
    .csiLongPacket (4) 0 0 0 false default 0,
    .csiLongPacket 0 (32) 0 0 false default 0,
    .csiLongPacket 0 0 (64) 0 false default 0,
    .csiFrameStart (4) 0 0 0,
    .csiFrameStart 0 (32) 0 0,
    .csiFrameEnd (4) 0 0 0,
    .csiFrameEnd 0 (32) 0 0,
    .csiLineStart (4) 0 0 0 0,
    .csiLineStart 0 (32) 0 0 0,
    .sensLoss (2)] : List Instr).any wellFormed) = false := by
  decide +kernel

theorem test_wellFormed_refuses_frames_events : (([
    .houseBandHallDone (4) 0 0 0 default,
    .houseBandHallDone 0 (4) 0 0 default,
    .houseShaderStageDone (2) 0 0 0 default,
    .houseShaderStageDone 0 (65536) 0 0 default,
    .baseVersionComplete (2) 0 0 0 false,
    .baseVersionComplete 0 (65536) 0 0 false,
    .tileSealed (2) 0 0 0,
    .tileSealed 0 (65536) 0 0,
    .compositeStart (32) 0,
    .compositeComplete (32) 0 false,
    .growWaitExpiry (520),
    .partialResolveDone (520) default,
    .passComplete (520) 0 0 0 default default,
    .passComplete 0 (256) 0 0 default default,
    .passComplete 0 0 (32) 0 default default,
    .passComplete 0 0 0 (2 ^ 48) default default,
    .compressionJobStart (8),
    .coderBlockBoundary (8) false false,
    .compressionSlotEnd (8),
    .feedTileCoded (32) false false,
    .shaderSlotEnd (32),
    .shaderSaveDone (32),
    .shaderSlotStart (32),
    .collectiveTimeout { (default : ThreadsAt) with core := 32 },
    .doorbellTake (2573),
    .waitLimitExpiry { (default : CmdRef) with queue := 2048 },
    .engineQuiescent (2048) 0,
    .engineQuiescent 0 (128),
    .outboundSend (2573),
    .newelServiceOpportunity ⟨default, 3, 0⟩,
    .newelServiceOpportunity ⟨default, 0, 3⟩,
    .quiesced (2048),
    .queueStopped (2048) 0,
    .queueStopped 0 (256),
    .objUnref (2 ^ 32),
    .axisState (6) 0 0,
    .axisState 0 (8) 0,
    .axisState 0 0 (16),
    .throttle (4),
    .zeroed (4) 0,
    .zeroed 0 (520),
    .batch (4) 0 0 0,
    .batch 0 (64) 0 0,
    .batch 0 0 (1024) 0,
    .batch 0 0 0 (256),
    .growNotice (520) 0,
    .growNotice 0 (64),
    .bayFreed (520),
    .slotFreed (256),
    .keepaliveExpiry (769),
    .linkUp (2) false 0,
    .linkUp 0 false (8),
    .ringLinkDown (2),
    .gptpFrame (2) 0 0 0 0,
    .mkaFrame (2) false false,
    .transitFrame { (default : TransitIn) with port := 2 },
    .xseqResend (65536),
    .transportIdleTimeout (65536),
    .tc10SleepRequest (2),
    .tc10Wake (2),
    .deviceMsi (32),
    .readCompletion { (default : CmdRef) with queue := 2048 } 0 false default,
    .readCompletion default (2 ^ 32) false default] : List Instr).any wellFormed) = false := by
  decide +kernel

theorem test_wellFormed_refuses_events : (([
    .cplTimeout { (default : CmdRef) with queue := 2048 } 0,
    .cplTimeout default (2 ^ 32),
    .nvmeCompletion 0 (3) default,
    .nvmeFeedWrite (32),
    .limitInput (6) false false,
    .driveReadyTimeout (6),
    .brakeTimeElapsed (6),
    .heaterPeriod (2) 0 false,
    .heaterPeriod 0 (4096) false,
    .coolantSample (4096) 0,
    .coolantSample 0 (4096),
    .pllLockLost (8),
    .faultMessageArrive [{ (default : FaultMsg) with arg := 2 ^ 32 }],
    .hbmScrub (2 ^ 32) 0 0 default,
    .hallArrayTest (4) 0 0 default,
    .shaderSelfTest (32) false 0 0,
    .zeroing (4) 0 0,
    .frameRetire (64),
    .laneRepair (64) 0,
    .laneRepair 0 (64),
    .hbmTrainingDone false (64, 0) default,
    .hbmTrainingDone false (0, 0) [(64, 0)],
    .hbmTrainingDone false (0, 0) [(0, 64)],
    .hbmTrainingDone false (0, 64) default,
    .domainIdleTimeout (12),
    .domainPowerDownDone (12),
    .domainPowerGood (12),
    .hsTransition (4) false false 0 0,
    .hsTransition 0 false false (16) 0,
    .skewCalibration (4),
    .encoderEdge (6) 0 false false,
    .fsyncPulseTimer (2)] : List Instr).any wellFormed) = false := by
  decide +kernel

/-! ### The manual's worked examples -/

/-- spec/18, the MEM_ALLOC example: the stamped request word, and the reply word. -/
theorem test_words_of_the_mem_alloc_example :
    stampWord 0x02A 0x0001430108000004 = 0x02A1430108000004 ∧ requestWord 0x02A 0x14 3 0x0108 0 4 = 0x02A1430108000004
      ∧ replyWord 0x14 3 0x0108 0 false false 0 = 0x3101430108000000 := by decide +kernel

/-- spec/06, the SCRUB_STAT example: active, 25 % of the pass, 23,060 s. -/
theorem test_scrub_stat_example :
    regRead { State.reset with mem := { State.reset.mem with scrubActive := true, scrubPos := 12 * 2 ^ 30, scrubLast := 23060 } } 0x1630
      = 0x99005A14 := by decide +kernel

/-- spec/01, the SC_MAP example: PSC12 failed. -/
theorem test_map_after_psc12_fails :
    groupMap [12] 1 = 0x87654210 ∧ groupMap [12] 0 = 0x76543210 := by decide +kernel

/-- spec/03, the occupancy examples. -/
theorem test_occupancy_examples :
    occupancy [0x00800100, 0, 1024, 640 + 384 * 65536] 1024 = 6144
      ∧ occupancy [0x00800100, 0x82D0, 48, 1024 + 256 * 65536] 48 = 128
      ∧ occupancy [0x00800100, 0x288000, 64, 256 + 256 * 65536] 64 = 512
      ∧ occupancy ([0x00800100, 1] ++ List.replicate 17 0 ++ [25165824]) 0 = 197152 := by decide +kernel

/-- spec/04, the BS8 example: 15.97, −3.3, 0.7, 0.0625. -/
theorem test_block_scaled_example :
    toBlock true ([0x417F851F, 0xC0533333, 0x3F333333, 0x3D800000].map fun w => (fDecode fp32 false w).1) = (124, [127, -26, 6, 0]) := by
  decide +kernel

/-- spec/04, R105, R117: 0 × infinity is the canonical NaN, 0x7E00 as FP16. -/
theorem test_nan_of_zero_times_infinity :
    (fMul fp32 false 0 0x7F800000).nan = true ∧ (fConv fp32 fp16 false (fMul fp32 false 0 0x7F800000).w).w = 0x7E00 := by decide +kernel

/-- spec/07, the texel example. -/
theorem test_texel_offset_example : texelOff [0x00400100, 0x42, 1000 + 1000 * 65536] 0 70 35 = 0x22078 := by decide +kernel

/-- R52: the check value that defines CRC-32C, of the digits 1 to 9. -/
theorem test_crc32c_check_value : crc32c [0x31, 0x32, 0x33, 0x34, 0x35, 0x36, 0x37, 0x38, 0x39] = 0xE3069283 := by decide +kernel

/-- R447: 40 °C reads (40 + 64) × 4. -/
theorem test_temperature_field : tempField ⟨40, 1⟩ = 416 := by decide +kernel

/-- R533: WIN_ID at power-on reset. -/
theorem test_win_id : regRead State.reset 0 = 0x4280B001 := by decide +kernel

/-! ### Single steps -/

/-- A second word in a full mailbox replaces the first, sets COLLISION and counts (R268). -/
theorem test_mailbox_collision :
    (mbxOf (mbxWrite (mbxWrite State.reset 5 7) 5 9) 5) = ⟨9, true, true, 1⟩ := by decide +kernel

/-- A byte stored through a mapping is read back through it, and the byte beside it is not. -/
theorem test_read_after_write :
    ((devWrite wS 5 0x100010 [7]).toOption.map fun t => (devRead t 5 0x100010 2).toOption) = some (some [7, 0]) := by decide +kernel

/-- A write to the foot of the address space is refused with CAUSE 2, a program fetch from a mapping without X with CAUSE 1 (R171). -/
theorem test_refused_translations :
    (match translate wS 5 0xFFFF 1, translate wS 0x300 0x200000 4, translate wS 5 0x500000 1 with
      | .error a, .error b, .error c => [a, b, c] == [2, 1, 0]
      | _, _, _ => false) = true := by decide +kernel

/-- The front command runs, and the rest waits (the model's queue). -/
theorem test_queue_order :
    (match step { State.reset with pending := [.mbxSelWrite 5, .qSelWrite 6] } with
      | .next t => t.nw.mbxSel == 5 && t.cc.qSel == 0 && t.pending == [.qSelWrite 6]
      | _ => false) = true := by decide +kernel

/-- No row of the table gives bits, so no word spells a command. -/
theorem test_no_word_spells_a_command : decodeTableWord 64 0x02A1430108000004 = none := rfl

end Sys2Proof.Tests
end

section
namespace Sys2Proof.Machine
open Sys2Proof

/-! ### Unmapped registers (R6, R532)

The register window's read and write are chains of tests on the offset. An unmapped offset fails the test for each
register that the chain names, and lies in no bank of registers that it bounds. -/

section Unmapped
variable {off : Nat} (h : mappedReg off = false)
include h

theorem eq_mapped_iff_false {p : Nat} (hp : mappedReg p = true) : off = p ↔ False :=
  iff_false_intro fun e => by simp [← e, h] at hp

/-- `a` starts a bank of registers and `b` ends it, so an unmapped offset below `b` is below `a` too. -/
theorem lt_bank_start_of_lt_end {a b : Nat} (ha : off % 4 = 0) (h4 : a % 4 = 0)
    (hbank : ∀ k < (b + 3 - a) / 4, mappedReg (a + 4 * k) = true) (hlt : off < b) : off < a := by
  refine Nat.lt_of_not_le fun hge => ?_
  have hreg : off = a + 4 * ((off - a) / 4) := by omega
  exact (eq_mapped_iff_false h (hbank ((off - a) / 4) (by omega))).mp hreg

/-- A test for a bank that follows the test for the unmapped offsets below it is never met. -/
theorem ite_lt_bank {a b : Nat} {x y : Word} (ha : off % 4 = 0) (h4 : a % 4 = 0) (hab : a ≤ b)
    (hbank : ∀ k < (b + 3 - a) / 4, mappedReg (a + 4 * k) = true) :
    (if off < a then 0 else if off < b then x else y) = if off < b then 0 else y := by
  by_cases hlt : off < b
  · rw [if_pos (lt_bank_start_of_lt_end h ha h4 hbank hlt), if_pos hlt]
  · rw [if_neg (by omega), if_neg hlt, if_neg hlt]

theorem regRead_of_unmapped (s : State) : regRead s off = 0 := by
  by_cases ha : off % 4 = 0
  · simp (disch := decide) only [regRead, ha, ne_eq, not_true_eq_false, eq_mapped_iff_false h, or_self, if_false,
      ite_lt_bank h ha, ite_self]
  · exact if_pos ha

/-- The read has no side effect: `ATT_CNT_LO`, whose read latches (R379), is mapped. -/
theorem performRead_of_unmapped (s : State) : performRead s off = (s, 0) := by
  simp (disch := decide) only [performRead, eq_mapped_iff_false h, if_false, regRead_of_unmapped h]

theorem regWrite_of_unmapped (s : State) (v : Word) : regWrite s off v = s := by
  simp (disch := decide) only [regWrite, eq_mapped_iff_false h, if_false]

end Unmapped

theorem exec_registerWriteOther (off : Nat) (v : Word) (s : State) :
    exec (.registerWriteOther off v) s = .next (regWrite s off v) := rfl

/-- Settles O53: a read and a write of the window test the offset only against mapped registers. -/
theorem unmappedRegisters : Obligations.UnmappedRegisters := by
  intro s off v h
  exact ⟨performRead_of_unmapped h s, by rw [exec_registerWriteOther, regWrite_of_unmapped h]⟩

end Sys2Proof.Machine
end

section
namespace Sys2Proof.Machine
open Sys2Proof

/-! ### Resetting a queue (R319) -/

/-- A queue that a request may name is in the table, whoever asks (R525, check 6). -/
theorem queueOf_of_needQueue {s : State} {who q : Nat} {x : Queue} (h : needQueue s who q = .ok x) :
    queueOf s q = some x := by
  unfold needQueue at h
  split at h
  · cases h
  · rename_i y hy
    have hx : y = x := by
      split at h
      · cases h
      · split at h
        · exact Except.ok.inj h
        · split at h <;> cases h
    rw [hy, hx]

/-- What a reset does to a queue in the table. -/
theorem resetQueue_of_queueOf {s : State} {q : Nat} {x : Queue} (h : queueOf s q = some x) :
    resetQueue s q =
      let u := setQueue (if x.faultDone = true then s else failPending s x) q
        { x with st := .active, entries := [], rptr := x.w, dptr := x.w, out := x.out.filter (fun o => o.op != 0x11),
                 faultCode := 0, faultDone := true }
      let v := writeStatus (unref u (x.entries.flatMap Entry.objs)) q
      if x.faultDone = true then v else wake v := by
  rw [resetQueue, h]

section Body
variable {who : Nat} {r : ReqIn} {s : State} {x : Queue} (hx : needQueue s who (wd r.block 1).toNat = .ok x)
include hx

theorem bodyQueueReset_of_faulted (hst : x.st = .faulted) :
    bodyQueueReset who r s = okRes (resetQueue s (wd r.block 1).toNat) [] := by
  simp only [bodyQueueReset, hx, hst, if_true]

theorem bodyQueueReset_of_not_faulted (hst : x.st ≠ .faulted) : bodyQueueReset who r s = errRes s cBADSTATE := by
  simp only [bodyQueueReset, hx, hst, if_false]

end Body

/-- An accepted QUEUE_RESET replies with what its body answers, and is no flight. -/
theorem exec_queueReset {r : ReqIn} {s : State} (h : accepted specQueueReset r s = true) :
    exec (.queueReset r) s =
      let res := bodyQueueReset (asker r) r s
      .next (sendReply res.st 0x22 r false res.status res.detail res.result) :=
  congrArg Host.Outcome.next (runRequest_accepted specQueueReset r s h)

/-- Settles O55: an accepted QUEUE_RESET resets the queue it names when FAULTED, and else answers BAD_STATE. -/
theorem queueReset : Obligations.QueueReset := by
  refine ⟨fun r s x hacc hx hst => ?_, fun r s x hacc hx hst => ?_⟩
  · rw [exec_queueReset hacc, bodyQueueReset_of_faulted hx hst, resetQueue_of_queueOf (queueOf_of_needQueue hx)]
    rfl
  · rw [exec_queueReset hacc, bodyQueueReset_of_not_faulted hx hst]
    rfl

end Sys2Proof.Machine
end

section
namespace Sys2Proof.Machine
open Sys2Proof

/-! ### Sparse tables -/

theorem tget_tput_same {α : Type} (t : List (Nat × α)) (i : Nat) (v : α) : tget (tput t i v) i = some v := by
  induction t with
  | nil => simp [tput, tget]
  | cons p t ih =>
    simp only [tput]
    split
    · simp [tget]
    · split
      · simp [tget]
      · rename_i hne; simpa [tget, Ne.symm hne] using ih

theorem tget_tmod_same {α : Type} (t : List (Nat × α)) (i : Nat) (g : α → α) : tget (tmod t i g) i = (tget t i).map g := by
  induction t with
  | nil => rfl
  | cons p t ih => by_cases h : p.1 = i <;> simp_all [tmod, tget]

theorem mem_of_tget {α : Type} {t : List (Nat × α)} {i : Nat} {v : α} (h : tget t i = some v) : (i, v) ∈ t := by
  induction t with
  | nil => cases h
  | cons p t ih =>
    simp only [tget] at h
    split at h
    · next he => cases h; exact List.mem_cons.mpr (.inl (Prod.ext he.symm rfl))
    · exact List.mem_cons_of_mem _ (ih h)

theorem mem_tput {α : Type} {t : List (Nat × α)} {i : Nat} {v : α} {p : Nat × α} (h : p ∈ tput t i v) : p = (i, v) ∨ p ∈ t := by
  induction t with
  | nil => exact .inl (by simpa [tput] using h)
  | cons q t ih =>
    simp only [tput] at h
    split at h
    · exact List.mem_cons.mp h
    · split at h
      · exact (List.mem_cons.mp h).imp_right (List.mem_cons_of_mem q)
      · obtain rfl | h := List.mem_cons.mp h
        · exact .inr List.mem_cons_self
        · exact (ih h).imp_right (List.mem_cons_of_mem q)

/-- A filter that passes over the key does not see the value put under it. -/
theorem filter_tput {α : Type} (t : List (Nat × α)) (i : Nat) (v : α) (keep : Nat × α → Bool) (h : ∀ w, keep (i, w) = false) :
    (tput t i v).filter keep = t.filter keep := by
  induction t with
  | nil => simp [tput, h]
  | cons p t ih =>
    simp only [tput]
    split
    · simp [h]
    · split
      · next he => subst he; simp [h]
      · simp [List.filter_cons, ih]

/-! ### What ring traffic changes

The Landing's checks, acknowledgements and answers touch the ports, the transport sessions, the frames sent and the
secure sessions, and nothing else. -/

/-- The parts of the state that the passage of a frame changes (R364, R389, R399). -/
structure Traffic where
  ports : List Port
  ts : List (Nat × TSess)
  tx : List TxFrame
  sess : List (Nat × Session)

/-- The state with other traffic in it. -/
def withTraffic (s : State) (T : Traffic) : State :=
  { s with ring := { s.ring with ports := T.ports, ts := T.ts, tx := T.tx }, sec := { s.sec with sess := T.sess } }

def trafficOf (s : State) : Traffic := ⟨s.ring.ports, s.ring.ts, s.ring.tx, s.sec.sess⟩

theorem modTs_withTraffic (s : State) (T : Traffic) (k : Nat) (g : TSess → TSess) :
    modTs (withTraffic s T) k g = withTraffic s { T with ts := tmod T.ts k g } := rfl

/-- No session is within `n` sealed frames of the SEAL_SEQ at which a rekey falls due (R365). -/
def roomFor (n : Nat) (sess : List (Nat × Session)) : Prop := ∀ p ∈ sess, p.2.txSeq + n < 2 ^ 48 - 2 ^ 32

theorem roomFor.mono {m n : Nat} {sess : List (Nat × Session)} (h : roomFor n sess) (hmn : m ≤ n) : roomFor m sess :=
  fun p hp => Nat.lt_of_le_of_lt (Nat.add_le_add_left hmn _) (h p hp)

theorem sealDue_of_room {s : State} (h : roomFor 0 s.sec.sess) : sealDue s = s := by
  refine List.foldlRecOn (motive := fun u => u = s) s.sec.sess _ rfl fun u hu p hp => ?_
  rw [if_pos (.inr (.inr (h p hp)))]
  exact hu

theorem roomFor_bumpSeal {n : Nat} {s : State} (h : roomFor (n + 1) s.sec.sess) (who : Nat) :
    roomFor n (bumpSeal s who).sec.sess := by
  intro p hp
  obtain ⟨q, hq, rfl⟩ := List.mem_map.mp hp
  have hroom := h q hq
  split
  · dsimp only
    split
    · show q.2.txSeq + 1 + n < _
      omega
    · omega
  · omega

/-! ### The part's own frames (R397, R399) -/

section SendFrame
variable (s : State) (k type mbx stage : Nat) (q : Bool) (bs : List Byte)

theorem sendFrame_traffic : ∃ T, sendFrame s k type mbx stage q bs = withTraffic s T := by
  unfold sendFrame
  split
  · exact ⟨trafficOf s, rfl⟩
  · dsimp only; split <;> exact ⟨⟨_, _, _, _⟩, rfl⟩

theorem roomFor_sendFrame {n : Nat} (h : roomFor (n + 1) s.sec.sess) :
    roomFor n (sendFrame s k type mbx stage q bs).sec.sess := by
  have hn : roomFor n s.sec.sess := h.mono n.le_succ
  unfold sendFrame
  split
  · exact hn
  · dsimp only
    split
    · exact roomFor_bumpSeal h _
    · exact hn

theorem sentLast_sendFrame {x : TSess} (h : tget s.ring.ts k = some x) :
    sentLast (sendFrame s k type mbx stage q bs) k type bs = true := by
  unfold sendFrame
  rw [h]
  dsimp only
  split <;> simp [sentLast, bumpSeal, emit]

end SendFrame

/-! ### The answer to a frame acted on -/

/-- Type and payload of the frame that answers a sequenced frame: a NAK, a reply, or an acknowledgement (R397, R400). -/
def Act.answerFrame (a : Act) (xseq : Nat) : Nat × List Byte :=
  match a.nak with
  | some r => (0x04, leBytes 4 xseq ++ leBytes 4 r)
  | none => a.reply.getD (0x03, [])

theorem sentLast_settleAct {a : Act} {k : Nat} {x : TSess} (h : tget a.st.ring.ts k = some x) (xseq : Nat) :
    sentLast (settleAct a k xseq) k (a.answerFrame xseq).1 (a.answerFrame xseq).2 = true := by
  have hmod (g : TSess → TSess) : tget (modTs a.st k g).ring.ts k = some (g x) := by simp [tget_tmod_same, h]
  obtain ⟨st, nak, reply, ends⟩ := a
  cases nak with
  | some r => exact sentLast_sendFrame _ _ _ _ _ _ _ h
  | none => cases reply <;> exact sentLast_sendFrame _ _ _ _ _ _ _ (hmod _)

theorem settleAct_traffic (a : Act) (k xseq : Nat) : ∃ T, settleAct a k xseq = withTraffic a.st T := by
  obtain ⟨st, nak, reply, ends⟩ := a
  cases nak with
  | some r =>
    obtain ⟨T, hT⟩ := sendFrame_traffic st k 0x04 0 0 false (leBytes 4 xseq ++ leBytes 4 r)
    exact ⟨_, (congrArg (modTs · k _) hT).trans (modTs_withTraffic ..)⟩
  | none =>
    cases reply
    all_goals
      obtain ⟨T, hT⟩ := sendFrame_traffic ..
      exact ⟨T, hT⟩

theorem roomFor_settleAct {n : Nat} {a : Act} (h : roomFor (n + 1) a.st.sec.sess) (k xseq : Nat) :
    roomFor n (settleAct a k xseq).sec.sess := by
  obtain ⟨st, nak, reply, ends⟩ := a
  cases nak with
  | some r => exact roomFor_sendFrame _ _ _ _ _ _ _ h
  | none => cases reply <;> exact roomFor_sendFrame _ _ _ _ _ _ _ h

/-! ### A frame that passes (R364, R389, R390, R398) -/

/-- A port apart from the packet number that it received last, which no register shows. -/
def Port.SameButPn (x y : Port) : Prop := ∃ pn, x = { y with pnRx := pn }

/-- The register window shows the traffic `T` as it shows the state's own: the ports differ in packet numbers only,
the operator is bound or not alike, and as many contexts are bound (R378, R415, R416). -/
structure ShownAlike (s : State) (T : Traffic) : Prop where
  ports : ∀ i, (T.ports.getD i default).SameButPn (s.ring.ports.getD i default)
  operator : (tget T.sess 0x300).map Session.full = (tget s.sec.sess 0x300).map Session.full
  contexts : (T.sess.filter fun p => isCtx p.1 && p.2.full) = s.sec.sess.filter fun p => isCtx p.1 && p.2.full

theorem sameButPn_upd_pnRx (ports : List Port) (p pn i : Nat) :
    ((upd ports p fun x => { x with pnRx := pn }).getD i default).SameButPn (ports.getD i default) := by
  simp only [Port.SameButPn, upd, List.getD_eq_getElem?_getD, List.getElem?_modify]
  cases ports[i]? with
  | none => exact ⟨(default : Port).pnRx, rfl⟩
  | some x =>
    by_cases h : p = i
    · exact ⟨pn, by simp [h]⟩
    · exact ⟨x.pnRx, by simp [h]⟩

/-- Ingress that lets a frame pass changes at most the packet number of its port. -/
theorem macIngress_cases (s : State) (p : Nat) (fcsOk protect icvOk : Bool) (pn : Nat) (exempt : Bool) :
    let m := macIngress s p fcsOk protect icvOk pn exempt
    m.2 = false ∨ ∃ ports, m.1 = withTraffic s { trafficOf s with ports := ports } ∧
      ∀ i, (ports.getD i default).SameButPn (s.ring.ports.getD i default) := by
  unfold macIngress
  split
  · exact .inl rfl
  split
  · exact .inl rfl
  split
  · split
    · exact .inl rfl
    · exact .inr ⟨_, rfl, sameButPn_upd_pnRx s.ring.ports p pn⟩
  · exact .inr ⟨_, rfl, fun i => ⟨(s.ring.ports.getD i default).pnRx, rfl⟩⟩

/-- A seal that opens moves the session's receive window; whether it is full and the part's own SEAL_SEQ stay (R364, R365). -/
theorem openSeal_cases (s : State) (who : Nat) (f : FrameIn) :
    (openSeal s who f).2 = false ∨
      ∃ y z : Session, (openSeal s who f).1 = withTraffic s { trafficOf s with sess := tput s.sec.sess who z } ∧
        tget s.sec.sess who = some y ∧ z.full = y.full ∧ z.txSeq = y.txSeq := by
  unfold openSeal
  split
  · exact .inl rfl
  · next y hy =>
    split
    · split
      · exact .inl rfl
      · exact .inr ⟨y, _, rfl, hy, rfl, rfl⟩
    split
    · exact .inl rfl
    dsimp only
    split <;> split
    · exact .inl rfl
    · exact .inr ⟨y, _, rfl, hy, rfl, rfl⟩
    · exact .inl rfl
    · exact .inr ⟨y, _, rfl, hy, rfl, rfl⟩

theorem roomFor_tput {n who : Nat} {sess : List (Nat × Session)} {y z : Session} (h : roomFor n sess)
    (hy : tget sess who = some y) (hz : z.txSeq = y.txSeq) : roomFor n (tput sess who z) := by
  intro p hp
  obtain rfl | hp := mem_tput hp
  · rw [hz]; exact h _ (mem_of_tget hy)
  · exact h p hp

/-- The operator is no context: its session does not count among the bound contexts (R378). -/
theorem contexts_tput_operator (sess : List (Nat × Session)) (z : Session) :
    ((tput sess 0x300 z).filter fun p => isCtx p.1 && p.2.full) = sess.filter fun p => isCtx p.1 && p.2.full :=
  filter_tput sess 0x300 z _ fun _ => rfl

theorem full_tput {sess : List (Nat × Session)} {who : Nat} {y z : Session} (hy : tget sess who = some y)
    (hz : z.full = y.full) : (tget (tput sess who z) who).map Session.full = (tget sess who).map Session.full := by
  rw [tget_tput_same, hy]
  exact congrArg some hz

/-- The frames that XACK acknowledges are held no longer. -/
def TSess.acked (x : TSess) (xack : Nat) : TSess :=
  { x with unacked := x.unacked.filter fun u => 2 ^ 31 ≤ (xack + 2 ^ 32 - u.xseq) % 2 ^ 32 }

/-- What session `k` holds after an acknowledgement. -/
def Traffic.acked (T : Traffic) (k xack : Nat) : Traffic := { T with ts := tmod T.ts k (·.acked xack) }

theorem ackFrames_withTraffic (s : State) (T : Traffic) (k xack : Nat) :
    ackFrames (withTraffic s T) k xack = withTraffic s (T.acked k xack) := rfl

/-- The Landing has let a frame of session `x` pass, and `T` is the traffic of the state in which it acts on it. -/
structure TakenIn (s : State) (f : FrameIn) (x : TSess) (T : Traffic) : Prop where
  session : tget T.ts f.ts = some (x.acked f.xack)
  room : roomFor 8 T.sess
  shown : x.ident = 0x300 → ShownAlike s T

theorem frameWake_of_run {s : State} (hrun : s.pw.st = .run) (hent : s.pw.entering = none) (t : Nat) : frameWake s t = s := by
  simp [frameWake, hrun, hent]

theorem roomFor_of_sealRoom {s : State} (h : sealRoom s = true) : roomFor 8 s.sec.sess := fun p hp =>
  of_decide_eq_true (List.all_eq_true.mp h p hp)

/-- A frame that passes all checks reaches the sequencing of its session, with only traffic changed before. -/
theorem clientFrame_passes {s : State} {t : Nat} {f : FrameIn} {x : TSess} (h : passes s t f x = true) (hst : x.st = .full)
    (ht : seqType t = true) (ver : Verdict) : ∃ T, TakenIn s f x T ∧
      clientFrame s t ver f = sealDue (seqFrame (withTraffic s T) t f.ts (x.acked f.xack) ver f) := by
  simp only [passes, hst, Bool.and_eq_true, beq_iff_eq, bne_self_eq_false, Bool.false_or] at h
  obtain ⟨⟨⟨⟨⟨⟨⟨⟨hmac, hhdr⟩, hts⟩, hseal⟩, -⟩, -⟩, hroom⟩, hrun⟩, hent⟩ := h
  have hhello : t ≠ 0x01 := by rintro rfl; cases ht
  obtain ⟨ports, hm, hports⟩ :=
    (macIngress_cases s f.port f.fcsOk f.protect f.icvOk f.pn (exemptType t f.isSealed)).resolve_left (by simp [hmac])
  rw [hm] at hseal
  obtain ⟨y, z, ho, hy, hfull, hseq⟩ :=
    (openSeal_cases (withTraffic s { trafficOf s with ports := ports }) x.ident f).resolve_left (by simp [hseal])
  let T : Traffic := ⟨ports, s.ring.ts, s.ring.tx, tput s.sec.sess x.ident z⟩
  have hopen : (openSeal (withTraffic s { trafficOf s with ports := ports }) x.ident f).1 = withTraffic s T := ho
  have hpast : tsOf (withTraffic s { trafficOf s with ports := ports }) f.ts = some x := hts
  have hsess : tsOf (withTraffic s (T.acked f.ts f.xack)) f.ts = some (x.acked f.xack) :=
    (tget_tmod_same s.ring.ts f.ts (·.acked f.xack)).trans (congrArg (Option.map (·.acked f.xack)) hts)
  refine ⟨T.acked f.ts f.xack, ⟨hsess, roomFor_tput (roomFor_of_sealRoom hroom) hy hseq, fun hop => ?_⟩, ?_⟩
  · rw [hop] at hy
    simp only [T, hop]
    exact ⟨hports, full_tput hy hfull, contexts_tput_operator _ _⟩
  · have hrun : frameWake (withTraffic s (T.acked f.ts f.xack)) t = withTraffic s (T.acked f.ts f.xack) :=
      frameWake_of_run (s := withTraffic s _) hrun hent t
    simp only [clientFrame, hm, hmac, hhdr, hhello, hpast, hst, hseal, hopen, ackFrames_withTraffic, hrun, hsess, ht,
      not_true_eq_false, if_true, if_false]

/-- The frame next in order is acted on and answered; unless the act ends something, nothing but traffic follows it. -/
theorem clientFrame_inOrder {s : State} {t : Nat} {f : FrameIn} {x : TSess} (h : inOrder s t f x = true) (hst : x.st = .full)
    (ht : seqType t = true) (ver : Verdict) : ∃ T, TakenIn s f x T ∧
      ∀ r, let a := act (withTraffic s T) t f.ts (x.acked f.xack) ver f
        a.st = withTraffic r T → a.ends = false → ∃ U, clientFrame s t ver f = withTraffic r U ∧
          sentLast (withTraffic r U) f.ts (a.answerFrame f.xseq).1 (a.answerFrame f.xseq).2 = true := by
  obtain ⟨hpass, hnext⟩ := Bool.and_eq_true_iff.mp h
  obtain ⟨T, hT, hrun⟩ := clientFrame_passes hpass hst ht ver
  refine ⟨T, hT, fun r => ?_⟩
  intro a hact hends
  have hseq : seqFrame (withTraffic s T) t f.ts (x.acked f.xack) ver f = settleAct a f.ts f.xseq :=
    (if_pos (beq_iff_eq.mp hnext)).trans (if_pos (by simp [a, hends]))
  have hroom : roomFor 0 (settleAct a f.ts f.xseq).sec.sess :=
    roomFor_settleAct (hact ▸ hT.room.mono (by decide)) _ _
  obtain ⟨U, hU⟩ := settleAct_traffic a f.ts f.xseq
  rw [hact] at hU
  refine ⟨U, ?_, ?_⟩
  · rw [hrun, hseq, sealDue_of_room hroom, hU]; rfl
  · have hsess : tget a.st.ring.ts f.ts = some (x.acked f.xack) := by rw [hact]; exact hT.session
    have hsent := sentLast_settleAct hsess f.xseq
    rw [hU] at hsent
    exact hsent

/-! ### The registers (R378, R403, R415, R416, R532) -/

theorem regSec_withTraffic {s : State} {T : Traffic} (h : ShownAlike s T) : regSec (withTraffic s T) = regSec s := by
  have hop : bound (withTraffic s T) 0x300 = bound s 0x300 := congrArg (Option.getD · false) h.operator
  unfold regSec
  rw [hop]
  simp only [withTraffic, h.contexts]

theorem regRing_withTraffic {s : State} {T : Traffic} (h : ShownAlike s T) (p : Nat) :
    regRing (withTraffic s T) p = regRing s p := by
  obtain ⟨pn, hp⟩ := h.ports p
  simp only [regRing, withTraffic, hp]

theorem regRingErr_withTraffic {s : State} {T : Traffic} (h : ShownAlike s T) (p : Nat) :
    regRingErr (withTraffic s T) p = regRingErr s p := by
  obtain ⟨pn, hp⟩ := h.ports p
  simp only [regRingErr, withTraffic, hp]

theorem fwdDrop_withTraffic {s : State} {T : Traffic} (h : ShownAlike s T) (p : Nat) :
    ((withTraffic s T).ring.ports.getD p default).fwdDrop = (s.ring.ports.getD p default).fwdDrop := by
  obtain ⟨pn, hp⟩ := h.ports p
  simp only [withTraffic, hp]

/-- Every other register shows parts of the state that traffic leaves alone. -/
theorem regRead_withTraffic {s : State} {T : Traffic} (h : ShownAlike s T) (off : Nat) :
    regRead (withTraffic s T) off = regRead s off := by
  simp only [regRead, regSec_withTraffic h, regRing_withTraffic h, regRingErr_withTraffic h, fwdDrop_withTraffic h]
  repeat' with_reducible refine ite_congr rfl (fun _ => ?_) fun _ => ?_
  -- The index stays opaque: `rfl` would count its subtraction down.
  all_goals generalize off / 4 - _ = i
  all_goals rfl

theorem performRead_withTraffic {s : State} {T : Traffic} (h : ShownAlike s T) (off : Nat) :
    performRead (withTraffic s T) off = (withTraffic (performRead s off).1 T, (performRead s off).2) := by
  unfold performRead
  rw [regRead_withTraffic h]
  split <;> rfl

/-- The latch of `ATT_CNT_LO` is all that a read changes (R379). -/
theorem performRead_latches (s : State) (off : Nat) :
    ∃ n, (performRead s off).1 = { s with sec := { s.sec with attLatch := n } } := by
  unfold performRead
  split
  · exact ⟨_, rfl⟩
  · exact ⟨s.sec.attLatch, rfl⟩

theorem readRegs_latches (n : Nat) : ∀ (s : State) (off : Nat),
    ∃ k, (readRegs n s off).1 = { s with sec := { s.sec with attLatch := k } } := by
  induction n with
  | zero => exact fun s _ => ⟨s.sec.attLatch, rfl⟩
  | succ n ih =>
    intro s off
    obtain ⟨j, hj⟩ := performRead_latches s off
    obtain ⟨k, hk⟩ := ih (performRead s off).1 (off + 4)
    exact ⟨k, by rw [readRegs, hk, hj]⟩

theorem ShownAlike.performRead {s : State} {T : Traffic} (h : ShownAlike s T) (off : Nat) :
    ShownAlike (performRead s off).1 T := by
  obtain ⟨n, hn⟩ := performRead_latches s off
  rw [hn]
  exact ⟨h.ports, h.operator, h.contexts⟩

theorem readRegs_withTraffic (n : Nat) : ∀ {s : State} {T : Traffic}, ShownAlike s T → ∀ off,
    readRegs n (withTraffic s T) off = (withTraffic (readRegs n s off).1 T, (readRegs n s off).2) := by
  induction n with
  | zero => exact fun _ _ => rfl
  | succ n ih =>
    intro s T h off
    simp only [readRegs, performRead_withTraffic h, ih (h.performRead off)]

theorem clearFirst_withTraffic (s : State) (T : Traffic) (v : Word) :
    clearFirst (withTraffic s T) v = withTraffic (clearFirst s v) T := by
  unfold clearFirst; split <;> rfl

theorem writeErrR_withTraffic (s : State) (T : Traffic) (v : Word) :
    writeErrR (withTraffic s T) v = withTraffic (writeErrR s v) T := by
  simp only [writeErrR, apply_ite (withTraffic · T)]; rfl

theorem regWrite_withTraffic (s : State) (T : Traffic) (off : Nat) (v : Word) :
    regWrite (withTraffic s T) off v = withTraffic (regWrite s off v) T := by
  simp only [regWrite, apply_ite (withTraffic · T), clearFirst_withTraffic, writeErrR_withTraffic]
  rfl

theorem writeRegs_withTraffic (vs : List Word) : ∀ (s : State) (T : Traffic) (off : Nat),
    writeRegs vs (withTraffic s T) off = withTraffic (writeRegs vs s off) T := by
  induction vs with
  | nil => exact fun _ _ _ => rfl
  | cons v vs ih => exact fun s T off => by simp only [writeRegs, regWrite_withTraffic, ih]

/-! ### REG_READ and REG_WRITE (R400, R403) -/

section Acts
variable {x : TSess} (hst : x.st = .full) (s : State) (k xack : Nat) (ver : Verdict) (f : FrameIn)
include hst

theorem act_regRead : act s 0x1C k (x.acked xack) ver f = actRegRead s x.ident f := by
  simp [act, typeOk, TSess.acked, hst]

theorem act_regWrite : act s 0x1D k (x.acked xack) ver f = actRegWrite s x.ident f := by
  simp [act, typeOk, TSess.acked, hst]

end Acts

theorem actRegRead_denied {who : Nat} (h : who ≠ 0x300) (s : State) (f : FrameIn) : actRegRead s who f = refuse s 6 :=
  if_pos h

theorem actRegWrite_denied {who : Nat} (h : who ≠ 0x300) (s : State) (f : FrameIn) : actRegWrite s who f = refuse s 6 :=
  if_pos h

theorem actRegRead_operator {f : FrameIn} (hlen : f.payload.length = 8) (hmin : 1 ≤ ofLe (f.payload.drop 4))
    (hmax : ofLe (f.payload.drop 4) ≤ 64) (s : State) :
    actRegRead s 0x300 f =
      let r := readRegs (ofLe (f.payload.drop 4)) s (ofLe (f.payload.take 4))
      answer r.1 0x1E (leBytes 4 f.xseq ++ r.2) := by
  simp only [actRegRead]
  rw [if_neg (fun h => h rfl), if_neg (by omega)]

theorem actRegWrite_operator {f : FrameIn} (hmin : 8 ≤ f.payload.length) (hmax : f.payload.length ≤ 260)
    (hword : f.payload.length % 4 = 0) (s : State) :
    actRegWrite s 0x300 f = done (writeRegs (bytesWords (f.payload.drop 4)) s (ofLe (f.payload.take 4))) := by
  rw [actRegWrite, if_neg (fun h => h rfl), if_neg (by omega)]

theorem exec_regRead (f : FrameIn) (s : State) : exec (.regRead f) s = .next (clientFrame s 0x1C noVerdict f) := rfl

theorem exec_regWrite (f : FrameIn) (s : State) : exec (.regWrite f) s = .next (clientFrame s 0x1D noVerdict f) := rfl

section Settle
variable {s : State} {f : FrameIn} {x : TSess} (hst : x.st = .full)
include hst

theorem exec_regRead_operator (h : inOrder s 0x1C f x = true) (hop : x.ident = 0x300) (hlen : f.payload.length = 8)
    (hmin : 1 ≤ ofLe (f.payload.drop 4)) (hmax : ofLe (f.payload.drop 4) ≤ 64) :
    let r := readRegs (ofLe (f.payload.drop 4)) s (ofLe (f.payload.take 4))
    ∃ U, exec (.regRead f) s = .next (withTraffic r.1 U) ∧
      sentLast (withTraffic r.1 U) f.ts 0x1E (leBytes 4 f.xseq ++ r.2) = true := by
  intro r
  obtain ⟨T, hT, hrun⟩ := clientFrame_inOrder h hst rfl noVerdict
  have hact : act (withTraffic s T) 0x1C f.ts (x.acked f.xack) noVerdict f
      = answer (withTraffic r.1 T) 0x1E (leBytes 4 f.xseq ++ r.2) := by
    rw [act_regRead hst, hop, actRegRead_operator hlen hmin hmax,
      readRegs_withTraffic _ (hT.shown hop)]
  have hrun := hrun r.1
  rw [hact] at hrun
  obtain ⟨U, hU, hsent⟩ := hrun rfl rfl
  exact ⟨U, by rw [exec_regRead, hU], hsent⟩

theorem exec_regWrite_operator (h : inOrder s 0x1D f x = true) (hop : x.ident = 0x300) (hmin : 8 ≤ f.payload.length)
    (hmax : f.payload.length ≤ 260) (hword : f.payload.length % 4 = 0) :
    let r := writeRegs (bytesWords (f.payload.drop 4)) s (ofLe (f.payload.take 4))
    ∃ U, exec (.regWrite f) s = .next (withTraffic r U) ∧ sentLast (withTraffic r U) f.ts 0x03 [] = true := by
  intro r
  obtain ⟨T, hT, hrun⟩ := clientFrame_inOrder h hst rfl noVerdict
  have hact : act (withTraffic s T) 0x1D f.ts (x.acked f.xack) noVerdict f = done (withTraffic r T) := by
    rw [act_regWrite hst, hop, actRegWrite_operator hmin hmax hword,
      writeRegs_withTraffic]
  have hrun := hrun r
  rw [hact] at hrun
  obtain ⟨U, hU, hsent⟩ := hrun rfl rfl
  exact ⟨U, by rw [exec_regWrite, hU], hsent⟩

/-- A refusal changes nothing but traffic, and its NAK carries the frame's XSEQ (R400). -/
theorem clientFrame_refused {t reason : Nat} (h : inOrder s t f x = true) (ht : seqType t = true)
    (hact : ∀ T, act (withTraffic s T) t f.ts (x.acked f.xack) noVerdict f = refuse (withTraffic s T) reason) :
    ∃ U, clientFrame s t noVerdict f = withTraffic s U ∧
      sentLast (withTraffic s U) f.ts 0x04 (leBytes 4 f.xseq ++ leBytes 4 reason) = true := by
  obtain ⟨T, -, hrun⟩ := clientFrame_inOrder h hst ht noVerdict
  have hrun := hrun s
  rw [hact T] at hrun
  exact hrun rfl rfl

end Settle

/-- Settles O59: the frame passes and is acted on in a state that shows the registers as the state before it; the answer
changes traffic only. -/
theorem registerAccess : Obligations.RegisterAccess := by
  refine ⟨fun s f x h hst hop hlen hmin hmax => ?_, fun s f x h hst hop hmin hmax hword => ?_, fun s f x h hst hid => ?_,
    fun s f x h hst hid => ?_⟩
  · obtain ⟨U, hU, hsent⟩ := exec_regRead_operator hst h hop hlen hmin hmax
    obtain ⟨n, hn⟩ := readRegs_latches (ofLe (f.payload.drop 4)) s (ofLe (f.payload.take 4))
    refine ⟨_, hU, hsent, rfl, ?_⟩
    rw [hn]
    exact ⟨rfl, rfl⟩
  · obtain ⟨U, hU, hsent⟩ := exec_regWrite_operator hst h hop hmin hmax hword
    exact ⟨_, hU, hsent, rfl, rfl⟩
  · obtain ⟨U, hU, hsent⟩ := clientFrame_refused hst h rfl fun T =>
      (act_regRead hst ..).trans (actRegRead_denied hid _ _)
    exact ⟨_, by rw [exec_regRead, hU], hsent, rfl, rfl, rfl⟩
  · obtain ⟨U, hU, hsent⟩ := clientFrame_refused hst h rfl fun T =>
      (act_regWrite hst ..).trans (actRegWrite_denied hid _ _)
    exact ⟨_, by rw [exec_regWrite, hU], hsent, rfl, rfl⟩

end Sys2Proof.Machine
end

section
namespace Sys2Proof.Machine
open Sys2Proof

/-! ### What a tick latches (R423)

Of an axis the latch reads the counter, the latched count and the encoder record in force. Everything else that a tick
does to the axes leaves these three as they are. -/

/-- What the latch reads of an axis. -/
structure Encoder where
  count : Int
  latched : Int
  enc : List Word

/-- What the latch reads of the state: the axes' encoders, and the records in the effective calibration for those
that have not taken one. -/
structure Encoders where
  axes : List Encoder
  record : Nat → List Word

def Axis.encoder (a : Axis) : Encoder := ⟨a.count, a.latched, a.enc⟩

def encodersOf (s : State) : Encoders := ⟨s.mc.axes.map Axis.encoder, calRec s 3⟩

/-- The count that a tick latches. -/
def Encoder.sample (e : Encoder) (record : List Word) (x : AxisIn) : Int :=
  if encBiss (if e.enc = [] then record else e.enc) then (if x.ok then x.pos else e.latched) else e.count

def Encoder.latch (e : Encoder) (record : List Word) (x : AxisIn) : Encoder := { e with latched := e.sample record x }

def Encoders.latchAt (v : Encoders) (i : Nat) (x : AxisIn) : Encoders :=
  { v with axes := upd v.axes i fun e => e.latch (v.record i) x }

/-- Latching the axes below `k` one after the other latches each of them once. -/
theorem foldl_latchAt (ins : Nat → AxisIn) (v : Encoders) (k : Nat) :
    (List.range k).foldl (fun v i => v.latchAt i (ins i)) v =
      { v with axes := v.axes.mapIdx fun i e => if i < k then e.latch (v.record i) (ins i) else e } := by
  induction k with
  | zero => exact congrArg (Encoders.mk · v.record) (List.ext_getElem? fun i => by simp)
  | succ k ih =>
    rw [List.range_succ, List.foldl_append, ih]
    simp only [List.foldl_cons, List.foldl_nil, Encoders.latchAt, upd, Encoders.mk.injEq, and_true]
    refine List.ext_getElem? fun i => ?_
    rw [List.getElem?_modify, List.getElem?_mapIdx, List.getElem?_mapIdx]
    cases v.axes[i]? with
    | none => rfl
    | some e =>
      simp only [Option.map_eq_map, Option.map_some]
      obtain hlt | rfl | hgt := Nat.lt_trichotomy i k
      · rw [if_neg (Nat.ne_of_gt hlt), if_pos hlt, if_pos (Nat.lt_succ_of_lt hlt)]
      · rw [if_pos rfl, if_neg (Nat.lt_irrefl i), if_pos (Nat.lt_succ_self i)]
      · rw [if_neg (Nat.ne_of_lt hgt), if_neg (Nat.lt_asymm hgt), if_neg (Nat.not_lt.mpr hgt)]

/-! ### What leaves the encoders as they are -/

/-- A part that both branches leave as it is stays, whichever is taken. -/
theorem apply_ite_eq {α β : Type} (f : α → β) {p : Prop} [Decidable p] {a b : α} {v : β} (ha : f a = v)
    (hb : f b = v) : f (if p then a else b) = v := by
  rw [apply_ite f, ha, hb, ite_self]

/-- A write to an axis reaches its encoder alone; a write to one that is not there changes nothing. -/
theorem encodersOf_modAxis (s : State) (i : Nat) {f : Axis → Axis} {g : Encoder → Encoder}
    (h : ∀ a, s.mc.axes[i]? = some a → (f a).encoder = g a.encoder) :
    encodersOf (modAxis s i f) = { encodersOf s with axes := upd (encodersOf s).axes i g } := by
  have haxes : (upd s.mc.axes i f).map Axis.encoder = upd (s.mc.axes.map Axis.encoder) i g := by
    refine List.ext_getElem? fun j => ?_
    simp only [upd, List.getElem?_map, List.getElem?_modify]
    by_cases hj : i = j
    · subst hj
      cases ha : s.mc.axes[i]? with
      | none => rfl
      | some a => simp [h a ha]
    · simp [hj]
  exact congrArg (Encoders.mk · (calRec s 3)) haxes

theorem encodersOf_modAxis_same (s : State) (i : Nat) {f : Axis → Axis} (h : ∀ a, (f a).encoder = a.encoder) :
    encodersOf (modAxis s i f) = encodersOf s := by
  rw [encodersOf_modAxis s i (g := id) fun a _ => h a, upd, List.modify_id]

theorem encodersOf_raise (s : State) (m : FaultMsg) : encodersOf (raise s m) = encodersOf s := rfl

theorem encodersOf_notify (s : State) (mbx code arg : Nat) : encodersOf (notify s mbx code arg) = encodersOf s :=
  apply_ite_eq encodersOf rfl rfl

theorem encodersOf_setAxis (s : State) (i st cause : Nat) : encodersOf (setAxis s i st cause) = encodersOf s := by
  rw [setAxis, encodersOf_notify, encodersOf_modAxis_same]
  exact fun _ => rfl

theorem encodersOf_trigger (s : State) (i cause : Nat) : encodersOf (trigger s i cause) = encodersOf s :=
  apply_ite_eq encodersOf (encodersOf_setAxis ..) (apply_ite_eq encodersOf (encodersOf_modAxis_same s i fun _ => rfl) rfl)

theorem encodersOf_stopAxis (s : State) (i cause kind : Nat) : encodersOf (stopAxis s i cause kind) = encodersOf s := by
  rw [stopAxis, encodersOf_raise, encodersOf_setAxis]

theorem encodersOf_clearAxis (s : State) (i : Nat) : encodersOf (clearAxis s i) = encodersOf s :=
  apply_ite_eq encodersOf (encodersOf_setAxis ..) rfl

theorem encodersOf_follow (s : State) (i : Nat) : encodersOf (follow s i) = encodersOf s := by
  unfold follow
  extract_lets _ _ _ s'
  have hs' : encodersOf s' = encodersOf s := encodersOf_modAxis_same s i fun _ => rfl
  exact apply_ite_eq encodersOf (by rw [encodersOf_raise, encodersOf_trigger, hs']) hs'

theorem runStep_encoder (p : List Word) (a : Axis) : (runStep p a).encoder = a.encoder := by
  unfold runStep
  extract_lets
  refine apply_ite_eq Axis.encoder rfl ?_
  simp only [Axis.encoder]

theorem rampStep_encoder (p : List Word) (a : Axis) : (rampStep p a).encoder = a.encoder := by
  unfold rampStep
  extract_lets
  refine apply_ite_eq Axis.encoder rfl ?_
  extract_lets
  refine apply_ite_eq Axis.encoder ?_ ?_ <;> simp only [Axis.encoder]

theorem command_encoder (i : Nat) (p e : List Word) (a : Axis) : (command i p e a).encoder = a.encoder := rfl

theorem encodersOf_moveAxis (s : State) (i : Nat) : encodersOf (moveAxis s i) = encodersOf s := by
  refine encodersOf_modAxis_same s i fun a => (command_encoder ..).trans ?_
  exact apply_ite_eq Axis.encoder (runStep_encoder ..) (apply_ite_eq Axis.encoder (rampStep_encoder ..) rfl)

theorem encodersOf_response (s : State) (i prev : Nat) (x : AxisIn) : encodersOf (response s i prev x) = encodersOf s := by
  unfold response
  refine apply_ite_eq encodersOf ?_ ?_
  · extract_lets s'
    have hs' : encodersOf s' = encodersOf s := encodersOf_modAxis_same s i fun _ => rfl
    exact apply_ite_eq encodersOf ((encodersOf_stopAxis ..).trans hs') hs'
  · extract_lets s'
    have hs' : encodersOf s' = encodersOf s := encodersOf_modAxis_same s i fun _ => rfl
    exact apply_ite_eq encodersOf ((encodersOf_stopAxis ..).trans hs') ((encodersOf_clearAxis ..).trans hs')

theorem encodersOf_post (s : State) (i : Nat) (t : Q) : encodersOf (post s i t) = encodersOf s :=
  apply_ite_eq encodersOf (encodersOf_modAxis_same s i fun _ => rfl) (encodersOf_modAxis_same s i fun _ => rfl)

theorem encodersOf_rearm (s : State) (ok : Bool) : encodersOf (rearm s ok) = encodersOf s :=
  apply_ite_eq encodersOf rfl (apply_ite_eq encodersOf rfl rfl)

theorem encodersOf_setTm (s : State) (tm : List (Nat × Nat × Nat × Nat × Nat × Nat)) :
    encodersOf { s with mc := { s.mc with tm := tm } } = encodersOf s := rfl

theorem encodersOf_sendPoses (s : State) (n : Nat) : encodersOf (sendPoses s n) = encodersOf s := rfl

/-! ### The loop tick (R420, R423, R445) -/

theorem encodersOf_modAxis_latched (s : State) (i : Nat) (x : AxisIn) {f : Axis → Axis}
    (h : ∀ a, (f a).encoder = { a.encoder with latched := (axisOf s i).encoder.sample (calRec s 3 i) x }) :
    encodersOf (modAxis s i f) = (encodersOf s).latchAt i x := by
  refine encodersOf_modAxis s i fun a ha => ?_
  have hax : axisOf s i = a := by simp [axisOf, ha]
  rw [h, hax]
  rfl

theorem encodersOf_latch (s : State) (i n : Nat) (x : AxisIn) : encodersOf (latch s i n x) = (encodersOf s).latchAt i x := by
  unfold latch
  extract_lets _ _ _ _ _ _ s' s''
  have hs' : encodersOf s' = (encodersOf s).latchAt i x := encodersOf_modAxis_latched s i x fun _ => rfl
  have hs'' : encodersOf s'' = (encodersOf s).latchAt i x := apply_ite_eq encodersOf hs' hs'
  exact apply_ite_eq encodersOf (by rw [encodersOf_raise, encodersOf_trigger, hs'']) hs''

theorem encodersOf_axisTick (s : State) (i n : Nat) (x : AxisIn) :
    encodersOf (axisTick s i n x) = (encodersOf s).latchAt i x := by
  rw [axisTick, encodersOf_response, encodersOf_moveAxis, encodersOf_follow, encodersOf_latch]

theorem encodersOf_foldl {f : State → Nat → State} {ins : Nat → AxisIn}
    (h : ∀ s i, encodersOf (f s i) = (encodersOf s).latchAt i (ins i)) (l : List Nat) (s : State) :
    encodersOf (l.foldl f s) = l.foldl (fun v i => v.latchAt i (ins i)) (encodersOf s) :=
  (List.foldl_hom encodersOf fun s i => (h s i).symm).symm

/-- A tick latches the six axes once each, with the loops running or halted. -/
theorem encodersOf_loopTick (s : State) (ins : List AxisIn) (armed : Bool) :
    encodersOf (loopTick s ins armed) =
      (List.range 6).foldl (fun v i => v.latchAt i (ins.getD i default)) (encodersOf s) := by
  unfold loopTick
  extract_lets n s₁ _ _ s₂ _ s₃
  have hs₁ : encodersOf s₁ = encodersOf s := encodersOf_rearm s armed
  rw [← hs₁]
  clear_value s₁
  refine apply_ite_eq encodersOf ?_ ?_
  · rw [← encodersOf_setTm s₁ []]
    exact encodersOf_foldl (fun s i => encodersOf_latch s i n (ins.getD i default)) _ _
  · have hs₂ : encodersOf s₂ = _ :=
      encodersOf_foldl (fun s i => encodersOf_axisTick s i n (ins.getD i default)) (List.range 6) s₁
    have hs₃ : encodersOf s₃ = encodersOf s₂ := apply_ite_eq encodersOf (encodersOf_post ..) rfl
    exact (encodersOf_sendPoses s₃ n).trans (hs₃.trans hs₂)

/-- The sample of an axis in the model's own terms: its record in force is the one it took, or else the calibration's. -/
theorem sample_encoder (s : State) (i : Nat) (x : AxisIn) : (axisOf s i).encoder.sample (calRec s 3 i) x =
    if encBiss (encOf s i) then (if x.ok then x.pos else (axisOf s i).latched) else (axisOf s i).count := rfl

theorem latched_loopTick (s : State) (ins : List AxisIn) (armed : Bool) {n : Nat} (hlen : n < s.mc.axes.length)
    (hn : n < 6) :
    (axisOf (loopTick s ins armed) n).latched =
      (axisOf s n).encoder.sample (calRec s 3 n) (ins.getD n default) := by
  have haxes := congrArg (fun v => v.axes[n]?)
    ((encodersOf_loopTick s ins armed).trans (foldl_latchAt (fun i => ins.getD i default) _ 6))
  simp only [encodersOf, List.getElem?_map, List.getElem?_mapIdx, List.getElem?_eq_getElem hlen, Option.map_some, hn,
    if_true, Option.map_eq_some_iff] at haxes
  obtain ⟨a, ha, hlatch⟩ := haxes
  have hafter : axisOf (loopTick s ins armed) n = a := by simp [axisOf, ha]
  have hbefore : axisOf s n = s.mc.axes[n] := by simp [axisOf, hlen]
  rw [hafter, hbefore]
  exact congrArg Encoder.latched hlatch

theorem exec_loopTick (ins : List AxisIn) (armed : Bool) (s : State) :
    exec (.loopTick ins armed) s = .next (loopTick s ins armed) := rfl

theorem regRead_axPos (s : State) {n : Nat} (hn : n < 6) :
    regRead s (0x1E20 + 4 * n) = BitVec.ofInt 32 (axisOf s n).latched := by
  have hindex : (0x1E20 + 4 * n) / 4 - 0x788 = n := by omega
  simp (disch := omega) only [regRead, if_neg, if_pos, hindex]

/-- Settles O60: the tick latches each axis once, from its encoder as it was before the tick. -/
theorem axisPositions : Obligations.AxisPositions := by
  intro s ins armed n hlen hn
  refine ⟨_, exec_loopTick ins armed s, ?_⟩
  rw [regRead_axPos _ hn, latched_loopTick s ins armed (hlen ▸ hn) hn, sample_encoder]

end Sys2Proof.Machine
end
